-- ==== Sys2Proof/Word.lean ====
section
/-! DEFINITION. The word types of the device and their plainest arithmetic (R10: little-endian, bit 0 least significant). -/

namespace Sys2Proof

/-- One byte of memory. -/
abbrev Byte := BitVec 8
/-- A 16-bit quantity. -/
abbrev Half := BitVec 16
/-- A register word: 32 bits, four bytes (R25). -/
abbrev Word := BitVec 32
/-- A 40-bit device address as an address register holds it (R25, R81). -/
abbrev Addr := BitVec 40
/-- A 64-bit quantity: a commit word, a time, a Ledger entry. -/
abbrev DWord := BitVec 64

end Sys2Proof
end

