-- ==== Sys2Proof/Syntax.lean ====
section
/-! DEFINITION. The commands of the block: one constructor of `Instr` per row of the spec's table of
operations and events, and the operand shapes they carry. The table gives no operand fields, so an
operand is what the world outside hands the device with the event (a value written, a burst, a sample,
the verdict of a cryptographic check, the finding of a self-test), and for the tile instructions the
fields of the slot's encoding (R117, R123, R134, R140). -/

namespace Sys2Proof

/-- One of the two hubs: their Stationmasters, Calmi islands and Platform ports go by the same letter (R14). -/
inductive Side where
  | a
  | b
deriving DecidableEq, Repr

/-- Who writes or reads a register (R29, R104, R459): the Stationmaster of a hub, the host through a port or its proxy, the monitor. -/
inductive Writer where
  | stationmaster (hub : Side)
  | host (port : Nat)
  | proxy (port : Nat)
  | monitor
deriving DecidableEq, Repr

/-! ### Tile instructions -/

/-- A declared scoreboard range (R85): space, use, first and last row relative to the berth share. -/
structure RowRange where
  acc : Bool
  write : Bool
  first : Nat
  last : Nat
deriving DecidableEq, Repr

/-- How one slot of a bundle comes to issue on a tile. `last`: it is the last slot of its bundle to be handed over, and the bundle issues (R82).
`nops`: bundles of four NOPs that the sequencer passes before this bundle (R107). `ecc`: the rows that the bundle's reads find with a
corrected (`false`) or an uncorrectable (`true`) word (R70, R71), and `eccF` the same of a coupled pair's follower. -/
structure Issue where
  tile : Nat
  last : Bool
  nops : Nat
  ecc : List (Nat × Bool)
  eccF : List (Nat × Bool)
deriving DecidableEq, Repr

/-- A store row operand (R112). -/
structure RowOp where
  r : Bool
  a : BitVec 4
  off : BitVec 11
deriving DecidableEq, Repr

/-- An accumulator operand (R113). -/
structure AccOp where
  r : Bool
  a : BitVec 3
  off : BitVec 8
deriving DecidableEq, Repr

/-- The source of an LDW (R123): store rows (SF = 0) or a device address (SF = 1). -/
inductive LdwSrc where
  | store (src : RowOp)
  | device (an : BitVec 4) (off : BitVec 20)
deriving DecidableEq, Repr

/-- The fields every VEC instruction shares (R140); SUB is spread over the rows of the table. -/
structure VecOp where
  ty : BitVec 2
  d : BitVec 5
  a : BitVec 5
  b : BitVec 5
  c : BitVec 5
  n1 : BitVec 8
  satf : Bool
  bi : Bool
  bs : Bool
  imm : BitVec 16
deriving DecidableEq, Repr

/-- Where a dock write comes from (R97): a DOCKWR that is queued on a tile of this device, named by its
place in that tile's move queue, or a Caravan dock write of another seat. -/
inductive DockSource where
  | tile (t : Nat) (move : Nat)
  | seat (seat : Nat) (op : Nat) (tenant : Nat) (dock : Nat) (offset : Nat) (rows : List (List Byte))
deriving DecidableEq, Repr

/-- What a read of a protected word finds (R70, R294). -/
inductive EccFinding where
  | clean
  | corrected
  | uncorrectable
  | macFail
deriving DecidableEq, Repr

/-- What a requester's read of a DRAM line finds (R291, R292): the symbols that are spoiled, of the 72 of a line, and whether the MAC fails although no symbol is
spoiled or the one that is has been corrected. -/
structure LineFinding where
  line : Nat
  symbols : List Nat
  mac : Bool
deriving DecidableEq, Repr

/-- A row, or a column line, of a bank of a stack (R289, R298). -/
structure DramUnit where
  channel : Nat
  bank : Nat
  column : Bool
  index : Nat
deriving DecidableEq, Repr

/-- What the engine's reads of the Interlocking store find, and in which area (R258, R317): 0 and 1 the world buffers, 2 the request slots, 3 the plan
area, 4 the working space. -/
structure IlkFinding where
  found : EccFinding
  area : Nat
deriving DecidableEq, Repr

/-! ### Findings that other commands carry -/

/-- A ring descriptor as the Stationmaster sets it up (R224). -/
structure RingSpec where
  ring : Nat
  base : Nat
  sizeLog2 : Nat
  kind : Nat
  enable : Bool
deriving DecidableEq, Repr

/-- A program image of the drive reserve (R44, R246). -/
structure DriveImage where
  handle : Nat
  dest : Nat
  data : List Byte
  serving : Bool
deriving DecidableEq, Repr

/-- What the Stationmaster provides for a tenant: ring descriptors, runs of ordinary pages (first page, count), and for
tenant 0 the drive program images (log entry 36). -/
structure Provision where
  rings : List RingSpec
  pages : List (Nat × Nat)
  programs : List DriveImage
deriving DecidableEq, Repr

/-- Bytes with the public key that signed them and the signature (R397, R399, R400). -/
structure SignedPart where
  key : List Byte
  body : List Byte
  sig : List Byte
deriving DecidableEq, Repr

/-- A first-stage image (R399, R400): its signed bytes, its SVN, its four components in the order of the Manifest (Stationmaster, Calmi A, Calmi B,
Interlocking microcode), and its platform configuration block (R233, R345, R440, R468). -/
structure FirstStage where
  image : SignedPart
  svn : Nat
  components : List SignedPart
  calUser : List (Nat × BitVec 16)
  addrMap : List (BitVec 5)
  weight0 : Nat
  topclass0 : Nat
  portRate : Nat
deriving DecidableEq, Repr

/-- The customer safety table as both islands read it (R332, R335): whether each finds it valid, its version, the drive diagnostic
interval, the actions by event (`true`: SAFE_HOLD), the GPIOs that an event's NOTIFY drives, the timetable digest that it names (R244), and its signed bytes
(R400). -/
structure SafetyTable where
  okA : Bool
  okB : Bool
  version : Nat
  driveMs : Nat
  actions : List (Nat × Bool)
  gpio : List (Nat × List Nat)
  ttDigest : List Byte
  signed : SignedPart
deriving DecidableEq, Repr

/-- What training measures in a half (R431): VIA page of the receiving end, bundle, and the eye margins of lanes 0–71 in 1/64 unit interval. -/
structure HalfFinding where
  page : Nat
  bundle : Nat
  margins : List Nat
deriving DecidableEq, Repr

/-- What the end of a start-up or handover step reports (R49, R51, R435, R436). `ok` is the outcome of the checks
that the step makes as a whole: digest checks, TRNG start-up test, proving run; `slots` are the images of flash slots A and B; `injFailPairs` and `injFailLanes` are the
units whose injection test fails twice, `injOncePairs` and `injOnceLanes` those that pass the second one (R316); the other fields are what single steps find, read or place. -/
structure StepReport where
  ok : Bool
  failTiles : List Nat
  badRows : List (Nat × Nat)
  injFailPairs : List Nat
  injFailLanes : List Nat
  injOncePairs : List Nat
  injOnceLanes : List Nat
  march : List (Nat × DramUnit)
  untrained : List (Nat × Nat)
  logBad : List Nat
  lanes : List HalfFinding
  trngFails : Nat
  reserveAt : Nat
  image : List Byte
  slots : List (Option FirstStage)
  table : Option SafetyTable
  provision : Provision
deriving DecidableEq, Repr

/-- A unit that recovery, verdict and injection tests are about (R317, R315). -/
inductive FaultUnit where
  | pair (p : Nat)
  | tile (t : Nat)
  | lane (j : Nat)
  | timetabling
deriving DecidableEq, Repr

/-- One seat of the convoy roster as a roster update or an acknowledgement carries it (R371, R373): its Manifest, the attestation key of the Manifest's chain, whether
the chain, the accepted digests and the leader's nonce hold, and whether it is the standby. -/
structure SeatInfo where
  seat : Nat
  live : Bool
  keyEpoch : Nat
  addrs : List (BitVec 128)
  manifest : List Byte
  attestKey : List Byte
  chainOk : Bool
  standby : Bool
deriving DecidableEq, Repr

/-- One Caravan operation (R381): TYPE 0x01–0x08, and the engines' messages of TYPE 0x10–0x17 but JOIN, which comes from outside the roster. The membership epoch of a
message stands in its packet's header. -/
inductive CaravanOp where
  | dockWrite (op : Nat) (tile : Nat) (dock : Nat) (offset : Nat) (rows : List (List Byte))
  | memWrite (op : Nat) (addr : Nat) (data : List Byte)
  | readRequest (op : Nat) (addr : Nat) (len : Nat)
  | readResponse (op : Nat) (addr : Nat) (data : List Byte)
  | commitRequest (op : Nat) (addr : Nat) (expected : DWord) (new : DWord)
  | commitResponse (op : Nat) (status : Nat) (old : DWord)
  | completion (op : Nat) (status : Nat)
  | ackOnly
  | heartbeat (steps : List (Nat × Nat)) (suspects : List Nat) (claims : List (Nat × Nat))
  | ack (seats : List SeatInfo) (fenced : Bool)
  | fence (seat : Nat) (epoch : Nat)
  | roster (seats : List SeatInfo)
  | leave
  | bank (op : Nat) (consist : Nat) (step : Nat)
  | bankLost (consist : Nat) (step : Nat)
  | unlisted (type : Nat)
deriving DecidableEq, Repr

/-- A Caravan packet (R378): the convoy port by which it travels and its UDP destination port, the fields of its header with the reserved bytes as received, what its
encrypted part holds, and its GCM tag. -/
structure CaravanPacket where
  port : Nat
  udp : Nat
  version : Nat
  src : Nat
  dst : Nat
  convoy : Nat
  keyEpoch : Nat
  memEpoch : Nat
  psn : Nat
  ack : Nat
  sack : DWord
  len : Nat
  rsv : List Byte
  tenant : Nat
  op : CaravanOp
  tag : List Byte
deriving DecidableEq, Repr

/-- A join request as it reaches this device (R371): its way, the convoy that it names, the Manifest with the attestation key of its chain, the verdict on the
chain, the digests and the leader's nonce, the joiner's port addresses, and whether it joins as the standby. -/
structure JoinRequest where
  port : Nat
  udp : Nat
  version : Nat
  convoy : Nat
  manifest : List Byte
  attestKey : List Byte
  chainOk : Bool
  addrs : List (BitVec 128)
  standby : Bool
deriving DecidableEq, Repr

/-- A Sync as the clock sees it (R368, R369): the port and the domain in which it comes, the standard's transport (IEEE 802.3, or UDP/IPv6), the data set by which
the master is compared with others (priority 1, class, accuracy, variance, priority 2, identity), and the times of the exchange: its origin in master time, from
the Sync or a two-step master's Follow_Up, and the delay request's departure in station time and arrival in master time. -/
structure PtpSync where
  port : Nat
  domain : Nat
  ethernet : Bool
  master : List Nat
  origin : Int
  request : Int
  response : Int
deriving DecidableEq, Repr

/-- A Viaduct frame as a receiving end sees it (R425): the flit is carried as bytes, the CRC as received; `src` is the number that R428 gives
the source of its traffic, which a frame's own fields do not hold. -/
structure ViaFrame where
  src : Nat
  flit : List Byte
  crc : BitVec 16
  cls : BitVec 2
  dest : BitVec 3
  seq : BitVec 5
  credit : BitVec 4
  kind : BitVec 2
deriving DecidableEq, Repr

/-- What a received Ethernet frame carries (R365, R366). -/
inductive EthBody where
  | neighborSolicit (target : BitVec 128)
  | neighborAdvert (target : BitVec 128)
  | echoRequest (dst : BitVec 128) (payload : List Byte)
  | macControl
  | other
deriving DecidableEq, Repr

/-- A received Ethernet frame that is neither Caravan nor PTP (R365, R366): its length with header and FCS, its IEEE 802.1Q tags, its FCS, the codewords that the FEC
corrected and could not correct (R394), and its content. -/
structure EthFrame where
  len : Nat
  tags : Nat
  fcsOk : Bool
  fecCorr : Nat
  fecUncorr : Nat
  body : EthBody
deriving DecidableEq, Repr

/-- The training flows of a device-role port (R341). -/
inductive TrainingFlow where
  | commandBus
  | wck2ck
  | readDq
  | writeFifo
  | perPinDfe
deriving DecidableEq, Repr

/-- How a host command keeps the rules of JESD209-5 that the port checks (R361): the class of the lowest broken rule
outside the port's own bank, window and record state, if any. -/
inductive BusCheck where
  | good
  | timing
  | undefinedMr
  | unsupported
  | linkEcc
deriving DecidableEq, Repr

/-- What TEST names (R478). -/
inductive TestTarget where
  | tile (t : Nat)
  | lane (j : Nat)
deriving DecidableEq, Repr

/-- The characters of LOAD as they ended (R479): the bytes taken and the CRC that followed them. -/
structure LoadInput where
  off : Nat
  len : Nat
  data : List Byte
  crc : Word
deriving DecidableEq, Repr

/-- One command per row of the table. -/
inductive Instr where
  -- services (R45-R58)
  | serviceReqDrive (who : Writer) (parked : Bool) (guard : BitVec 16)
  | serviceReqDepot (who : Writer) (parked : Bool) (guard : BitVec 16)
  | parked (who : Writer) (value : Bool)
  | parkOkSample (a : Bool) (b : Bool)
  | handoverStepEnd (r : StepReport)
  | handoverCheckpoint
  | stepLate
  | handoverFailed
  -- CTL slot (R117-R122)
  | loop (i : Issue) (creg : BitVec 6) (cimm : BitVec 20) (skip : BitVec 16)
  | endloop (i : Issue)
  | br (i : Issue) (pop : BitVec 2) (off : BitVec 16)
  | brc (i : Issue) (reg : BitVec 6) (cond : BitVec 3) (bit : BitVec 6) (pop : BitVec 2) (off : BitVec 16)
  | waitEvent (i : Issue) (imm : Word)
  | waitDock (i : Issue) (dock : BitVec 4) (rf : Bool) (sreg : BitVec 5) (imm : Word)
  | waitTime (i : Issue) (sreg : BitVec 5)
  | waitTags (i : Issue) (imm : Word)
  | signalEvent (i : Issue) (rf : Bool) (sreg : BitVec 5) (tile : BitVec 6) (num : BitVec 4)
  | signalDockOpen (i : Issue) (num : BitVec 4)
  | signalDockClose (i : Issue) (num : BitVec 4)
  | sets (i : Issue) (dst : BitVec 6) (imm : Addr)
  | adds (i : Issue) (dst : BitVec 6) (srca : BitVec 6) (srcb : BitVec 6) (imm : Word)
  | roster (i : Issue) (sb : BitVec 5) (table : RowOp) (n1 : BitVec 8) (chunk : BitVec 13) (skip : BitVec 16)
  | budget (i : Issue) (sd : BitVec 5) (thresh : Word)
  | fence (i : Issue) (mask : BitVec 3)
  | mark (i : Issue) (value : BitVec 16)
  | endWaybill (i : Issue) (code : BitVec 16)
  -- MOV slot (R123-R133)
  | ldrow (i : Issue) (tag : BitVec 4) (an : BitVec 4) (dst : RowOp) (n1 : BitVec 8) (sf : Bool) (ss : BitVec 5) (off : BitVec 20)
  | strow (i : Issue) (tag : BitVec 4) (an : BitVec 4) (src : RowOp) (n1 : BitVec 8) (sf : Bool) (ss : BitVec 5) (off : BitVec 20)
  | ldledger (i : Issue) (tag : BitVec 4) (an : BitVec 4) (dst : RowOp) (n1 : BitVec 8) (sd : BitVec 5) (off : BitVec 20)
  | dockwr (i : Issue) (tag : BitVec 4) (src : RowOp) (n1 : BitVec 3) (seatf : Bool) (seat : BitVec 8) (tile : BitVec 6) (dock : BitVec 4) (doff : BitVec 11)
  | platcpy (i : Issue) (tag : BitVec 4) (dan : BitVec 4) (san : BitVec 4) (lreg : BitVec 5)
  | gather (i : Issue) (tag : BitVec 4) (an : BitVec 4) (dst : RowOp) (idx : RowOp) (n1 : BitVec 7) (sm : Bool) (ss : BitVec 5)
  | ldw (i : Issue) (tag : BitVec 4) (mode : BitVec 2) (sc : Bool) (n1 : BitVec 6) (src : LdwSrc)
  | commit (i : Issue) (tag : BitVec 4) (an : BitVec 4) (se : BitVec 5) (sn : BitVec 5) (sd : BitVec 5) (seatf : Bool) (seat : BitVec 8) (off : BitVec 20)
  | moveComplete (tile : Nat) (move : Nat) (lines : List LineFinding) (ecc : List (Nat × Bool)) (eccF : List (Nat × Bool))
  -- MAT slot (R134-R139)
  | mma (i : Issue) (act : RowOp) (acc : AccOp) (m1 : BitVec 8) (fmt : BitVec 4) (scl : RowOp)
  | mmaz (i : Issue) (act : RowOp) (acc : AccOp) (m1 : BitVec 8) (fmt : BitVec 4) (scl : RowOp)
  | conv (i : Issue) (act : RowOp) (acc : AccOp) (sd : BitVec 5) (fmt : BitVec 4) (scl : RowOp)
  | dconv (i : Issue) (act : RowOp) (acc : AccOp) (sd : BitVec 5) (fmt : BitVec 4) (scl : RowOp) (g : BitVec 3)
  | swapw (i : Issue)
  | accrd (i : Issue) (acc : AccOp) (m1 : BitVec 8) (dst : RowOp) (ofmt : BitVec 4) (epi : RowOp) (sr : Bool) (relu : Bool)
  -- VEC slot (R140-R146)
  | vopMov (i : Issue) (v : VecOp)
  | vopAdd (i : Issue) (v : VecOp)
  | vopSub (i : Issue) (v : VecOp)
  | vopMul (i : Issue) (v : VecOp)
  | vopMax (i : Issue) (v : VecOp)
  | vopMin (i : Issue) (v : VecOp)
  | vopAbs (i : Issue) (v : VecOp)
  | vopNeg (i : Issue) (v : VecOp)
  | vopRelu (i : Issue) (v : VecOp)
  | vopRcp (i : Issue) (v : VecOp)
  | vopRsqrt (i : Issue) (v : VecOp)
  | vopAnd (i : Issue) (v : VecOp)
  | vopOr (i : Issue) (v : VecOp)
  | vopXor (i : Issue) (v : VecOp)
  | vopShl (i : Issue) (v : VecOp)
  | vopShr (i : Issue) (v : VecOp)
  | vopZero (i : Issue) (v : VecOp)
  | vfma (i : Issue) (v : VecOp)
  | vredSum (i : Issue) (v : VecOp) (lanes : Bool)
  | vredMax (i : Issue) (v : VecOp) (lanes : Bool)
  | vredMin (i : Issue) (v : VecOp) (lanes : Bool)
  | vcvt (i : Issue) (v : VecOp) (src : BitVec 4) (dst : BitVec 4)
  | vtabLoad (i : Issue) (v : VecOp)
  | vtabEval (i : Issue) (v : VecOp)
  | vexp2 (i : Issue) (v : VecOp)
  | vmerge (i : Issue) (v : VecOp) (init : Bool) (final : Bool)
  | vpoolMax (i : Issue) (v : VecOp) (countPad : Bool)
  | vpoolAvg (i : Issue) (v : VecOp) (countPad : Bool)
  | vxpose (i : Issue) (v : VecOp)
  | vsel (i : Issue) (v : VecOp)
  | vcmpEq (i : Issue) (v : VecOp)
  | vcmpNe (i : Issue) (v : VecOp)
  | vcmpLt (i : Issue) (v : VecOp)
  | vcmpLe (i : Issue) (v : VecOp)
  | vcmpGt (i : Issue) (v : VecOp)
  | vcmpGe (i : Issue) (v : VecOp)
  -- tile pages, berths and docks (R68-R106)
  | budgetExhausted (tile : Nat)
  | tileSegPwr (who : Writer) (tile : Nat) (w : Word)
  | segmentPowerDown (tile : Nat) (seg : Nat)
  | segmentReady (tile : Nat) (seg : Nat)
  | rowScrub (tile : Nat) (found : EccFinding)
  | berthStore (who : Writer) (tile : Nat) (n : Nat) (w : Word)
  | berthIbuf (who : Writer) (tile : Nat) (n : Nat) (w : Word)
  | berthOwner (who : Writer) (tile : Nat) (n : Nat) (w : Word)
  | berthHandle (who : Writer) (tile : Nat) (n : Nat) (w : Word)
  | berthZeroed (tile : Nat) (n : Nat)
  | berthImageLoaded (tile : Nat) (n : Nat) (lines : List LineFinding)
  | dockOpen (who : Writer) (tile : Nat) (k : Nat) (w : Word)
  | dockClose (who : Writer) (tile : Nat) (k : Nat) (w : Word)
  | dockRange (who : Writer) (tile : Nat) (k : Nat) (ctl : Bool) (w : Word)
  | remoteWrite (tile : Nat) (src : DockSource) (ecc : List (Nat × Bool)) (eccF : List (Nat × Bool))
  | dockWriteLanded (tile : Nat)
  | eventArrival (tile : Nat) (bit : Nat) (tenant : Nat)
  -- rings, dispatch and timetable (R223-R257, R353-R357)
  | doorbell (port : Nat) (slot : Nat) (ring : Word) (count : BitVec 16) (rsv : BitVec 16) (seq : Word) (crc : Word)
  | doorbellReread (port : Nat) (slot : Nat)
  | completionRingDoorbell (port : Nat) (slot : Nat) (ring : Word) (count : BitVec 16) (rsv : BitVec 16) (seq : Word) (crc : Word)
  | placement
  | waybillStart (wid : Nat)
  | completionRecord (idx : Nat)
  | dropSpan
  | pageRelease (idx : Nat)
  | tick
  | slotStart
  | latestStart (entry : Nat)
  | safetyRankEvaluation (entry : Nat)
  | abortComplete (pair : Nat)
  | provingRun
  | provingRunEnd (pair : Nat) (output : List Byte)
  | frameSyncEdge (high : Nat)
  | frameSyncStuck
  | missingTick
  | internalTick
  | depotTick
  | poLoad (who : Writer)
  | ppLoad (who : Writer)
  -- control rings (R204, R230, R403-R419)
  | openSeq (ring : Nat)
  | appendTokens (ring : Nat)
  | setEvictable (ring : Nat)
  | closeSeq (ring : Nat)
  | sessionOpen (ring : Nat) (p : Provision)
  | sessionClose (ring : Nat)
  | register (ring : Nat) (serving : Bool)
  | rotate (ring : Nat)
  | manifest (ring : Nat)
  | rekeyPage (drained : Bool)
  -- Interlocking engine (R258-R288)
  | ilkRequest (slot : Nat) (found : IlkFinding)
  | plan (found : IlkFinding)
  | check (found : IlkFinding)
  | ilkLoad
  | loadComplete (found : IlkFinding) (lines : List LineFinding)
  | checkComplete (found : IlkFinding)
  | checkStop (tested : List Nat) (found : IlkFinding)
  | timetablingAttempt (found : IlkFinding)
  | planWatch (found : IlkFinding)
  | bufferStopComputed (found : IlkFinding)
  | ilkOwner (who : Writer) (w : Word)
  -- stacked DRAM (R289-R310)
  | patrol (die : Nat) (symbols : List Nat) (mac : Bool) (copyBad : Bool)
  | lineRewrite (die : Nat)
  | chMigrated (die : Nat) (lines : List LineFinding)
  | dramRefresh (die : Nat) (channel : Nat) (bank : Nat)
  | thermalSample (die : Nat) (diodes : List (Int × Int)) (sensors : List Int)
  | driveReserveCopy
  -- coupling, recovery and islands (R311-R338)
  | compareMismatch (u : FaultUnit)
  | recoveryPhaseEnd
  | phaseLate
  | verdict (u : FaultUnit) (passes : List Bool)
  | spareFill (die : Nat)
  | injectionTest (u : FaultUnit) (ok : Bool)
  | selftestSegment (u : FaultUnit) (ok : Bool)
  | diagnosticInterval (tile : Nat)
  | islandStateWord (fromA : Bool) (fromB : Bool)
  | heartbeatCheck (hubA : Bool) (hubB : Bool)
  | clockCheck (refclk : Int) (oscA : Int) (oscB : Int)
  | voltageSample (island : Side) (readings : List (Nat × Nat))
  | frameLost
  -- Platform ports (R339-R364)
  | hostRead (port : Nat) (offset : Nat) (len : Nat) (channel : Nat) (bank : Nat) (bus : BusCheck)
  | hostWrite (port : Nat) (offset : Nat) (data : List (Option Byte)) (channel : Nat) (bank : Nat) (bus : BusCheck)
  | forwardedWrite (port : Nat)
  | modeRegisterWrite (port : Nat) (channel : Nat) (mr : Nat) (value : Byte) (bus : BusCheck)
  | training (port : Nat) (channel : Nat) (flow : TrainingFlow) (ok : Bool)
  | hostRefresh (port : Nat) (channel : Nat) (bank : Option Nat) (bus : BusCheck)
  | selfRefreshEntry (port : Nat) (channel : Nat) (bus : BusCheck)
  | selfRefreshExit (port : Nat) (channel : Nat) (bus : BusCheck)
  | powerDownEntry (port : Nat) (channel : Nat) (bus : BusCheck)
  | powerDownExit (port : Nat) (channel : Nat) (bus : BusCheck)
  | deepSleepEntry (port : Nat) (channel : Nat) (bus : BusCheck)
  | deepSleepExit (port : Nat) (channel : Nat) (bus : BusCheck)
  | portReset (port : Nat)
  | proxyRequest (port : Nat) (entry : Nat) (addr : DWord) (wdata : Word) (ctl : Word)
  | proxyResponse (port : Nat) (entry : Nat)
  | platIrqStat (port : Nat) (w : Word)
  | completionHoldoff (port : Nat)
  | peerTraining (port : Nat) (ok : Bool)
  | peerLost (port : Nat) (fell : Bool)
  | peerIrq (port : Nat)
  -- convoy (R365-R394)
  | linkDown (port : Nat)
  | ptpSync (x : PtpSync)
  | join (who : Writer)
  | leave (who : Writer)
  | joinRequest (j : JoinRequest)
  | rosterUpdate (p : CaravanPacket)
  | heartbeatTimer
  | heartbeat (p : CaravanPacket)
  | acknowledgement (p : CaravanPacket)
  | seatDead (seat : Nat)
  | convoyFence (p : CaravanPacket)
  | leaseExpiry
  | leaveMessage (p : CaravanPacket)
  | standbyClaim
  | leaderSelfFence
  | caravanPacket (p : CaravanPacket)
  | retransmit (seat : Nat) (psn : Nat)
  | acknowledgementOnly (seat : Nat)
  | bank (p : CaravanPacket)
  | bankLost (p : CaravanPacket)
  | bankLate (consist : Nat) (member : Nat)
  | arm (who : Writer) (slot : Nat) (w : Word)
  | freeSlot (who : Writer) (slot : Nat) (w : Word)
  -- security (R395-R423)
  | setOwnerSlot
  | revokeSlot
  | advanceRollback
  | toField
  | toReturned
  | toScrapped
  | drbgReseed
  | trngFail (hub : Side)
  -- start-up, Viaducts, power and cooling (R424-R458)
  | porstNAssert
  | porstNRelease (role0 : Bool) (role1 : Bool) (bootSel : BitVec 3) (diodes : List (Nat × Nat × Int))
  | startUpStepEnd (r : StepReport)
  | startLate
  | warmReset
  | warmResetRelease
  | viaductFrame (page : Nat) (bundle : Nat) (f : ViaFrame)
  | retry (page : Nat) (bundle : Nat) (seq : BitVec 5)
  | viaStorm (page : Nat) (bundle : Nat)
  | brownout (rail : Nat)
  | avsUpdate (requests : List Nat) (read : Nat)
  | powerSample (watts : Nat)
  | thermalTrip (diodes : List (Nat × Nat × Int))
  | flowSample (edges : Nat) (latest : Nat) (overrate : Nat) (inlet : Int) (outlet : Int)
  | coolingLost (slope : Bool)
  | agingMonitor (tile : Nat) (headroom : Nat)
  -- register pages, counters and the monitor (R459-R480)
  | errNext (who : Writer) (page : Nat)
  | errSticky (who : Writer) (page : Nat) (w : Word)
  | errFirst (who : Writer) (page : Nat) (w : Word)
  | errInject (who : Writer) (page : Nat) (w : Word)
  | hubTimeLo (hub : Side)
  | cntGo (who : Writer) (page : Nat) (w : Word)
  | cntLoRead (who : Writer) (page : Nat) (n : Nat)
  | cntLoWrite (who : Writer) (page : Nat) (n : Nat) (w : Word)
  | counterWrap (page : Nat) (n : Nat) (bundle : Nat)
  | monId
  | monBaud (rate : Nat)
  | monToken (token : List Byte)
  | monEnd
  | monStat
  | monRd (addr : Nat) (n : Nat)
  | monCnt (page : Nat)
  | monErr (page : Option Nat)
  | monWr (addr : Nat) (w : Word)
  | monErrclr (page : Nat)
  | monTest (target : TestTarget)
  | monLoad (l : LoadInput)
  | monLoadTimeout (off : Nat) (len : Nat)
  | monBoot (off : Nat) (image : FirstStage)
  | monUnlock (answerOk : Bool)
  | registerWrite (who : Writer) (addr : Nat) (w : Word)
  | islandFault (island : Side)
  | routerFault (die : Nat) (region : Nat)
  | fabricFault (die : Nat)
  | dramUe (addr : Nat) (symbols : List Nat) (mac : Bool) (copyBad : Bool)
  | slackFault (die : Nat)
  | linkUp (port : Nat) (partner : Option Nat)
  | ethernetFrame (port : Nat) (f : EthFrame)
  | activate (port : Nat) (channel : Nat) (bank : Nat) (row : Nat) (bus : BusCheck)
  | precharge (port : Nat) (channel : Nat) (bank : Nat) (bus : BusCheck)
  | tokenExpiry
  | contextLoad (tile : Nat)
  | testReport (ok : Bool)
  | sessionCloseZeroed (tenant : Nat)
  | internalResetRelease
deriving DecidableEq, Repr

end Sys2Proof
end

