-- ==== Sys2Proof/Config.lean ====
section
/-! DEFINITION. What one device fixes that the spec leaves open: the free values. Each is an opaque
constant, so nothing can be proved of its value; a statement about one holds whatever it is. -/

namespace Sys2Proof.Config

/-- A fresh value of any width, applied to the state's free-value counter (log entry 3). -/
opaque freeNat : Nat → Nat

/-- A fresh byte string of a random or cryptographic result (a challenge, a boot identifier, a key's
public half, a signature, sealed bytes): byte `i` of fresh string `n` (log entry 4). -/
opaque freeByte : Nat → Nat → Byte

/-- Which of the results inside the accuracy bound of R168 a reciprocal of the given FP32 pattern takes. -/
opaque rcpPick : Word → Nat
/-- The same for a reciprocal square root. -/
opaque rsqrtPick : Word → Nat
/-- The same for a base-2 exponential. -/
opaque exp2Pick : Word → Nat

/-- Sign of the zero that a maximum or minimum of zeros of opposite sign gives (R143 names none). -/
opaque zeroPick : Nat → Nat → Bool
/-- Which of the FP32 subnormals near it a base-2 exponential below -126 gives (R168 states no error there). -/
opaque exp2Tiny : Word → Nat

/-- Which entry a full Ledger cache gives up for a new one (R202 names no replacement), applied to the free-value counter. -/
opaque cacheVictim : Nat → Nat

/-- A quotient by zero of the Timetabling stage (R279 gives none), applied to the numerator. -/
opaque openQuotient : Nat → Nat

/-- Whether a hull that lies within the outward rounding of R270 of a node counts as overlapping it, applied to a code of the node
and one of the hull. -/
opaque hullTouch : Nat → Nat → Bool

/-- What a program image, named by its digest, gives for a byte of a berth's store share; `none` where it does not cover the byte. The spec
lays down no image layout (R238, R321). -/
opaque imageByte : List Byte → Nat → Option Byte
/-- Byte `i` of the bundles that a program image, named by its digest, puts into a berth's instruction share. -/
opaque imageCode : List Byte → Nat → Byte

/-- The identity certificate that Perzegal stored in flash (R402). -/
opaque identityCert : List Byte
/-- The signed part of the attestation certificate, by what it names: serial number, lifecycle state, the SHA-512 of the first stage, and the attestation public key
(R402). The spec gives no form for it. -/
opaque attestationTbs : List Byte → Nat → List Byte → List Byte → List Byte
/-- The info string under which HKDF derives the identity key from the seed (R402). -/
opaque identityInfo : List Byte
/-- The line MAC of R292 under the integrity key, over ciphertext, address, tenant and key generation, and the four check symbols of R291: the spec names no
algorithm for either. -/
opaque lineMac : List Byte → List Byte → Nat → Nat → Bool → List Byte
opaque eccSymbols : List Byte → List Byte
/-- The 32-byte operation block of a Caravan packet (R378), by the packet's operation's fields: the spec names what it holds and gives no layout. -/
opaque caravanBlock : Nat → Nat → Nat → Nat → Nat → List Byte
/-- The data bytes of an engine's message of TYPE 0x10–0x17 (R381), by its TYPE and the numbers that it carries: the spec gives no layout. -/
opaque caravanControl : Nat → List Nat → List Byte

end Sys2Proof.Config
end

