-- ==== Sys2Proof/Machine/State.lean ====
section
/-! DEFINITION. The state of the block, as plain data: every register, buffer, queue, table, mode and pin the
spec gives the device, the queue of waiting commands, and the model's own clock and free-value counter. -/

namespace Sys2Proof.Machine

open Sys2Proof

/-- Sparse data by key: keys strictly rising, and no entry that equals what an unlisted key reads as. -/
abbrev SMap (α : Type) := List (Nat × α)

/-- The family's three sizes (R3). -/
inductive Size where
  | s2
  | s3
  | s4
deriving DecidableEq, Repr

/-- The hashes of Perzegal's keys in the Hub A ROM (R395, R400): of the manufacturing, integration and test keys and of the firmware key. -/
structure Rom where
  manufacturing : List Byte
  integration : List Byte
  test : List Byte
  firmware : List Byte
deriving DecidableEq, Repr

/-- The fuses (R24, R73, R395, R423, R460): what power-off does not lose. Key hashes are kept as byte strings; `rowFuse` are the failing store rows of the
fuse map, by tile unit, `dramFuse` the repairs of each stack made at assembly test, `viaFuse` the lanes that it found failing, by
4 · VIA page + bundle. -/
structure Fuses where
  size : Size
  lifecycle : Nat
  ownerSet : List Nat
  ownerRevoked : List Nat
  ownerHash : SMap (List Byte)
  rollback : Nat
  seed : Option (List Byte)
  serial : List Byte
  macs : SMap (BitVec 48)
  calFact : SMap Word
  rowFuse : SMap (List Nat)
  dramFuse : SMap (List DramUnit)
  viaFuse : SMap (List Nat)
  rom : Rom
deriving DecidableEq, Repr

/-- An entry of a stack's repair log (R293, R298): a line, or a row or column that a march test found. -/
inductive RepairEntry where
  | line (l : Nat)
  | unit (u : DramUnit)
deriving DecidableEq, Repr

/-- What the device keeps outside its fuses when power is off (R73, R298): by tile unit the weak store rows recorded so far and the rows that the last cold
start repaired, the repair log of each stack in the flash, and the units marked worn (R457). -/
structure Flash where
  weakRows : SMap (List Nat)
  softRows : SMap (List Nat)
  repairLog : SMap (List RepairEntry)
  worn : List Nat
deriving DecidableEq, Repr

/-- What holds the device's logic (R434, R438, R450). -/
inductive Hold where
  | none
  | porst
  | hot
  | warm
  | trip
  | erasing (step : Nat)
deriving DecidableEq, Repr

/-- Start-up (R434-R438): what holds the logic, the running step (0 none), whether the start is warm, whether the next one must be cold,
whether a hot spot read below 0 °C at PORST_N release, whether it stopped, the accepted first stage, and the lost queue entries (tenant, address)
of which drive-ready sends MEM_LOST notices (R243). -/
structure Start where
  hold : Hold
  step : Nat
  warm : Bool
  coldOwed : Bool
  chilled : Bool
  stopped : Bool
  releasedAt : Nat
  stepBegan : Nat
  late : Bool
  role0 : Bool
  role1 : Bool
  bootSel : BitVec 3
  safeReset : Bool
  first : Option FirstStage
  memLost : List (Nat × Nat)
deriving DecidableEq, Repr

/-- The service handover in progress (R49-R58). `before`: DIRECTION as it stood before this handover, which a cancel brings back (R45); `failed`: it
has failed, and stays until a reset (R57). -/
structure Handover where
  toDepot : Bool
  step : Nat
  trigger : Nat
  request : Nat
  driveWanted : Bool
  abandoned : Nat
  lateLogged : Bool
  before : Nat
  failed : Bool
deriving DecidableEq, Repr

/-- One island's view of PARK_OK (R47): the filtered level and the run of equal samples that differ from it. -/
structure ParkFilter where
  level : Bool
  run : Nat
deriving DecidableEq, Repr

/-- The roster walk of a ROSTER level (R119). -/
structure RosterWalk where
  sb : Nat
  chunk : Nat
  lens : List Nat
  j : Nat
  t : Nat
deriving DecidableEq, Repr

/-- One open loop level (R118, R119). -/
structure LoopLevel where
  count : Nat
  index : Nat
  body : Nat
  roster : Option RosterWalk
deriving DecidableEq, Repr

/-- A queued move's captured operands (R127-R131). Rows are absolute rows of the tile's store. -/
inductive MoveKind where
  | load (addr : Nat) (stride : Nat) (dst : Nat) (n : Nat)
  | store (addr : Nat) (stride : Nat) (src : Nat) (n : Nat)
  | ledgerLoad (addr : Nat) (dst : Nat) (n : Nat) (sd : Nat)
  | dockWrite (src : Nat) (n : Nat) (seat : Option Nat) (tile : Nat) (dock : Nat) (off : Nat)
  | platCopy (dst : Nat) (src : Nat) (len : Nat)
  | gather (own : Bool) (srcs : List Nat) (dst : Nat)
  | weights (fromStore : Bool) (src : Nat) (mode : Nat) (n : Nat) (sc : Bool)
  | commit (addr : Nat) (expected : DWord) (new : DWord) (sd : Nat) (seat : Option Nat)
deriving DecidableEq, Repr

/-- One issued move that has not completed (R76, R124): its tag, ranges, the Ledger pages it translated at its start
(aperture page, physical page), its outcome where a check at its start or the far end has fixed it. -/
structure Move where
  tag : Nat
  kind : MoveKind
  ranges : List RowRange
  pages : List (Nat × Nat)
  gens : List (Nat × Bool)
  status : Option Nat
  mask : Nat
  sent : Bool
  landed : Bool
  old : DWord
  op : Nat
deriving DecidableEq, Repr

/-- A weight buffer (R60-R63, R130): its recorded mode, how many K rows are written, their bytes and the scale plane. -/
structure WeightBuffer where
  mode : Nat
  krows : Nat
  bytes : SMap Byte
  scales : SMap Byte
deriving DecidableEq, Repr

/-- An accepted dock write waiting in the ingress buffer (R97). -/
structure IngressWrite where
  dock : Nat
  first : Nat
  rows : List (List Byte)
  src : DockSource
deriving DecidableEq, Repr

/-- What a berth keeps beside its registers (R93, R94, R238); `emptying`: it becomes EMPTY once its last dock has closed (R96). -/
structure BerthInfo where
  zeroing : Bool
  loading : Bool
  lastRun : Nat
  emptying : Bool
deriving DecidableEq, Repr

/-- Where a unit stands in fault handling (R317-R326). -/
inductive Health where
  | inService
  | verdict
  | rejoining
  | injecting
  | withdrawn
  | vacant
  | halted
deriving DecidableEq, Repr

/-- One Jarhan tile (R59, R81): registers, buffers, queues and the context that runs. `unitTenant` tells which tenant last used a
unit of 16 store rows (R94); `segment`: when the self-test segment began that the dispatcher has placed (R330);
`corrected` the corrections of store rows within the last second, by row and time, and `rowMap` the failing rows that repair rows 0, 1, … stand in for (R73);
`kWas` the issue allowance before the last change and the window of that change (R89); `bundle` the slots of the next bundle handed over so far, `ibuf` the bytes of the instruction buffer (R59, R80), `stBefore` ST as it stood before
the bundle that issues (R108). -/
structure Tile where
  sregs : SMap Word
  aregs : SMap Addr
  vregs : SMap Byte
  vwritten : List Nat
  acc : SMap Word
  accWritten : List Nat
  accFloat : List Nat
  wa : WeightBuffer
  wb : WeightBuffer
  activeB : Bool
  tabs : SMap Word
  st : Word
  pc : Nat
  loops : List LoopLevel
  moves : List Move
  events : BitVec 16
  rng : Word
  wid : Option Nat
  rank : Nat
  budget : Nat
  beganClk : Nat
  stopped : Bool
  scrubQueue : List Nat
  scrubWalk : Nat
  poison : List Nat
  corrected : List (Nat × Nat)
  rowMap : List Nat
  kWas : Nat × Nat
  ingress : List IngressWrite
  berths : SMap BerthInfo
  unitTenant : SMap Nat
  poweringDown : List Nat
  poweringUp : List Nat
  health : Health
  coupled : Bool
  worn : Bool
  segsDone : Nat
  lastPass : Nat
  testAsked : Bool
  reload : Bool
  segment : Option Nat
  bundle : List Instr
  ibuf : SMap Byte
  stBefore : Word
deriving DecidableEq, Repr

/-- A ring descriptor (R224). -/
structure Ring where
  base : Nat
  sizeLog2 : Nat
  kind : Nat
  enable : Bool
  head : Word
  tail : Word
  dbseq : Word
  inflight : Nat
deriving DecidableEq, Repr

/-- A waybill (R226). -/
structure Waybill where
  ring : Nat
  tenant : Nat
  store16 : Nat
  ibuf64 : Nat
  handle : Nat
  tiles : Nat
  tag : Nat
  budget : Nat
  seed : Word
  deadline : Nat
  cring : Nat
  arg2 : Word
  commit : Nat
  arg0 : Nat
  arg1 : Nat
deriving DecidableEq, Repr

/-- A completion record that waits for room in its ring (R228); `wid` names the placement it frees. -/
structure Completion where
  cring : Nat
  ring : Nat
  index : Nat
  status : Nat
  code : Nat
  tag : Nat
  stlo : Nat
  value : Nat
  wid : Option Nat
deriving DecidableEq, Repr

/-- A placed waybill or timetable task (R237, R243): its placement record. `waiting`: the allocation of R206 waits for pages; `ord`: its place in the
order of original placements, and `latest` a task's latest start (R242, R249). -/
structure Placement where
  wid : Nat
  wb : Waybill
  index : Nat
  entry : Option Nat
  units : List Nat
  pairs : Bool
  started : Bool
  readyAt : Option Nat
  ended : Bool
  status : Nat
  code : Nat
  stlo : Nat
  value : Nat
  serving : Bool
  pinned : List Nat
  releaseClk : Nat
  aborting : Bool
  waiting : Bool
  ord : Nat
  latest : Nat
  toTick : Nat
deriving DecidableEq, Repr

/-- A timetable entry (R245). -/
structure TTEntry where
  handle : Nat
  release : Nat
  deadline : Nat
  budget : Nat
  pairs : Nat
  pool : Nat
  rank : Nat
  proof : Bool
  store16 : Nat
  ibuf64 : Nat
  arg2 : Word
  arg0 : Nat
deriving DecidableEq, Repr

/-- A loaded timetable (R244). -/
structure Timetable where
  slots : Nat
  floor : Nat
  internal : Bool
  proofSlot : Nat
  reserve : Nat
  pools : List (BitVec 32)
  entries : List TTEntry
  slack : List (BitVec 32)
  digest : List Byte
deriving DecidableEq, Repr

/-- Where a timetable entry stands in the running frame (R247-R250). -/
inductive EntryPhase where
  | idle
  | released
  | running
  | ended
  | shed
  | skipped
deriving DecidableEq, Repr

/-- An entry's run state: its phase and its consecutive overruns (R241). -/
structure EntryRun where
  phase : EntryPhase
  overruns : Nat
deriving DecidableEq, Repr

/-- A class's cursor in the weighted round robin and its held waybill's ring (R234, R235). -/
structure ClassCursor where
  tenant : Nat
  left : Nat
  rings : SMap Nat
  held : Option Nat
deriving DecidableEq, Repr

/-- The dispatcher (R223-R257). `order` and `pairOrder` are the active placement orders; PLACE_ORDER and PLACE_PAIR are their shadows.
`ahead`: work that waits to be placed again (R242); `provingBy`: the end of the slot in which the proving run began (R250); `tickDelay`: how long after the owed tick its frame starts (R251). -/
structure Dispatcher where
  rings : SMap Ring
  tenants : SMap (Nat × Nat × Nat)
  classes : SMap ClassCursor
  placements : List Placement
  nextWid : Nat
  completions : List Completion
  order : List Nat
  pairOrder : List Nat
  frozen : Bool
  stopped : Bool
  tt : Option Timetable
  runs : SMap EntryRun
  inFrame : Bool
  lastFrame : Bool
  frameStart : Nat
  lastTick : Option Nat
  tickOwed : Bool
  ctlCursor : Nat
  nextDepotTick : Nat
  depotTickAt : Nat
  depotMs : Nat
  syncHigh : Bool
  lastPulse : Option Nat
  proving : List Nat
  provingBy : Nat
  ahead : List Placement
  lastFrameAt : Nat
  tickDelay : Nat
deriving DecidableEq, Repr

/-- A Ledger entry (R199). -/
structure LedgerEntry where
  valid : Bool
  dropped : Bool
  lock : Bool
  keygen : Bool
  tenant : Nat
  seqTag : Nat
  age : Nat
  ppn : Nat
deriving DecidableEq, Repr

/-- State of a sequence descriptor (R203). -/
inductive SeqState where
  | free
  | opened
  | closing
deriving DecidableEq, Repr

/-- A sequence descriptor (R203). -/
structure Seq where
  state : SeqState
  evictable : Bool
  pinned : Bool
  tenant : Nat
  region : Nat
  pages : Nat
  layers : Nat
  tpKib : Nat
  lmax : Nat
  tokens : Nat
  kvLen : Nat
  mappedSpans : Nat
  toklog : Nat
  lastServed : Nat
  droppedSpans : Nat
deriving DecidableEq, Repr

/-- A page owner map entry (R296). -/
structure Owner where
  tenant : Nat
  keygen : Bool
  assigned : Bool
deriving DecidableEq, Repr

/-- A physical page that a drop or a close has given up and that moves may still use (R202); `drop`: the drop engine took it (R206). -/
structure PendingPage where
  ppn : Nat
  apPage : Nat
  drop : Bool
deriving DecidableEq, Repr

/-- The Ledger (R199-R222). `pool` lists the free pages as runs: first page and length, rising; `caches` the entries that the Ledger caches of compute dies
0–3 and of Hub A (4) hold, newest first (R202). -/
structure Ledger where
  entries : SMap LedgerEntry
  seqs : SMap Seq
  pool : List (Nat × Nat)
  pending : List PendingPage
  nextSite : Nat
  dropTarget : Nat
  caches : SMap (List Nat)
deriving DecidableEq, Repr

/-- Geometry and size of a loaded world (R259-R262). -/
structure World where
  prim : Bool
  nodes : Nat
  nprim : Nat
  nmesh : Nat
  ntri : Nat
  leafMm : Nat
  depth : Nat
  binMs : Nat
  t0 : Nat
  ox : Nat
  oy : Nat
  oz : Nat
deriving DecidableEq, Repr

/-- Status of one candidate (R273, R276). -/
structure CandResult where
  status : Nat
  wp : Nat
  bucket : Nat
  cls : Nat
  cycles : Nat
deriving DecidableEq, Repr

/-- A request of the Interlocking engine from its acceptance on (R264-R267): its row, the tenant that its writer's tile ran, and once
started its epoch (0 none), the buffer it reads and its start; then the results of its check, the candidates that the Timetabling
stage has still to try, and the lane cycles spent. -/
structure IlkRun where
  slot : Nat
  row : List Byte
  writer : Option Nat
  epoch : Nat
  buf : Nat
  start : Nat
  checked : Bool
  late : Bool
  fault : Bool
  results : List CandResult
  todo : List Nat
  tried : Nat
  tests : Nat
deriving DecidableEq, Repr

/-- Status of the current plan (R281). -/
inductive PlanStatus where
  | none
  | clear
  | failed
  | watching
deriving DecidableEq, Repr

/-- The Interlocking engine (R258-R288). The plan and the buffer-stop lie in the plan area of the store; `planRow` is the row of the
request that produced the plan, `watchFrom` when the running plan watch started; `lanesOut` the lane pairs isolated or withdrawn, `lanesLost`
those that stay withdrawn; `laneSegs` the segments done of each lane pair's self-test pass (R329). -/
structure Ilk where
  epochCount : Nat
  current : Bool
  active : Nat
  worlds : SMap World
  lastSeq : SMap Nat
  queue : List IlkRun
  running : Option IlkRun
  loading : Option IlkRun
  pendingLoad : Option IlkRun
  planStatus : PlanStatus
  planRow : List Byte
  bsHit : Bool
  watch : Bool
  watchFrom : Nat
  lanesOut : List Nat
  lanesLost : List Nat
  timetablingFault : Bool
  coupled : Bool
  laneSegs : SMap Nat
deriving DecidableEq, Repr

/-- One die's thermal control (R303-R306, R446-R449): the band called for, the cool samples in a row for the band and for the refresh rate,
per hot spot the run of samples more than 6 °C apart, the flagged and the lost hot spots, the last 300 samples for the slope, whether
thermal-degraded state is in force, and on a hub whether it is hot. -/
structure DieTherm where
  called : Nat
  cool : Nat
  refCool : Nat
  apart : SMap Nat
  flagged : List Nat
  lost : List Nat
  allLost : Bool
  samples : List Int
  degraded : Bool
  refreshX2 : Bool
  hubHot : Bool
deriving DecidableEq, Repr

/-- One stack (R289-R310): the patrol's next line, lines that wait to be rewritten, lines corrected with their times, lines that were
rewritten, uncorrectable lines by channel, the channel that migrates and since when, the rows and columns that its banks' spare rows and columns
replace, and failing channels that stay. -/
structure Stack where
  patrolAt : Nat
  rewrites : List Nat
  corrected : List (Nat × Nat)
  rewritten : List Nat
  uncorr : SMap Nat
  failing : Option (Nat × Nat)
  repairs : List DramUnit
  noSpare : List Nat
deriving DecidableEq, Repr

/-- DRAM as a whole: marked lines (numbered over all stacks), the page owner map, and the drive reserve: its pages, where it starts within
a stack, the stacks on which a copy made later starts elsewhere, the sites that hold its copies and the site on which a new one is built (R294, R296, R307, R320); the key table that every controller
holds, slot 2·TENANT + KEYGEN, and the line integrity key (R292, R295). -/
structure Dram where
  marked : List Nat
  owner : SMap Owner
  stackTab : SMap Stack
  reservePages : Nat
  reserveAt : Nat
  reserveMoved : SMap Nat
  reserveSites : List Nat
  building : Option Nat
  keyTable : SMap (List Byte)
  integrityKey : List Byte
  therm : SMap DieTherm
deriving DecidableEq, Repr

/-- Phases of the recovery (R318). -/
inductive Phase where
  | none
  | quench
  | discard
  | isolate
  | spareLoad
  | resume
deriving DecidableEq, Repr

/-- What a fault accuses (R317). -/
inductive Suspect where
  | unit (u : FaultUnit)
  | die (d : Nat)
  | dieTiles (d : Nat)
  | dieSlack (d : Nat)
  | bundle (page : Nat) (b : Nat)
  | none
deriving DecidableEq, Repr

/-- A spare that joins a survivor (R325, R326): the logical tile that it serves; `cut`: a recovery has discarded its fill. -/
structure Fill where
  die : Nat
  tile : Nat
  survivor : Nat
  cut : Bool
deriving DecidableEq, Repr

/-- Actions of the customer safety table (R335). -/
inductive Action where
  | notify
  | safeHold
deriving DecidableEq, Repr

/-- One Calmi island (R332-R334). -/
structure Island where
  faulty : Bool
  park : ParkFilter
  peerMissed : Nat
  beatMissedA : Nat
  beatMissedB : Nat
  railsOut : SMap Nat
deriving DecidableEq, Repr

/-- Coupling, recovery and the islands (R311-R338). `began`: when the fault was detected that started the recovery; `detectedAt`: from when its
deadlines count; `restart` is the detection time of the newest fault found after the Isolate deadline, `next`
the suspects of such faults; `gpio` the island GPIOs that an event's NOTIFY drives; `owed` the logical numbers whose unit was replaced in a start or handover and
that still owe its tests (R56). -/
structure Safety where
  phase : Phase
  began : Nat
  detectedAt : Nat
  restart : Option Nat
  suspects : List Suspect
  next : List Suspect
  fills : List Fill
  injFailed : List FaultUnit
  islA : Island
  islB : Island
  actions : SMap Action
  gpio : SMap (List Nat)
  tableOk : Bool
  driveMs : Nat
  tableVer : Nat
  ttDigest : List Byte
  holdAsked : Bool
  owed : List Nat
deriving DecidableEq, Repr

/-- Low-power state that the host has declared on a port (R343). -/
inductive PortSleep where
  | none
  | selfRefresh
  | powerDown
  | deepSleep
deriving DecidableEq, Repr

/-- A doorbell in progress on a slot (R354): the record's fields, re-reads done, and its place in the order of arrival over both
ports; `waiting`: an earlier doorbell of the same ring is in progress. -/
structure Bell where
  slot : Nat
  ring : Word
  count : Nat
  rsv : Nat
  seq : Word
  crc : Word
  reads : Nat
  waiting : Bool
  order : Nat
deriving DecidableEq, Repr

/-- A write to the other hub's page on its way (R348). -/
structure Forward where
  addr : Nat
  value : Word
deriving DecidableEq, Repr

/-- One entry of the register proxy (R351, R352): the request that it holds and the bytes of its response record. -/
structure ProxyEntry where
  busy : Bool
  addr : DWord
  wdata : Word
  ctl : Word
  resp : List Byte
deriving DecidableEq, Repr

/-- One Platform port (R339-R364). Its four channels have mode registers (by 256 ch + mr), trained flows, declared low-power states and open
rows of their own (R341). -/
structure Port where
  mode : SMap Byte
  trained : List (Nat × TrainingFlow)
  sleep : SMap PortSleep
  openRows : SMap Nat
  vacant : Bool
  bells : List Bell
  forwards : List Forward
  proxy : SMap ProxyEntry
  noticeSeq : Nat
  violAt : Option Nat
  unreported : Bool
  readData : List Byte
  peerTrained : Bool
  peerIrqSeen : Bool
deriving DecidableEq, Repr

/-- What the roster says of a seat (R371-R374), with when its last heartbeat came. -/
structure Seat where
  live : Bool
  keyEpoch : Nat
  addrs : List (BitVec 128)
  manifest : List Byte
  attestKey : List Byte
  manifestOk : Bool
  standby : Bool
  lastBeat : Nat
deriving DecidableEq, Repr

/-- A packet sent and not acknowledged (R380), with its bytes on the wire. -/
structure Unacked where
  pkt : CaravanPacket
  wire : List Byte
  tries : Nat
  sentAt : Nat
deriving DecidableEq, Repr

/-- One direction-pair of Caravan transport with a seat (R380); `waiting` holds what the window of 64 packets has no room for, with its tenant. -/
structure Peer where
  nextPsn : Nat
  unacked : List Unacked
  waiting : List (Nat × CaravanOp)
  received : List Nat
  acked : Nat
  suspect : Bool
  ackOwed : Bool
deriving DecidableEq, Repr

/-- What an operation that this device sends to a seat waits for (R381). -/
inductive RemoteKind where
  | dockWrite
  | memWrite
  | read (addr : Nat) (len : Nat)
  | commit
  | bank
deriving DecidableEq, Repr

/-- An operation that this device sends to a seat and awaits (R381), and the tile that issued it. -/
structure RemoteOp where
  op : Nat
  seat : Nat
  tile : Nat
  kind : RemoteKind
deriving DecidableEq, Repr

/-- A message the device has put on the convoy ports, oldest first: a join request and its refusal go to an address, a packet to an address with its
sealed bytes. -/
inductive Sent where
  | join (port : Nat) (dest : BitVec 128) (manifest : List Byte) (standby : Bool)
  | refused (dest : BitVec 128)
  | packet (dest : BitVec 128) (p : CaravanPacket) (wire : List Byte)
  | neighborSolicit (port : Nat) (target : BitVec 128)
  | neighborAdvert (port : Nat)
  | echoReply (port : Nat) (payload : List Byte)
deriving DecidableEq, Repr

/-- A consist slot's hidden state (R384-R391): the last ended step of each member seat, the last 16 steps that half of the members have ended
with their times T(s), newest first, the durations of the last 16 steps, the members and steps for which BANK was sent, the step that a copy on this seat
has claimed and not yet reported, the step for which this seat's bank ring is to be served, and when the slot was armed. -/
structure Consist where
  ended : SMap Nat
  halves : List (Nat × Nat)
  durations : List Nat
  banked : List (Nat × Nat)
  claim : Option Nat
  bankStep : Option Nat
  since : Nat
deriving DecidableEq, Repr

/-- Convoy membership, transport and PTP (R365-R394): `leadSince` and `beatAt` are when this seat began to lead and last sent heartbeats, `neighbors` the addresses that Neighbor
Discovery has resolved on each port, `ptpMaster` the data set of the master that the clock follows and when its last Sync came. -/
structure Convoy where
  roster : SMap Seat
  leaderSeat : Nat
  leaseAt : Nat
  leaseOn : Bool
  leadSince : Nat
  beatAt : Nat
  peers : SMap Peer
  ops : List RemoteOp
  nextOp : Nat
  sent : List Sent
  lastPort : Nat
  consists : SMap Consist
  neighbors : List (Nat × BitVec 128)
  ptpMaster : Option (List Nat × Nat)
  ptpGood : Nat
  slew : Int
  slewPhase : Nat
deriving DecidableEq, Repr

/-- The keys of a session (R406): K_in, K_out and K_seal with their salts. -/
structure SessionKeys where
  kIn : List Byte
  kOut : List Byte
  kSeal : List Byte
  saltIn : List Byte
  saltOut : List Byte
  saltSeal : List Byte
deriving DecidableEq, Repr

/-- A tenant session (R402-R406): `pubKey` and `privKey` are its ECDH key pair, `clientKey` the client's public key. No requester reads a private key. -/
structure Session where
  reserve : Nat
  quota : Nat
  pubKey : List Byte
  privKey : Nat
  clientKey : List Byte
  keys : SessionKeys
  genKeys : Bool × Bool
  cur : Bool
  sealCount : Nat
  nextSerial : Nat
  closing : Bool
deriving DecidableEq, Repr

/-- A registered object (R410). -/
structure Handle where
  handle : Nat
  digest : List Byte
  dest : Nat
  len : Nat
  serving : Bool
deriving DecidableEq, Repr

/-- An import in progress (R410); `data` is the plaintext of its parts so far. -/
structure Import where
  tenant : Nat
  kind : Nat
  dest : Nat
  next : Nat
  data : List Byte
  serving : Bool
deriving DecidableEq, Repr

/-- A control operation that the Stationmaster has taken and not yet completed (R413, R419). -/
structure Deferred where
  cring : Nat
  ring : Nat
  index : Nat
  tag : Nat
  tenant : Nat
  param : Nat
deriving DecidableEq, Repr

/-- A sweep of ROTATE (R413): its tenant, the pages still to rewrite in order, the operation that waits for its end, and the aperture page of the front page
while LOCK is set on it, with when it was set (R414). -/
structure Sweep where
  tenant : Nat
  pages : List Nat
  op : Deferred
  locked : Option (Nat × Nat)
deriving DecidableEq, Repr

/-- The security engines (R395-R423). `components`: digests of the Stationmaster firmware, the two island firmwares and the Interlocking
microcode (R400, R411). `devicePub`, `devicePriv`: the device session key pair, empty and 0 where there is none; `attestKey`: the private
attestation key of the boot (R402). -/
structure Security where
  challenge : List Byte
  bootId : Nat
  drbgCount : Nat
  sessions : SMap Session
  handles : List Handle
  imports : List Import
  sweeps : List Sweep
  closing : List Deferred
  devicePub : List Byte
  devicePriv : Nat
  identityKey : Nat
  attestKey : Nat
  attestCert : List Byte
  life : Nat
  tenant0Keys : Bool
  tenant0Cur : Bool
  manifests : Nat
  serviceManifest : List Byte
  firstStage : List Byte
  components : List (List Byte)
  ttDigest : List Byte
  tableDigest : List Byte
deriving DecidableEq, Repr

/-- Power and cooling control (R443-R455). -/
structure Power where
  kc : Nat
  below : Nat
  inletCap : Nat
  inletHot : Nat
  inletVeryHot : Nat
  inletCool : Nat
  lowFlow : Nat
  okFlow : Nat
  capUp : Nat
  overOk : Nat
  lostOk : Nat
  flowCap : Nat
  watts : List Nat
deriving DecidableEq, Repr

/-- One end of a Viaduct bundle (R426, R429). As the receiver of one half: the sequence number expected, whether it discards up to a resent
frame, the retries of the window and the frames delivered. As the sender of the other: the replay buffer, the credits held per class, the
frames that wait to be sent, the frames sent since the last debug frame, and whether the debug frame that waits has been counted as held. -/
structure Link where
  expect : BitVec 5
  discarding : Bool
  replay : List ViaFrame
  retries : Nat
  delivered : List ViaFrame
  thresh : Nat
  credits : List Nat
  waiting : List ViaFrame
  sinceDebug : Nat
  held : Bool
  last : List Nat
  asked : Option (BitVec 5)
deriving DecidableEq, Repr

/-- Why a monitor command ended ERR (R475). -/
inductive MonError where
  | denied
  | badArg
  | busy
  | unmapped
  | crc
deriving DecidableEq, Repr

/-- The end line of a monitor command (R475): OK, ERR with its reason, or no answer at all (R476). -/
inductive MonEnd where
  | silent
  | ok
  | err (e : MonError)
deriving DecidableEq, Repr

/-- The serial monitor (R475-R480). -/
structure Monitor where
  token : Option (Nat × Nat)
  tokenAgainAt : Nat
  unlockAgainAt : Nat
  testModes : Bool
  reply : MonEnd
  words : List Nat
  testing : Option TestTarget
  testAt : Nat
  loaded : Option (Nat × Nat)
  booted : Option FirstStage
deriving DecidableEq, Repr

/-- One arbiter of R39: its inputs' weights and remaining grants, and the input granted last. -/
structure Arbiter where
  weight : List Nat
  credit : List Nat
  last : Nat
deriving DecidableEq, Repr

/-- Levels on the output balls (R481, R483). -/
structure Pins where
  safeA : Bool
  safeB : Bool
  frameOut : Nat
  gpio : List Nat
deriving DecidableEq, Repr

/-- The device. `evs`: what the events of the running cycle have supplied so far, by the page's address + 16 · event + SUB (R471). -/
structure State where
  pending : List Instr
  clk : Nat
  now : Nat
  free : Nat
  fuses : Fuses
  flash : Flash
  regs : SMap Word
  errq : SMap (List Word)
  errOvf : List Nat
  cnt : SMap Nat
  cntHeld : SMap Nat
  cntReload : SMap Nat
  cntCapture : SMap Nat
  cntLevel : SMap Nat
  evs : SMap Nat
  mem : SMap Byte
  start : Start
  svc : Option Handover
  tiles : SMap Tile
  disp : Dispatcher
  ledger : Ledger
  ilk : Ilk
  dram : Dram
  safety : Safety
  ports : SMap Port
  convoy : Convoy
  sec : Security
  power : Power
  links : SMap Link
  signals : List (Nat × Nat × Nat)
  arbs : SMap Arbiter
  mon : Monitor
  pins : Pins
deriving DecidableEq, Repr

/-- Reasons the device stops with a fault. The spec gives the block no stop of its own: every fault it describes is an
effect on the state (a recovery, a safe state, a reset), so no meaning raises this one. Safe. -/
inductive Fault where
  | neverRaised
deriving DecidableEq, Repr

/-- Reasons for which a command has no meaning. `notModelled`: the arm is not written yet (raised by `exec`'s refused
arms only). Safe: nothing is proved of such a command. -/
inductive Refusal where
  | notModelled (mnemonic : String)
deriving DecidableEq, Repr

/-! ### Reset -/

/-- Key hashes that the spec does not give (log entry 128). -/
def Rom.factory : Rom := { manufacturing := List.replicate 64 0, integration := List.replicate 64 0, test := List.replicate 64 0, firmware := List.replicate 64 0 }

/-- The fuses of the device (R24, R395, R460). DESIGN CHOICE (log entry 5): an S4 in Field state with owner slot 0 programmed;
which chip stands on the board is not a reset value of the spec. -/
def Fuses.factory : Fuses :=
  { size := .s4, lifecycle := 3, ownerSet := [0], ownerRevoked := [], ownerHash := [], rollback := 0,
    seed := some (List.replicate 64 0), serial := List.replicate 16 0, macs := [], calFact := [], rowFuse := [], dramFuse := [], viaFuse := [], rom := Rom.factory }

/-- A start that has not begun: PORST_N is low (R434). -/
def Start.held : Start :=
  { hold := .porst, step := 0, warm := false, coldOwed := true, chilled := false, stopped := false, releasedAt := 0,
    stepBegan := 0, late := false, role0 := false, role1 := false, bootSel := 0, safeReset := false, first := none, memLost := [] }

/-- An empty weight buffer, in the 8-bit mode (R81). -/
def WeightBuffer.empty : WeightBuffer := { mode := 0, krows := 0, bytes := [], scales := [] }

/-- A tile before any waybill has run on it: every register reads 0 (R81, R105). -/
def Tile.initial : Tile :=
  { sregs := [], aregs := [], vregs := [], vwritten := [], acc := [], accWritten := [], accFloat := [],
    wa := WeightBuffer.empty, wb := WeightBuffer.empty, activeB := false, tabs := [], st := 0, pc := 0, loops := [],
    moves := [], events := 0, rng := 1, wid := none, rank := 0, budget := 0, beganClk := 0, stopped := false,
    scrubQueue := [], scrubWalk := 0, poison := [], corrected := [], rowMap := [], kWas := (20, 0), ingress := [], berths := [], unitTenant := [], poweringDown := [],
    poweringUp := [], health := .inService, coupled := false, worn := false, segsDone := 0, lastPass := 0,
    testAsked := false, reload := false, segment := none, bundle := [], ibuf := [], stBefore := 0 }

/-- The dispatcher with nothing loaded. -/
def Dispatcher.initial : Dispatcher :=
  { rings := [], tenants := [], classes := [], placements := [], nextWid := 0, completions := [],
    order := (List.range 64).map (fun j => 16 * (j % 4) + j / 4), pairOrder := (List.range 32).map (fun j => 8 * (j % 4) + j / 4), frozen := false, stopped := false, tt := none, runs := [], inFrame := false, lastFrame := false,
    frameStart := 0, lastTick := none, tickOwed := false, ctlCursor := 2097152, nextDepotTick := 0, depotTickAt := 0, depotMs := 100, syncHigh := false, lastPulse := none,
    proving := [], provingBy := 0, ahead := [], lastFrameAt := 0, tickDelay := 0 }

/-- The Ledger before start-up sizes its pool (R206). -/
def Ledger.initial : Ledger :=
  { entries := [], seqs := [], pool := [], pending := [], nextSite := 0, dropTarget := 0, caches := [] }

/-- The Interlocking engine with no world loaded (R258, R281). -/
def Ilk.initial : Ilk :=
  { epochCount := 0, current := false, active := 0, worlds := [], lastSeq := [], queue := [], running := none, loading := none,
    pendingLoad := none, planStatus := .none, planRow := [], bsHit := false, watch := false, watchFrom := 0, lanesOut := [],
    lanesLost := [], timetablingFault := false, coupled := true, laneSegs := [] }

/-- Stacked DRAM with no page assigned and no line marked (R296). -/
def Dram.initial : Dram :=
  { marked := [], owner := [], stackTab := [], reservePages := 0, reserveAt := 0, reserveMoved := [], reserveSites := [], building := none, keyTable := [], integrityKey := [],
    therm := [] }

/-- An island that has started and seen nothing (R332). -/
def Island.initial : Island :=
  { faulty := false, park := { level := false, run := 0 }, peerMissed := 0, beatMissedA := 0, beatMissedB := 0,
    railsOut := [] }

/-- Fault handling with nothing detected (R317). -/
def Safety.initial : Safety :=
  { phase := .none, began := 0, detectedAt := 0, restart := none, suspects := [], next := [], fills := [],
    injFailed := [], islA := Island.initial, islB := Island.initial, actions := [], gpio := [], tableOk := false, driveMs := 10,
    tableVer := 0, ttDigest := [], holdAsked := false, owed := [] }

/-- A Platform port whose link has not trained (R341). -/
def Port.initial : Port :=
  { mode := [], trained := [], sleep := [], openRows := [], vacant := true, bells := [], forwards := [], proxy := [],
    noticeSeq := 0, violAt := none, unreported := false, readData := [], peerTrained := false, peerIrqSeen := false }

/-- A device that is no seat of a convoy (R370). -/
def Convoy.initial : Convoy :=
  { roster := [], leaderSeat := 0, leaseAt := 0, leaseOn := false, leadSince := 0, beatAt := 0, peers := [],
    ops := [], nextOp := 0, sent := [], lastPort := 3, consists := [],
    neighbors := [], ptpMaster := none, ptpGood := 0, slew := 0, slewPhase := 0 }

/-- The security engines before start-up (R401, R411). -/
def Security.initial : Security :=
  { challenge := [], identityKey := 0, attestCert := [], life := 3, bootId := 0, drbgCount := 0, sessions := [], handles := [], imports := [], sweeps := [], closing := [],
    devicePub := [], devicePriv := 0, attestKey := 0, tenant0Keys := false, tenant0Cur := false, manifests := 0, serviceManifest := [], firstStage := [], components := [],
    ttDigest := [], tableDigest := [] }

/-- Power and cooling control at its first sample (R445, R452). -/
def Power.initial : Power :=
  { kc := 4, below := 0, inletCap := 4, inletHot := 0, inletVeryHot := 0, inletCool := 0, lowFlow := 0, okFlow := 0,
    capUp := 0, overOk := 0, lostOk := 0, flowCap := 4, watts := [] }

/-- The monitor with no token held (R477). -/
def Monitor.initial : Monitor :=
  { token := none, tokenAgainAt := 0, unlockAgainAt := 0, testModes := false, reply := .silent, words := [],
    testing := none, testAt := 0, loaded := none, booted := none }

/-- Both SAFE_STATE pins asserted, nothing else driven (R434, R481). -/
def Pins.held : Pins := { safeA := true, safeB := true, frameOut := 0, gpio := [] }

/-- The device at power-on, PORST_N low: nothing listed in any map, so every register reads its reset value and every byte
of memory 0, and the queue of commands empty (log entries 2 and 135 where the spec states no value). -/
def State.reset : State :=
  { pending := [], clk := 0, now := 0, free := 0, fuses := Fuses.factory, flash := { weakRows := [], softRows := [], repairLog := [], worn := [] }, regs := [], errq := [], errOvf := [], cnt := [],
    cntHeld := [], cntReload := [], cntCapture := [], cntLevel := [], evs := [], mem := [], start := Start.held, svc := none,
    tiles := [], disp := Dispatcher.initial, ledger := Ledger.initial, ilk := Ilk.initial, dram := Dram.initial,
    safety := Safety.initial, ports := [], convoy := Convoy.initial, sec := Security.initial, power := Power.initial,
    links := [], signals := [], arbs := [], mon := Monitor.initial, pins := Pins.held }

end Sys2Proof.Machine
end

