-- ==== Sys2Proof/Machine/RegMap.lean ====
section
/-! DEFINITION. The register map: which page lies where (R459), and every register's fields with their access,
reset value and listed encodings, as the register tables of the chapters give them. -/

namespace Sys2Proof.Machine

open Sys2Proof

/-- Block types of R459, in the order of BLK_ID.TYPE. -/
inductive Blk where
  | hub | hubcnt | mon | service | ledger | dispatch | tick | safety | plat | cvy | eth | sec | pwr | cool | via | therm
  | tileCtl | tileBerth | tileDock | tileCnt | dieCtl | dramc | diecnt | ilk | isl
deriving DecidableEq, Repr

/-- Access codes (R11). -/
inductive Acc where
  | ro | rw | w1c | wo | rwl
deriving DecidableEq, Repr

/-- The encodings that a writable field's description lists (R13). -/
inductive Legal where
  | any
  | range (lo hi : Nat)
  | oneOf (l : List Nat)
deriving DecidableEq, Repr

/-- One field of a register. -/
structure Fld where
  hi : Nat
  lo : Nat
  acc : Acc
  reset : Nat
  legal : Legal
deriving DecidableEq, Repr

/-- One register: its fields, and the bits that keep their value over a warm reset (R462). -/
structure Reg where
  fields : List Fld
  keep : Nat
deriving DecidableEq, Repr

/-- BLK_ID.TYPE (R459). -/
def blkType : Blk → Nat
  | .hub => 0x01 | .hubcnt => 0x02 | .mon => 0x03 | .service => 0x04 | .ledger => 0x05 | .dispatch => 0x06 | .tick => 0x07
  | .safety => 0x08 | .plat => 0x09 | .cvy => 0x0A | .eth => 0x0B | .sec => 0x0C | .pwr => 0x0D | .cool => 0x0E | .via => 0x0F
  | .therm => 0x10 | .tileCtl => 0x11 | .tileBerth => 0x12 | .tileDock => 0x13 | .tileCnt => 0x14 | .dieCtl => 0x15
  | .dramc => 0x16 | .diecnt => 0x17 | .ilk => 0x18 | .isl => 0x19

/-- BLK_CAP.EVENTS: event codes run from 1 (R472); bit `e` of EVT_EN is event code `e` (log entry 12). -/
def blkEvents : Blk → Nat
  | .tileCnt => 0x14 | .hubcnt => 0x11 | .diecnt => 0x0C | _ => 0

/-- BLK_CAP.CAL_WORDS (R469). The instance tells a compute die's THERM page from a hub's. -/
def blkCalWords : Blk → Nat → Nat
  | .therm, i => if i < 4 then 16 else 8
  | .cool, _ => 3
  | .pwr, _ => 2
  | _, _ => 0

/-! ### Page addresses -/

/-- Page of a hub block at the given page number of the hub's range. -/
def hubPage (hub page : Nat) : Nat := 0x5000000000 + hub * 0x800000 + page * 0x1000
/-- Page of logical tile (or spare entry) `t`: 0 TILE_CTL, 1 TILE_BERTH, 2 TILE_DOCK, 3 TILE_CNT (R103). -/
def tilePage (t page : Nat) : Nat := 0x5001000000 + t * 0x10000 + page * 0x1000
/-- Page of compute die `d` (R25). -/
def diePage (d page : Nat) : Nat := 0x5002000000 + d * 0x100000 + page * 0x1000

def pgHub (h : Nat) : Nat := hubPage h 0
def pgHubCnt (h : Nat) : Nat := hubPage h 1
def pgMon : Nat := hubPage 0 2
def pgService : Nat := hubPage 0 3
def pgLedger : Nat := hubPage 0 4
def pgDispatch : Nat := hubPage 0 5
def pgTick : Nat := hubPage 0 6
def pgSafety : Nat := hubPage 0 7
def pgPlat (p : Nat) : Nat := hubPage p 8
def pgCvy : Nat := hubPage 0 9
def pgEth (e : Nat) : Nat := hubPage (e / 2) (0xA + e % 2)
def pgSec : Nat := hubPage 0 0xC
def pgPwr : Nat := hubPage 0 0xD
def pgCool : Nat := hubPage 0 0xE
def pgThermHub (h : Nat) : Nat := hubPage h 0x12
def pgTile (t : Nat) : Nat := tilePage t 0
def pgBerth (t : Nat) : Nat := tilePage t 1
def pgDock (t : Nat) : Nat := tilePage t 2
def pgTileCnt (t : Nat) : Nat := tilePage t 3
def pgDie (d : Nat) : Nat := diePage d 0
def pgDramc (d : Nat) : Nat := diePage d 1
def pgTherm (d : Nat) : Nat := diePage d 4
def pgDieCnt (d : Nat) : Nat := diePage d 5
def pgIlk : Nat := 0x5003000000
def pgIsl (i : Nat) : Nat := 0x5004000000 + i * 0x80000

/-- The fourteen VIA pages, in the order of R433: link 0 end 0, link 0 end 1, link 1 end 0, … -/
def viaPages : List Nat :=
  [diePage 0 2, hubPage 0 0x10, diePage 1 2, hubPage 0 0x11, diePage 2 2, hubPage 1 0x10, diePage 3 2, hubPage 1 0x11,
   hubPage 0 0xF, hubPage 1 0xF, diePage 0 3, diePage 2 3, diePage 1 3, diePage 3 3]

/-- The sites that a link's two ends lie on: 0–3 a compute die, 4 and 5 the hubs. -/
def viaEnds : List Nat := [0, 4, 1, 4, 2, 5, 3, 5, 4, 5, 0, 2, 1, 3]

/-- Sites that a size populates (R4). -/
def sizeSites : Size → List Nat
  | .s2 => [0, 2]
  | .s3 => [0, 1, 2]
  | .s4 => [0, 1, 2, 3]

/-- Package power limit of the size, in watts (R3). -/
def sizeWatts : Size → Nat
  | .s2 => 260
  | .s3 => 370
  | .s4 => 480

/-- HUB_CFG.SIZE (R460). -/
def sizeCode : Size → Nat
  | .s2 => 1
  | .s3 => 2
  | .s4 => 3

/-- The block that a page address holds and its instance, whatever the device's population (R459). -/
def blkAt (page : Nat) : Option (Blk × Nat) :=
  if page < 0x5000000000 then none
  else if page < 0x5001000000 then
    let hub := (page - 0x5000000000) / 0x800000
    let n := (page - 0x5000000000) % 0x800000 / 0x1000
    match n with
    | 0 => some (.hub, hub)
    | 1 => some (.hubcnt, hub)
    | 2 => if hub = 0 then some (.mon, 0) else none
    | 3 => if hub = 0 then some (.service, 0) else none
    | 4 => if hub = 0 then some (.ledger, 0) else none
    | 5 => if hub = 0 then some (.dispatch, 0) else none
    | 6 => if hub = 0 then some (.tick, 0) else none
    | 7 => if hub = 0 then some (.safety, 0) else none
    | 8 => some (.plat, hub)
    | 9 => if hub = 0 then some (.cvy, 0) else none
    | 0xA => some (.eth, 2 * hub)
    | 0xB => some (.eth, 2 * hub + 1)
    | 0xC => if hub = 0 then some (.sec, 0) else none
    | 0xD => if hub = 0 then some (.pwr, 0) else none
    | 0xE => if hub = 0 then some (.cool, 0) else none
    | 0xF => some (.via, 8 + hub)
    | 0x10 => some (.via, if hub = 0 then 1 else 5)
    | 0x11 => some (.via, if hub = 0 then 3 else 7)
    | 0x12 => some (.therm, 4 + hub)
    | _ => none
  else if page < 0x5002000000 then
    let t := (page - 0x5001000000) / 0x10000
    match (page - 0x5001000000) % 0x10000 / 0x1000 with
    | 0 => if t < 68 then some (.tileCtl, t) else none
    | 1 => if t < 68 then some (.tileBerth, t) else none
    | 2 => if t < 68 then some (.tileDock, t) else none
    | 3 => if t < 68 then some (.tileCnt, t) else none
    | _ => none
  else if page < 0x5003000000 then
    let d := (page - 0x5002000000) / 0x100000
    if 4 ≤ d then none else
    match (page - 0x5002000000) % 0x100000 / 0x1000 with
    | 0 => some (.dieCtl, d)
    | 1 => some (.dramc, d)
    | 2 => some (.via, 2 * d)
    | 3 => some (.via, match d with | 0 => 10 | 1 => 12 | 2 => 11 | _ => 13)
    | 4 => some (.therm, d)
    | 5 => some (.diecnt, d)
    | _ => none
  else if page = 0x5003000000 then some (.ilk, 0)
  else if page = 0x5004000000 then some (.isl, 0)
  else if page = 0x5004080000 then some (.isl, 1)
  else none

/-- Number of counters of a counter page (R470). -/
def blkCounters : Blk → Nat
  | .tileCnt => 8
  | .hubcnt => 16
  | .diecnt => 8
  | _ => 0

/-! ### Register tables -/

def ro (hi lo : Nat) (reset : Nat := 0) : Fld := { hi, lo, acc := .ro, reset, legal := .any }
def rw (hi lo : Nat) (reset : Nat := 0) (legal : Legal := .any) : Fld := { hi, lo, acc := .rw, reset, legal }
def wo (hi lo : Nat) : Fld := { hi, lo, acc := .wo, reset := 0, legal := .any }
def w1c (hi lo : Nat) : Fld := { hi, lo, acc := .w1c, reset := 0, legal := .any }
def rwl (hi lo : Nat) (reset : Nat := 0) (legal : Legal := .any) : Fld := { hi, lo, acc := .rwl, reset, legal }

/-- A register that a start returns to reset. -/
def mk (fields : List Fld) : Reg := { fields, keep := 0 }
/-- A register that counts since cold start (R462). -/
def count32 : Reg := { fields := [ro 31 0], keep := 0xFFFFFFFF }
/-- A whole-word status register. -/
def ro32 : Reg := mk [ro 31 0]
/-- A whole-word read-write register. -/
def rw32 : Reg := mk [rw 31 0]

/-- The common header (R461). -/
def regHeader (b : Blk) (inst off : Nat) : Option Reg :=
  if off = 0x000 then some (mk [ro 15 0 (blkType b), ro 23 16 inst])
  else if off = 0x004 then some (mk [ro 7 0, ro 15 8 1])
  else if off = 0x008 then some (mk [ro 7 0 (blkEvents b), ro 12 8 (blkCalWords b inst)])
  else if off = 0x010 then some (mk [rw 0 0])
  else if off = 0x014 then some (mk [ro 0 0, ro 1 1, ro 2 2])
  else if off = 0x020 then some { fields := [w1c 14 1], keep := 0x7FFE }
  else if off = 0x024 then some (mk [rw 14 1 3])
  else if off = 0x028 then some { fields := [ro 15 0, ro 21 16, w1c 31 31], keep := 0x803FFFFF }
  else if off = 0x02C then some count32
  else if off = 0x030 then some (mk [ro 15 0, ro 21 16, ro 30 30, ro 31 31])
  else if off = 0x034 then some (mk [wo 15 0, wo 21 16, rwl 30 30, wo 31 31])
  else if 0x040 ≤ off ∧ off < 0x080 then
    some (mk (if (off - 0x040) / 4 < blkCalWords b inst then [ro 15 0] else []))
  else if 0x080 ≤ off ∧ off < 0x0C0 then
    some (mk (if (off - 0x080) / 4 < blkCalWords b inst then [rwl 15 0] else []))
  else if off = 0x0C0 then
    some (mk (if blkEvents b = 0 then [] else [rw (blkEvents b - 1) 0 (2 ^ blkEvents b - 1)]))
  else if 0x0C4 ≤ off ∧ off < 0x100 then some (mk [])
  else none

/-- A run of whole-word counters since cold start, at offsets `a` to `b`. -/
def countRun (a b off : Nat) : Option Reg := if a ≤ off ∧ off ≤ b then some count32 else none

/-- Block-specific registers of the service, Ledger, dispatch, tick, safety and island pages (R45, R222, R257, R337, R338). -/
def regControl (b : Blk) (off : Nat) : Option Reg :=
  match b with
  | .service =>
    if off = 0x100 then some (mk [rw 1 0 0 (.oneOf [0, 1, 2]), rw 8 8, wo 31 16])
    else if off = 0x104 then some (mk [ro 1 0 1, ro 2 2, ro 3 3, ro 7 4, ro 8 8, ro 9 9, ro 10 10, ro 23 16])
    else if off = 0x108 ∨ off = 0x10C then some ro32
    else none
  | .ledger =>
    if off = 0x100 then some (mk [ro 13 0])
    else if off = 0x104 then some (mk [ro 17 0])
    else if off = 0x108 ∨ off = 0x10C then some (mk [ro 22 0])
    else if off = 0x110 then some (mk [rw 15 0 0x40, rw 31 16 0x80])
    else if off = 0x114 then some (mk [ro 0 0, ro 1 1])
    else if off = 0x118 then some (mk [ro 9 0])
    else countRun 0x11C 0x128 off
  | .dispatch =>
    if off = 0x100 then some (mk [ro 0 0, ro 7 4])
    else if off = 0x104 then some (mk [wo 0 0, wo 1 1])
    else if off = 0x108 then some (mk [ro 13 0])
    else if off = 0x10C then some (mk [ro 23 0])
    else if 0x110 ≤ off ∧ off < 0x150 then
      let i := (off - 0x110) / 4
      some (mk [rw 5 0 i, rw 13 8 (0x10 + i), rw 21 16 (0x20 + i), rw 29 24 (0x30 + i)])
    else if 0x150 ≤ off ∧ off < 0x170 then
      let i := (off - 0x150) / 4
      some (mk [rw 4 0 i, rw 12 8 (0x08 + i), rw 20 16 (0x10 + i), rw 28 24 (0x18 + i)])
    else countRun 0x170 0x180 off
  | .tick =>
    if off = 0x100 then some (mk [rw 8 0 100 (.range 10 500), rw 9 9])
    else if off = 0x104 then some (mk [ro 1 0 1, ro 2 2, ro 3 3, ro 7 4, ro 9 8])
    else if off = 0x108 ∨ off = 0x10C ∨ off = 0x110 then some ro32
    else if off = 0x130 then some { fields := [ro 11 0, ro 31 31], keep := 0x80000FFF }
    else countRun 0x114 0x12C off
  | .safety =>
    if off = 0x100 then some (mk [ro 2 0, ro 3 3, ro 4 4, ro 5 5, ro 6 6, ro 7 7, ro 8 8, ro 9 9])
    else if 0x104 ≤ off ∧ off ≤ 0x110 then some ro32
    else if off = 0x114 then some (mk [ro 15 0])
    else if off = 0x118 then some (mk [ro 15 0 10, rw 31 16 1000 (.range 10 60000)])
    else if off = 0x11C then some ro32
    else countRun 0x120 0x134 off
  | .isl =>
    if off = 0x100 then some (mk [ro 1 0, ro 2 2, ro 3 3])
    else if off = 0x104 then some (mk [ro 15 0, ro 18 16])
    else if off = 0x108 ∨ off = 0x10C ∨ off = 0x110 then some ro32
    else none
  | _ => none

/-- Tile pages (R95, R100, R105) and die control (R24). -/
def regTile (b : Blk) (inst off : Nat) : Option Reg :=
  match b with
  | .tileCtl =>
    if off = 0x100 then some (mk [ro 2 0 1, ro 3 3, ro 4 4, ro 10 8, ro 20 16 (if inst < 64 then inst % 16 else 16)])
    else if off = 0x104 then some (mk [rw 7 0 0xFF, ro 15 8 0xFF])
    else if off = 0x108 then some (mk [ro 4 0 20, ro 12 8])
    else if off = 0x10C then some (mk [ro 4 0])
    else countRun 0x110 0x114 off
  | .tileBerth =>
    if off < 0x100 ∨ 0x180 ≤ off then none
    else match off % 0x10 with
      | 0x0 => some (mk [rw 6 0 0 (.range 0 79), rw 22 16 0 (.range 0 80)])
      | 0x4 => some (mk [rw 4 0, rw 21 16 0 (.range 0 32)])
      | 0x8 => some (mk [rw 11 0, rw 17 16])
      | 0xC => some rw32
      | _ => none
  | .tileDock =>
    if off < 0x100 ∨ 0x500 ≤ off ∨ off % 4 ≠ 0 then none
    else match (off - 0x100) % 0x40 with
      | 0x00 => some (mk [ro 1 0, wo 4 4, wo 5 5, rw 10 8])
      | 0x04 => some (mk [rw 10 0, rw 26 16 0 (.range 1 1280)])
      | 0x08 => some ro32
      | 0x0C => some ro32
      | 0x10 => some ro32
      | 0x14 => some (mk [])
      | _ => some rw32
  | .dieCtl =>
    if 0x100 ≤ off ∧ off < 0x110 then
      let r := (off - 0x100) / 4
      some (mk [ro 4 0 (4 * r), ro 12 8 (4 * r + 1), ro 20 16 (4 * r + 2), ro 28 24 (4 * r + 3)])
    else if off = 0x110 then some (mk [ro 1 0, ro 13 8])
    else if off = 0x114 then some { fields := [ro 16 0], keep := 0x1FFFF }
    else none
  | _ => none

/-- Memory, thermal, power, cooling and Viaduct pages (R310, R433, R458). -/
def regAnalog (b : Blk) (off : Nat) (size : Size) : Option Reg :=
  match b with
  | .dramc =>
    if off = 0x100 then some (mk [ro 0 0, ro 1 1, ro 2 2, ro 3 3, ro 4 4, ro 12 8])
    else if off = 0x104 then some (mk [ro 2 0, ro 3 3, ro 5 4, ro 6 6, ro 15 8, ro 23 16])
    else if off = 0x108 then some (mk [rw 4 0 12 (.range 1 24)])
    else if off = 0x10C then some (mk [rw 15 0 0x400 (.range 16 65535)])
    else if off = 0x110 then some (mk [ro 18 0])
    else if off = 0x128 then some { fields := [ro 7 0, ro 15 8], keep := 0xFF00 }
    else if off = 0x12C then some ro32
    else if off = 0x130 then some (mk [ro 2 0, ro 8 8, ro 9 9])
    else if off = 0x134 ∨ off = 0x138 then some count32
    else countRun 0x114 0x124 off
  | .via =>
    if off = 0x100 then some (mk [ro 3 0, ro 7 4, ro 11 8, ro 12 12])
    else if off = 0x104 then some (mk [rw 15 0 64 (.range 1 65535), rw 21 16 24 (.range 8 63)])
    else if 0x110 ≤ off ∧ off ≤ 0x11C then some (mk [ro 2 0, ro 3 3, ro 10 4])
    else if off = 0x134 then some ro32
    else countRun 0x120 0x130 off
  | .therm =>
    if 0x100 ≤ off ∧ off ≤ 0x11C then some (mk [ro 7 0, ro 15 8, ro 16 16, ro 17 17, ro 18 18, ro 19 19])
    else if off = 0x120 then some (mk [ro 7 0, ro 15 8])
    else if off = 0x124 ∨ off = 0x128 then some ro32
    else if off = 0x12C then some (mk [ro 7 0 0xFF, ro 13 8])
    else none
  | .pwr =>
    if off = 0x100 then some (mk [rw 9 0 (sizeWatts size) (.range 60 (sizeWatts size))])
    else if off = 0x104 then some { fields := [ro 9 0, ro 12 10, ro 13 13, ro 14 14, ro 15 15], keep := 0x8000 }
    else if off = 0x108 then some (mk [ro 9 0, ro 25 16])
    else if off = 0x10C then some ro32
    else none
  | .cool =>
    if off = 0x100 then some (mk [rwl 15 0 4800 (.range 100 20000), rwl 31 16 1500 (.range 1000 4000)])
    else if off = 0x104 then some (mk [ro 15 0, ro 16 16, ro 17 17, ro 18 18, ro 19 19, ro 20 20, ro 23 21])
    else if off = 0x108 then some (mk [ro 7 0, ro 15 8])
    else if off = 0x10C then some ro32
    else none
  | _ => none

/-- Platform, convoy, Ethernet, security, Interlocking, hub and monitor pages (R288, R364, R393, R394, R423, R460, R480). -/
def regOuter (b : Blk) (off : Nat) : Option Reg :=
  match b with
  | .hub =>
    if off = 0x100 ∨ off = 0x104 then some ro32
    else if off = 0x108 then some (mk [ro 3 0, ro 5 4])
    else none
  | .plat =>
    if off = 0x100 then some (mk [ro 0 0, ro 1 1, ro 2 2, ro 3 3, ro 15 8])
    else if off = 0x104 then some (mk [ro 13 0])
    else if off = 0x108 then some (mk [w1c 3 0])
    else if off = 0x10C then some (mk [rw 3 0 1])
    else if off = 0x110 then some (mk [rw 15 0])
    else if off = 0x114 then some ro32
    else if off = 0x118 then some (mk [w1c 7 0])
    else if off = 0x11C then some (mk [ro 2 0, ro 4 3, ro 8 5])
    else if off = 0x140 then some (mk [ro 29 0 0x0A418820])
    else if off = 0x144 then some (mk [ro 29 0 0x16A4A0E6])
    else if off = 0x148 then some (mk [ro 29 0 0x2307B9AC])
    else if off = 0x14C then some (mk [ro 29 0 0x2F6AD272])
    else if off = 0x150 then some (mk [ro 19 0 0x000DEB38])
    else countRun 0x120 0x134 off
  | .cvy =>
    if off = 0x100 then some (mk [rw 1 0, wo 2 2, wo 3 3, rw 5 4, rw 15 8, rw 31 16])
    else if off = 0x104 then some (mk [ro 1 0, ro 2 2, ro 3 3, ro 15 8, ro 24 16])
    else if off = 0x108 ∨ off = 0x10C then some ro32
    else if 0x110 ≤ off ∧ off ≤ 0x11C then some rw32
    else if off = 0x120 then some (mk [rw 15 0 0xC6A8])
    else if off = 0x124 then some (mk [rw 15 0 20 (.range 1 1000), rw 19 16 8 (.range 1 15)])
    else if off = 0x128 then some (mk [rw 7 0 10 (.range 0 200)])
    else if 0x12C ≤ off ∧ off ≤ 0x13C then some ro32
    else if 0x140 ≤ off ∧ off ≤ 0x158 then some count32
    else if 0x200 ≤ off ∧ off < 0x400 then
      match off % 0x10 with
      | 0x0 => some (mk [rw 27 0])
      | 0x4 => some (mk [rw 27 0])
      | 0x8 => some (mk [rw 11 0, rw 16 16, rw 17 17, rw 18 18, rw 31 31])
      | _ => none
    else if 0x400 ≤ off ∧ off < 0x800 then
      match off % 0x40 with
      | 0x00 => some (mk [rw 15 0, rw 27 16, ro 29 28, wo 30 30, wo 31 31])
      | 0x04 => some (mk [rw 20 0])
      | 0x08 => some (mk [rw 20 0, rw 28 21, rw 31 31])
      | 0x0C => some (mk [rw 6 0 0 (.range 1 64)])
      | 0x30 => some ro32
      | o => if o < 0x30 then some rw32 else some (mk [])
    else none
  | .eth =>
    if off = 0x100 then some (mk [rw 1 0, rw 2 2 1, rw 3 3])
    else if off = 0x104 then some (mk [ro 0 0, ro 1 1, ro 2 2])
    else if 0x108 ≤ off ∧ off ≤ 0x114 then some rw32
    else if off = 0x118 then some ro32
    else if off = 0x11C then some (mk [ro 15 0])
    else countRun 0x120 0x12C off
  | .sec =>
    if off = 0x100 then some (mk [ro 2 0])
    else if off = 0x104 then some (mk [ro 3 0, ro 7 4, ro 14 8, ro 16 16])
    else if off = 0x108 then some (mk [ro 1 0, ro 3 2, ro 4 4, ro 11 5, ro 14 12])
    else if off = 0x10C then some (mk [ro 0 0, ro 1 1])
    else if off = 0x110 then some (mk [ro 12 0])
    else if off = 0x114 then some (mk [ro 11 0, ro 12 12])
    else if off = 0x118 then some (mk [ro 22 0])
    else if 0x11C ≤ off ∧ off ≤ 0x138 then some ro32
    else if off = 0x13C then some (mk [rw 24 0, wo 31 31])
    else if off = 0x140 then some (mk [ro 2 0])
    else countRun 0x144 0x150 off
  | .ilk =>
    if off = 0x100 then some (mk [ro 1 0, ro 2 2, ro 3 3, ro 4 4, ro 5 5, ro 6 6, ro 13 8])
    else if off = 0x104 then some ro32
    else if off = 0x108 then some (mk [ro 1 0, ro 2 2])
    else if off = 0x10C then some ro32
    else if off = 0x110 then some (mk [rw 11 0])
    else countRun 0x114 0x130 off
  | .mon =>
    if off = 0x100 then some (mk [ro 0 0, ro 1 1, ro 5 2])
    else if off = 0x104 then some (mk [ro 21 0 115200])
    else if off = 0x108 then some (mk [rw 24 0])
    else if off = 0x10C then some (mk [rw 3 0 6 (.range 6 14), rw 31 31])
    else if off = 0x110 ∨ off = 0x114 ∨ off = 0x118 then some ro32
    else none
  | _ => none

/-- Counter pages (R470): fields beyond the page's number of counters are reserved. -/
def regCounter (b : Blk) (off : Nat) : Option Reg :=
  let n := blkCounters b
  if n = 0 then none
  else if off = 0x100 then some (mk [wo (n - 1) 0, wo (15 + n) 16])
  else if off = 0x104 then some (mk [w1c (n - 1) 0])
  else if off = 0x108 then some (mk (if b = .tileCnt then [ro 15 0] else []))
  else if off = 0x10C then some (mk (if b = .tileCnt then [ro 10 0, ro 14 12] else []))
  else if off = 0x110 ∨ off = 0x114 then some (mk (if b = .tileCnt then [ro 31 0] else []))
  else if off = 0x118 then some (mk [rw (n - 1) 0])
  else if 0x120 ≤ off ∧ off < 0x220 then
    if n ≤ (off - 0x120) / 0x10 then some (mk []) else
    match off % 0x10 with
    | 0x0 => some (mk [rw 7 0, rw 11 8, rw 13 12, rw 14 14, rw 15 15, rw 31 16])
    | 0x4 => some rw32
    | 0x8 => some (mk [rw 15 0])
    | _ => some ro32
  else none

/-- The register at an offset of a page, if one lies there. -/
def regDef (b : Blk) (inst off : Nat) (size : Size) : Option Reg :=
  if off % 4 ≠ 0 then none
  else if off < 0x100 then regHeader b inst off
  else match b with
    | .service | .ledger | .dispatch | .tick | .safety | .isl => regControl b off
    | .tileCtl | .tileBerth | .tileDock | .dieCtl => regTile b inst off
    | .therm => if 4 ≤ inst ∧ (0x110 ≤ off ∧ off ≤ 0x11C ∨ 0x124 ≤ off ∧ off ≤ 0x12C) then some (mk []) else regAnalog b off size
    | .dramc | .via | .pwr | .cool => regAnalog b off size
    | .hub | .plat | .cvy | .eth | .sec | .ilk | .mon => regOuter b off
    | .tileCnt | .hubcnt | .diecnt => regCounter b off

/-- Reset value of a register: its fields' reset values in their places. -/
def Reg.resetWord (r : Reg) : Word := BitVec.ofNat 32 (r.fields.foldl (fun w f => w + f.reset * 2 ^ f.lo) 0)

/-- Who may write a block (R459): `true` for the host direct (with proxy, monitor and Stationmaster), `false` for the
Stationmaster alone. Single registers that R459 excepts are `hostReg`. -/
def blkHostWrites : Blk → Bool
  | .hub | .hubcnt | .mon | .service | .dispatch | .tick | .plat | .cvy | .eth | .sec | .pwr | .cool => true
  | _ => false

/-- Whether the host may write the register at this offset of the block (R459, R222, R337, R393, R423). -/
def hostReg (b : Blk) (off : Nat) : Bool :=
  match b with
  | .ledger => off = 0x110
  | .safety => off = 0x118
  | .cvy => !(0x200 ≤ off && off < 0x400)
  | .sec => off = 0x13C
  | _ => blkHostWrites b

end Sys2Proof.Machine
end

