-- ==== Sys2Proof/Machine/Ops.lean ====
section
/-! DEFINITION. The named operations over memory, registers, error records and counters that every meaning uses. -/

namespace Sys2Proof.Machine

open Sys2Proof

/-- What a meaning answers. -/
abbrev Res := Host.Outcome State Fault Refusal

/-! ### Bits and bytes -/

/-- Bits `hi` to `lo` of a word, as a number. -/
def bitsOf (w : Word) (hi lo : Nat) : Nat := w.toNat / 2 ^ lo % 2 ^ (hi + 1 - lo)

/-- The word with bits `hi` to `lo` replaced by the low bits of `v`. -/
def setBits (w : Word) (hi lo v : Nat) : Word :=
  BitVec.ofNat 32 (w.toNat / 2 ^ (hi + 1) * 2 ^ (hi + 1) + v % 2 ^ (hi + 1 - lo) * 2 ^ lo + w.toNat % 2 ^ lo)

/-- Bit `i` of a number. -/
def bitAt (n i : Nat) : Bool := n / 2 ^ i % 2 = 1

/-- A Boolean as a one-bit field. -/
def b2n (b : Bool) : Nat := if b then 1 else 0

/-- The number with bit `i` set or cleared. -/
def putBit (n i : Nat) (b : Bool) : Nat := n - n / 2 ^ i % 2 * 2 ^ i + b2n b * 2 ^ i

/-- Little-endian value of a byte string (R10). -/
def leNat : List Byte → Nat
  | [] => 0
  | b :: bs => b.toNat + 256 * leNat bs

/-- `n` bytes of a value, little-endian (R10). -/
def natLE : Nat → Nat → List Byte
  | 0, _ => []
  | n + 1, v => BitVec.ofNat 8 v :: natLE n (v / 256)

/-- Two's-complement value of the low `w` bits. -/
def sext (w n : Nat) : Int := if n % 2 ^ w < 2 ^ (w - 1) then (n % 2 ^ w : Nat) else (n % 2 ^ w : Nat) - (2 ^ w : Nat)

/-- The low `w` bits of an integer, in two's complement. -/
def twos (w : Nat) (i : Int) : Nat := (i % (2 ^ w : Nat)).toNat

/-- The integer clamped to a range. -/
def clampI (lo hi i : Int) : Int := if i < lo then lo else if hi < i then hi else i

/-- Indices below 64, 32, … of the set bits of a mask. -/
def maskList (n mask : Nat) : List Nat := (List.range n).filter (bitAt mask)

/-- The mask with the bits of a list set. -/
def listMask (l : List Nat) : Nat := l.eraseDups.foldl (fun m i => m + 2 ^ i) 0

/-! ### Sparse maps -/

/-- The entry at a key. -/
def smFind {α : Type} : SMap α → Nat → Option α
  | [], _ => none
  | (k', v) :: m, k => if k = k' then some v else smFind m k

/-- The map with an entry set; keys stay strictly rising. -/
def smPut {α : Type} : SMap α → Nat → α → SMap α
  | [], k, v => [(k, v)]
  | (k', v') :: m, k, v =>
    if k < k' then (k, v) :: (k', v') :: m
    else if k = k' then (k, v) :: m
    else (k', v') :: smPut m k v

/-- The map with an entry removed. -/
def smErase {α : Type} : SMap α → Nat → SMap α
  | [], _ => []
  | (k', v') :: m, k => if k = k' then m else (k', v') :: smErase m k

/-- The entry at a key, or the value that an unlisted key reads as. -/
def smGet {α : Type} (m : SMap α) (d : α) (k : Nat) : α := (smFind m k).getD d

/-- Keys strictly rising. -/
def smSorted {α : Type} : SMap α → Bool
  | [] => true
  | (k, _) :: m => (m.all (fun e => decide (k < e.1))) && smSorted m

/-! ### Memory

One byte map over device addresses. DRAM is keyed by its local-view address (R30), tile stores by the window of the
logical tile, the Interlocking store and Platform SRAM by their own addresses. An unlisted byte reads 0: every start
zeroes DRAM, the stores and Platform SRAM (R344, R418, R437). -/

/-- What an unlisted byte reads as. -/
def memDefault : Byte := 0

/-- One byte of memory. -/
def memByte (m : SMap Byte) (a : Nat) : Byte := smGet m memDefault a

/-- Memory with one byte written, in the canonical form. -/
def memPut (m : SMap Byte) (a : Nat) (b : Byte) : SMap Byte := if b = memDefault then smErase m a else smPut m a b

/-- The canonical form: addresses strictly rising, and no entry equal to what an unlisted address reads as. -/
def Memory.wf (m : SMap Byte) : Bool := smSorted m && m.all (fun e => decide (e.2 ≠ memDefault))

/-- `n` bytes from an address on. -/
def memBytes (m : SMap Byte) (a n : Nat) : List Byte := (List.range n).map (fun i => memByte m (a + i))

/-- Memory with a byte string written from an address on. -/
def memWrite (m : SMap Byte) : Nat → List Byte → SMap Byte
  | _, [] => m
  | a, b :: bs => memWrite (memPut m a b) (a + 1) bs

/-- Memory with `n` bytes zeroed. -/
def memZero (m : SMap Byte) (a n : Nat) : SMap Byte := m.filter (fun e => !(decide (a ≤ e.1) && decide (e.1 < a + n)))

/-- A little-endian number of `n` bytes. -/
def memNat (m : SMap Byte) (a n : Nat) : Nat := leNat (memBytes m a n)

/-- Bases of the ranges of R25. -/
def tileStoreBase (t : Nat) : Nat := 0x4000000000 + t * 0x100000
def ilkBase : Nat := 0x4800000000
def psramBase (p : Nat) : Nat := 0x6000000000 + p * 0x2000000
def ledgerBase : Nat := 0x8000000000
def dieBytes : Nat := 0x800000000
def psramBytes : Nat := 0x2000000
def ilkBytes : Nat := 0x1800000
/-- A Ledger and owner-map page: 32 KiB. -/
def pageBytes : Nat := 0x8000

/-- Address of row `r` of logical tile `t`'s store. -/
def rowAddr (t r : Nat) : Nat := tileStoreBase t + r * 512

/-! ### Registers -/

/-- Reset value of the register at a device address. -/
def regReset (size : Size) (a : Nat) : Word :=
  match blkAt (a / 0x1000 * 0x1000) with
  | none => 0
  | some (b, inst) =>
    match regDef b inst (a % 0x1000) size with
    | none => 0
    | some r => r.resetWord

namespace State

/-- The stored value of a register. -/
def reg (s : State) (a : Nat) : Word := (smFind s.regs a).getD (regReset s.fuses.size a)
/-- The state with a register's stored value replaced. -/
def setReg (s : State) (a : Nat) (w : Word) : State := { s with regs := smPut s.regs a w }
/-- A field of a register. -/
def fld (s : State) (a hi lo : Nat) : Nat := bitsOf (s.reg a) hi lo
/-- The state with a field of a register replaced. -/
def setFld (s : State) (a hi lo v : Nat) : State := s.setReg a (setBits (s.reg a) hi lo v)
/-- A whole-register counter that saturates. -/
def bump (s : State) (a : Nat) (n : Nat := 1) : State :=
  s.setReg a (BitVec.ofNat 32 (min 0xFFFFFFFF ((s.reg a).toNat + n)))

/-- Bytes of memory at a device address that memory holds (R10). -/
def bytes (s : State) (a n : Nat) : List Byte := memBytes s.mem a n
/-- A little-endian number in memory. -/
def nat (s : State) (a n : Nat) : Nat := memNat s.mem a n
/-- The state with bytes written to memory. -/
def write (s : State) (a : Nat) (bs : List Byte) : State := { s with mem := memWrite s.mem a bs }
/-- The state with a little-endian number written to memory. -/
def writeNat (s : State) (a n v : Nat) : State := s.write a (natLE n v)
/-- The state with bytes of memory zeroed. -/
def zero (s : State) (a n : Nat) : State := { s with mem := memZero s.mem a n }

/-- A fresh free value, and the state that has used it up. -/
def fresh (s : State) : Nat × State := (Config.freeNat s.free, { s with free := s.free + 1 })
/-- A fresh free byte string of `n` bytes. -/
def freshBytes (s : State) (n : Nat) : List Byte × State :=
  ((List.range n).map (Config.freeByte s.free), { s with free := s.free + 1 })

/-- A request of the random generator (R401): counted, and the generator is reseeded when 2²⁰ have been served. -/
def drbgBytes (s : State) (n : Nat) : List Byte × State :=
  let x := s.freshBytes n
  (x.1, { x.2 with sec := { x.2.sec with drbgCount := if 2 ^ 20 ≤ x.2.sec.drbgCount then 1 else x.2.sec.drbgCount + 1 } })

/-! ### Population -/

/-- Sites that this device populates (R4). -/
def sites (s : State) : List Nat := sizeSites s.fuses.size
/-- A logical tile, or a spare entry. -/
def tile (s : State) (t : Nat) : Tile := smGet s.tiles Tile.initial t
/-- The state with a tile replaced. -/
def setTile (s : State) (t : Nat) (T : Tile) : State := { s with tiles := smPut s.tiles t T }
/-- The state with a tile changed. -/
def updTile (s : State) (t : Nat) (f : Tile → Tile) : State := s.setTile t (f (s.tile t))
/-- Die of a logical tile or spare entry (R19, R23). -/
def dieOf (t : Nat) : Nat := if t < 64 then t / 16 else t - 64
/-- Physical position that serves a logical tile (R24); 31 is vacant. -/
def phys (s : State) (t : Nat) : Nat := s.fld (pgDie (t / 16) + 0x100 + 4 * (t / 4 % 4)) (8 * (t % 4) + 4) (8 * (t % 4))

/-- The unit that serves a logical tile or spare entry: die and position (R23, R24). -/
def unitKey (s : State) (t : Nat) : Nat := 17 * dieOf t + (if t < 64 then s.phys t else 16)
/-- State of a die's spare (R24). -/
def spareState (s : State) (d : Nat) : Nat := s.fld (pgDie d + 0x110) 1 0
/-- Whether a logical tile or spare entry has a store window and register pages (R5, R22, R23). -/
def tilePresent (s : State) (t : Nat) : Bool :=
  if t < 64 then s.sites.contains (t / 16) && s.phys t ≠ 31
  else t < 68 && s.sites.contains (t - 64) && s.spareState (t - 64) = 0
/-- The populated logical tiles. -/
def allTiles (s : State) : List Nat := (List.range 64).filter s.tilePresent
/-- Whether a register page belongs to a populated block (R5). -/
def blkPresent (s : State) (b : Blk) (inst : Nat) : Bool :=
  match b with
  | .tileCtl | .tileBerth | .tileDock | .tileCnt => s.tilePresent inst
  | .dieCtl | .dramc | .diecnt => s.sites.contains inst
  | .therm => 4 ≤ inst || s.sites.contains inst
  | .via => [2 * (inst / 2), 2 * (inst / 2) + 1].all (fun e =>
      let d := viaEnds.getD e 0
      4 ≤ d || s.sites.contains d)
  | _ => true
/-- The block at a page of this device. -/
def block (s : State) (page : Nat) : Option (Blk × Nat) :=
  match blkAt page with
  | none => none
  | some (b, i) => if s.blkPresent b i then some (b, i) else none
/-- The register at a device address of this device. -/
def regAt (s : State) (a : Nat) : Option Reg :=
  match s.block (a / 0x1000 * 0x1000) with
  | none => none
  | some (b, i) => regDef b i (a % 0x1000) s.fuses.size

/-! ### Addresses (R25–R31) -/

/-- Local-view address of a byte of the striped view (R31). -/
def stripeAddr (s : State) (a : Nat) : Option Nat :=
  let o := a - 0x2000000000
  let n := s.sites.length
  let st := o / 2048
  if n * dieBytes ≤ o then none
  else some (s.sites.getD (st % n) 0 * dieBytes + st / n * 2048 + o % 2048)

/-- End of the Ledger aperture (R6). -/
def ledgerPages (s : State) : Nat := s.sites.length * 2097152

end State

/-- The ranges of R25 as an access sees them. -/
inductive Range where
  | dram (a : Nat)
  | tileStore (t off : Nat)
  | ilk (off : Nat)
  | regs (a : Nat)
  | psram (p off : Nat)
  | peer (p off : Nat)
  | ledger (page off : Nat)
  | unmapped
deriving DecidableEq, Repr

/-- Numbers the ranges, to tell an access that crosses from one into another (R27). Each tile's store is a range. -/
def Range.id : Range → Nat
  | .dram a => if a < 0x2000000000 then 1 else 2
  | .tileStore t _ => 16 + t
  | .ilk _ => 3
  | .regs a => 0x1000 + (a / 0x100000)
  | .psram p _ => 4 + p
  | .peer p _ => 6 + p
  | .ledger _ _ => 8
  | .unmapped => 0

namespace State

/-- What lies at one byte address (R25, R26). DRAM carries the address as given, so that the two views stay apart. -/
def rangeOf (s : State) (a : Nat) : Range :=
  if a < 0x2000000000 then
    if s.sites.contains (a / dieBytes) && s.fld (pgDramc (a / dieBytes) + 0x100) 4 4 = 0 then .dram a else .unmapped
  else if a < 0x4000000000 then
    match s.stripeAddr a with
    | some l => if s.fld (pgDramc (l / dieBytes) + 0x100) 4 4 = 0 then .dram a else .unmapped
    | none => .unmapped
  else if a < 0x4000000000 + 68 * 0x100000 then
    let t := (a - 0x4000000000) / 0x100000
    let o := a % 0x100000
    if s.tilePresent t && decide (o < 0xA0000) then .tileStore t o else .unmapped
  else if ilkBase ≤ a ∧ a < ilkBase + ilkBytes then .ilk (a - ilkBase)
  else if 0x5000000000 ≤ a ∧ a < 0x5004100000 then
    match s.regAt (a / 4 * 4) with
    | some _ => .regs a
    | none => .unmapped
  else if 0x6000000000 ≤ a ∧ a < 0x6004000000 then .psram ((a - 0x6000000000) / psramBytes) (a % psramBytes)
  else if 0x6800000000 ≤ a ∧ a < 0x6C00000000 then
    let p := (a - 0x6800000000) / 0x200000000
    if (if p = 0 then s.start.role0 else s.start.role1) && s.fld (pgPlat p + 0x100) 3 3 = 1 then .peer p (a % 0x200000000) else .unmapped
  else if ledgerBase ≤ a ∧ a < ledgerBase + s.ledgerPages * pageBytes then
    .ledger ((a - ledgerBase) / pageBytes) (a % pageBytes)
  else .unmapped

/-- Key of a mapped DRAM byte in memory: its local-view address (R30). -/
def dramKey (s : State) (a : Nat) : Nat := if a < 0x2000000000 then a else (s.stripeAddr a).getD 0

/-- Keys in memory of `n` bytes from a DRAM address on; the striped view is not contiguous there. -/
def dramKeys (s : State) (a n : Nat) : List Nat := (List.range n).map (fun i => s.dramKey (a + i))

end State

/-- Who makes an access (R26, R29). -/
inductive Requester where
  | tile (t : Nat)
  | stationmaster (hub : Nat)
  | host (port : Nat)
  | monitor
  | peer
  | ilk
deriving DecidableEq, Repr

/-- Page that records a refused access (R26). -/
def Requester.page : Requester → Nat
  | .tile t => pgDie (State.dieOf t)
  | .stationmaster h => pgHub h
  | .host p => pgPlat p
  | .monitor => pgMon
  | .peer => pgCvy
  | .ilk => pgIlk

/-- Whether a requester may reach a range at all (R29). `write` into another tile's store goes through docks only. -/
def Requester.reaches (r : Requester) (g : Range) : Bool :=
  match r, g with
  | _, .unmapped => false
  | .tile _, .dram _ => true
  | .tile t, .tileStore u _ => t = u
  | .tile _, .psram _ _ => true
  | .tile _, .ledger _ _ => true
  | .tile _, _ => false
  | .stationmaster _, _ => true
  | .host _, .psram _ _ => true
  | .host _, .regs _ => true
  | .host _, _ => false
  | .monitor, .regs _ => true
  | .monitor, _ => false
  | .peer, .dram _ => true
  | .peer, _ => false
  | .ilk, .ilk _ => true
  | .ilk, _ => false

/-- Whether an access keeps its range's access unit (R25, R27); in a peer aperture it is that of the peer's windows (R363). -/
def Range.unitOk (g : Range) (a n : Nat) : Bool :=
  match g with
  | .dram _ | .psram _ _ | .ledger _ _ => true
  | .peer _ o => decide (0x1000000 ≤ o) || (a % 4 = 0 && n % 4 = 0)
  | .tileStore _ _ => a % 512 = 0 && n % 512 = 0
  | .ilk _ => a % 8 = 0 && n % 8 = 0
  | .regs _ => a % 4 = 0 && n % 4 = 0
  | .unmapped => false

/-- Outcome of the checks of R26, R27 and R29 on `n` bytes at an address. -/
inductive Access where
  | ok (g : Range)
  | unmapped
  | align
deriving DecidableEq, Repr

/-- The checks of R26, R27 and R29, ADDR_UNMAPPED first. Ranges are contiguous, so the first and the last byte decide, with
the starts of the pages and stores in between where a range has holes (`step` below 32 KiB never skips one). -/
def State.check (s : State) (r : Requester) (a n : Nat) : Access :=
  let pts := a :: (a + (n - 1)) :: (List.range (n / 0x1000)).map (fun i => a + i * 0x1000)
  if pts.any (fun p => !(r.reaches (s.rangeOf p))) then .unmapped
  else if (s.rangeOf a).id ≠ (s.rangeOf (a + (n - 1))).id then .align
  else if (s.rangeOf a).unitOk a n then .ok (s.rangeOf a) else .align

/-! ### Error records (R463, R464) -/

/-- Sub-unit field where no sub-unit exists (R464). -/
def noUnit : Nat := 0x3F

namespace State

/-- Steps 1 and 2 of R463: a condition that is counted only. -/
def countErr (s : State) (page code : Nat) : State :=
  (s.bump (page + 0x2C)).setFld (page + 0x20) (code / 256 % 16) (code / 256 % 16) 1

/-- Step 4 of R463: the queue of ERR_NEXT holds 8 entries; a new one is discarded when it is full (R464). -/
def queueErr (s : State) (page code unit : Nat) : State :=
  let q := smGet s.errq [] page
  if q.length < 8 then
    { s with errq := smPut s.errq page (q ++ [BitVec.ofNat 32 (code % 65536 + unit % 64 * 65536 + 2 ^ 31)]) }
  else { s with errOvf := page :: s.errOvf.filter (· ≠ page) }

/-- A block records an error that it detects (R463). -/
def recordErr (s : State) (page code : Nat) (unit : Nat := noUnit) : State :=
  let s1 := s.countErr page code
  let s2 := if s1.fld (page + 0x28) 31 31 = 0 then
      s1.setReg (page + 0x28) (BitVec.ofNat 32 (code % 65536 + unit % 64 * 65536 + 2 ^ 31))
    else s1
  s2.queueErr page code unit

/-- A refused register write or unlisted encoding (R13, R467). -/
def regAccess (s : State) (page : Nat) : State := s.recordErr page 0x5103

/-- ADDR_UNMAPPED or ADDR_ALIGN of a requester (R26, R27). -/
def refuseAccess (s : State) (r : Requester) (acc : Access) : State :=
  match acc with
  | .ok _ => s
  | .unmapped => s.recordErr r.page 0x5101
  | .align => s.recordErr r.page 0x5102

/-- ERR_N: some unmasked sticky bit, or a thermal trip since PORST_N (R465). -/
def errN (s : State) : Bool :=
  s.start.hold = .trip ||
  s.regs.any (fun e => e.1 % 0x1000 = 0x20 && e.2 &&& ~~~(s.reg (e.1 + 4)) ≠ 0)

/-! ### Event counters (R470–R473) -/

/-- What one cycle's value of an event adds to a counter under its mode (R471). `prev` is the level before. -/
def counterAdds (mode thresh prev v : Nat) : Nat :=
  if mode = 0 then v
  else if mode = 1 then b2n (thresh < v)
  else if mode = 2 then b2n (v ≤ thresh)
  else b2n (prev ≤ thresh && thresh < v)

/-- An enabled counter of a page sees the value `v` of its event in a cycle (R471). The key of a counter is the address of its CNT_LO. -/
def countOne (s : State) (page n v : Nat) : State :=
  let sel := s.reg (page + 0x120 + 0x10 * n)
  let k := page + 0x124 + 0x10 * n
  let add := counterAdds (bitsOf sel 13 12) (bitsOf sel 31 16) (smGet s.cntLevel 0 k) v
  { s with cnt := smPut s.cnt k (smGet s.cnt 0 k + add), cntLevel := smPut s.cntLevel k v }

/-- An event of a counter page happens with a count of `v`: the cycle's count grows, which the page's counters see at the cycle's end (R471, R472). -/
def countEvent (s : State) (page ev : Nat) (sub : Nat := 0) (v : Nat := 1) : State :=
  let k := page + 16 * ev + sub
  { s with evs := smPut s.evs k (smGet s.evs 0 k + v) }

/-! ### Guards -/

/-- Nothing holds the device's logic in reset (R434, R438, R450). -/
def live (s : State) : Bool := s.start.hold = .none

end State

/-- The meaning of a command that a device held in reset does not perform (R434, R438, R450), and an effect otherwise. -/
def whenLive (s : State) (f : State → State) : Res := .next (if s.live then f s else s)

/-- Applies an update for each element of a list, in order. -/
def forEach {α : Type} (l : List α) (s : State) (f : State → α → State) : State := l.foldl f s

end Sys2Proof.Machine
end

