-- ==== Sys2Proof/Machine/Flags.lean ====
section
/-! DEFINITION. The tile's status word ST (R115, R116): its sticky bits, the results of BUDGET and COMMIT, and the status
and tag of the last completed move. -/

namespace Sys2Proof.Machine

open Sys2Proof

/-- Bits of ST (R115). -/
def stMvErr : Nat := 0
def stMvDrop : Nat := 1
def stCmtFail : Nat := 2
def stBudgetLow : Nat := 3
def stConvEmpty : Nat := 4
def stDockOpfail : Nat := 5
def stSat : Nat := 6
def stNan : Nat := 7

/-- ST with one bit set or cleared. -/
def stPut (w : Word) (bit : Nat) (b : Bool) : Word := setBits w bit bit (b2n b)

/-- ST with a sticky bit set when the condition holds, and kept otherwise. -/
def stStick (w : Word) (bit : Nat) (b : Bool) : Word := if b then stPut w bit true else w

/-- ST after a SETS to code 52: bits [7:0] replaced (R116). -/
def stSets (w : Word) (imm : Nat) : Word := setBits w 7 0 imm

/-- Move statuses (R116). -/
def msOk : Nat := 0
def msUnmapped : Nat := 1
def msAlign : Nat := 2
def msSegOff : Nat := 3
def msDockClosed : Nat := 4
def msDockSource : Nat := 5
def msDockBounds : Nat := 6
def msDropped : Nat := 7

/-- ST when a move completes (R115, R124): MV_ERR for a status other than OK and DROPPED, MV_DROP for DROPPED, and the last status and tag. -/
def stMove (w : Word) (tag status : Nat) : Word :=
  let w1 := stStick w stMvErr (status ≠ msOk && status ≠ msDropped)
  let w2 := stStick w1 stMvDrop (status = msDropped)
  setBits (setBits w2 11 8 status) 15 12 tag

/-- ST when a COMMIT completes: the result of the compare (R131). -/
def stCommit (w : Word) (failed : Bool) : Word := stPut w stCmtFail failed

/-- ST after BUDGET (R118). -/
def stBudget (w : Word) (low : Bool) : Word := stPut w stBudgetLow low

/-- ST after an instruction that rounds or converts: SAT and NAN are sticky (R115). -/
def stArith (w : Word) (sat nan : Bool) : Word := stStick (stStick w stSat sat) stNan nan

end Sys2Proof.Machine
end

