-- ==== Sys2Proof/Machine/Operands.lean ====
section
/-! DEFINITION. Operand forms of the tile instructions (R92, R110–R114) and rows of the tile's stores. -/

namespace Sys2Proof.Machine

open Sys2Proof

/-! ### Scalar and address registers -/

/-- Scalar register `n`, as a number. -/
def Tile.s (T : Tile) (n : Nat) : Nat := (smGet T.sregs 0 n).toNat
/-- Address register `n`, as a number. -/
def Tile.a (T : Tile) (n : Nat) : Nat := (smGet T.aregs 0 n).toNat
/-- The tile with a scalar register written: bits [31:0] of the value (R111). -/
def Tile.setS (T : Tile) (n v : Nat) : Tile := { T with sregs := smPut T.sregs n (BitVec.ofNat 32 v) }
/-- The tile with an address register written: bits [39:0] of the value (R111). -/
def Tile.setA (T : Tile) (n v : Nat) : Tile := { T with aregs := smPut T.aregs n (BitVec.ofNat 40 v) }
/-- Iteration index of the `k`-th innermost open loop level, 0 if it is not open (R110). -/
def Tile.li (T : Tile) (k : Nat) : Nat :=
  match T.loops[k]? with
  | some l => l.index
  | none => 0

/-- Whether a register code may be read (R110). -/
def codeReads (c : Nat) : Bool := c ≤ 52 || c = 63
/-- Whether a register code is an address register. -/
def codeIsA (c : Nat) : Bool := 32 ≤ c && c < 48

/-- The tile with ST as it stands now kept for the bundle that issues: its instructions read ST from before it (R108). -/
def Tile.snap (T : Tile) : Tile := { T with stBefore := T.st }

/-- The value a register code reads (R110). -/
def Tile.readCode (T : Tile) (c : Nat) : Nat :=
  if c < 32 then T.s c
  else if c < 48 then T.a (c - 32)
  else if c < 52 then T.li (c - 48)
  else if c = 52 then T.stBefore.toNat
  else 0

/-- The tile with a scalar or address register code written (R110, R111). -/
def Tile.writeCode (T : Tile) (c v : Nat) : Tile := if c < 32 then T.setS c v else T.setA (c - 32) v

/-- A 64-bit value in an even register pair. -/
def Tile.pair (T : Tile) (n : Nat) : Nat := T.s n + T.s (n + 1) * 2 ^ 32

/-- The row that a store operand names, relative to the berth share (R112). -/
def Tile.row (T : Tile) (o : RowOp) : Nat := (if o.r then T.a o.a.toNat % 2048 else 0) + o.off.toNat
/-- The row that an accumulator operand names (R113). -/
def Tile.accRow (T : Tile) (o : AccOp) : Nat := (if o.r then T.a o.a.toNat % 256 else 0) + o.off.toNat
/-- A device address operand (R114). -/
def Tile.devAddr (T : Tile) (an : BitVec 4) (off : BitVec 20) : Nat := twos 40 (T.a an.toNat + off.toInt)

/-! ### The running berth -/

namespace State

/-- Register of berth `n` of a tile: 0 STORE, 4 IBUF, 8 OWNER, 12 HANDLE (R95). -/
def berthReg (t n o : Nat) : Nat := pgBerth t + 0x100 + 0x10 * n + o
/-- Register of dock `k` of a tile (R100). -/
def dockReg (t k o : Nat) : Nat := pgDock t + 0x100 + 0x40 * k + o
/-- Running berth of a tile (R105). -/
def berth (s : State) (t : Nat) : Nat := s.fld (pgTile t + 0x100) 10 8
/-- First row of a berth's store share. -/
def shareBase (s : State) (t n : Nat) : Nat := 16 * s.fld (berthReg t n 0) 6 0
/-- Rows of a berth's store share. -/
def shareRows (s : State) (t n : Nat) : Nat := 16 * s.fld (berthReg t n 0) 22 16
/-- First bundle of a berth's instruction share. -/
def ibufBase (s : State) (t n : Nat) : Nat := 64 * s.fld (berthReg t n 4) 4 0
/-- Bundles of a berth's instruction share. -/
def ibufSize (s : State) (t n : Nat) : Nat := 64 * s.fld (berthReg t n 4) 21 16
/-- Tenant of a berth. -/
def berthTenant (s : State) (t n : Nat) : Nat := s.fld (berthReg t n 8) 11 0
/-- State of a berth: 0 EMPTY, 1 LOADING, 2 RESIDENT, 3 RUNNING (R95). -/
def berthState (s : State) (t n : Nat) : Nat := s.fld (berthReg t n 8) 17 16
/-- Absolute row of a row relative to the running berth's share (R92). -/
def absRow (s : State) (t r : Nat) : Nat := s.shareBase t (s.berth t) + r
/-- Whether a store segment is powered and ready (R105). -/
def segReady (s : State) (t g : Nat) : Bool := bitAt (s.fld (pgTile t + 0x104) 15 8) g

/-- A store row of a tile, by its absolute number. -/
def rowBytes (s : State) (t r : Nat) : List Byte := s.bytes (rowAddr t r) 512
/-- The state with a store row written. -/
def writeRow (s : State) (t r : Nat) (bs : List Byte) : State := s.write (rowAddr t r) bs

/-- The tile is running a waybill and issues (R82, R240). -/
def tileIssues (s : State) (t : Nat) : Bool :=
  s.tilePresent t && (s.tile t).wid.isSome && !(s.tile t).stopped && s.fld (pgTile t + 0x100) 2 0 = 2

/-- The tile is the following member of a coupled pair (R20). -/
def follows (s : State) (t : Nat) : Bool := (s.tile t).coupled && t % 2 = 1

end State

/-! ### Accumulator, vector registers and weight buffers -/

/-- An accumulator word; a row whose written flag is clear reads 0 (R62, R81). -/
def Tile.accWord (T : Tile) (r n : Nat) : Word := if T.accWritten.contains r then smGet T.acc 0 (r * 256 + n) else 0

/-- The tile with words of an accumulator row written from column 0 on, the row's kind recorded and its flag set (R62). -/
def Tile.setAccRow (T : Tile) (r : Nat) (isFloat : Bool) (ws : List Word) : Tile :=
  let old := if T.accWritten.contains r then T.acc else T.acc.filter (fun e => e.1 / 256 ≠ r)
  { T with
    acc := (List.range ws.length).foldl (fun m n => smPut m (r * 256 + n) (ws.getD n 0)) old
    accWritten := if T.accWritten.contains r then T.accWritten else r :: T.accWritten
    accFloat := if isFloat then (if T.accFloat.contains r then T.accFloat else r :: T.accFloat) else T.accFloat.filter (· ≠ r) }

/-- The bytes of a vector register; one whose written flag is clear reads 0 (R81). -/
def Tile.vreg (T : Tile) (v : Nat) : List Byte :=
  if T.vwritten.contains v then (List.range 512).map (fun i => smGet T.vregs 0 (v * 512 + i)) else List.replicate 512 0

/-- The tile with a vector register written. -/
def Tile.setVreg (T : Tile) (v : Nat) (bs : List Byte) : Tile :=
  { T with
    vregs := (List.range 512).foldl (fun m i => smPut m (v * 512 + i) (bs.getD i 0)) T.vregs
    vwritten := if T.vwritten.contains v then T.vwritten else v :: T.vwritten }

/-- The weight buffer in use and the other one (R63). -/
def Tile.active (T : Tile) : WeightBuffer := if T.activeB then T.wb else T.wa
def Tile.inactive (T : Tile) : WeightBuffer := if T.activeB then T.wa else T.wb
/-- The tile with the inactive weight buffer replaced (R63). -/
def Tile.setInactive (T : Tile) (w : WeightBuffer) : Tile := if T.activeB then { T with wa := w } else { T with wb := w }

end Sys2Proof.Machine
end

