-- ==== Sys2Proof/Machine/Arbiter.lean ====
section
/-! DEFINITION. Routes between the dies (R15–R17), and population-weighted round robin (R38–R41) at every arbiter on them: the region routers,
the outputs of each die's fabric, and the DRAM and Platform SRAM ports. -/

namespace Sys2Proof.Machine

open Sys2Proof

/-! ### Routes

The dies are numbered as DEST numbers them (R425): 0–3 for C0–C3, 4 for Hub A, 5 for Hub B. -/

/-- The dies that traffic passes through from one die to another, in order: first along the column, then along the row (R17). DESIGN CHOICE (log entry 137): the
table is the same on every size, although on an S3 two of its routes pass the absent site C3. -/
def routeVia (a b : Nat) : List Nat :=
  match a, b with
  | 0, 1 => [4] | 0, 3 => [2, 5] | 0, 5 => [2]
  | 1, 0 => [4] | 1, 2 => [3, 5] | 1, 5 => [3]
  | 2, 1 => [0, 4] | 2, 3 => [5] | 2, 4 => [0]
  | 3, 0 => [1, 4] | 3, 2 => [5] | 3, 4 => [1]
  | 4, 2 => [5] | 4, 3 => [5]
  | 5, 0 => [4] | 5, 1 => [4]
  | _, _ => []

/-- The whole route, its ends included. -/
def routeNodes (a b : Nat) : List Nat := if a = b then [a] else a :: (routeVia a b ++ [b])

/-- The die that follows another on a route, if it passes there. -/
def nextOn : List Nat → Nat → Option Nat
  | a :: b :: r, x => if a = x then some b else nextOn (b :: r) x
  | _, _ => none

/-- The die after `x` on the way to `b` (R17). -/
def nextHop (x b : Nat) : Nat := (nextOn (routeNodes x b) x).getD b

/-- Number of the requester that R428 gives each source: logical tiles 0–63; 64 and 65 the Stationmasters, 66 and 67 the Platform ports,
68–71 the convoy ports, 72 the Interlocking engine. -/
def sourceStationmaster (hub : Nat) : Nat := 64 + hub
def sourcePort (p : Nat) : Nat := 66 + p
def sourceConvoy (e : Nat) : Nat := 68 + e
def sourceIlk : Nat := 72

/-- The die on which a source lies (R14, R19). -/
def sourceNode (r : Nat) : Nat :=
  if r < 64 then r / 16 else if r < 68 then 4 + r % 2 else if r < 72 then 4 + (r - 68) / 2 else 5

/-- The output of a die toward its own memory: the DRAM port of a compute die, the Platform SRAM port of a hub. -/
def outMemory : Nat := 6

/-- The output of a compute die toward the region of a tile, and of any die toward a requester of its own: a dock write and a response end there. -/
def outRegion (t : Nat) : Nat := if t < 64 then 7 + t % 16 / 4 else if t < 68 then 7 else 11

/-- Where a source's traffic for an output of die `x` comes from: `x` itself for a source of its own, or the die before it on the route. -/
def cameFrom (r x out : Nat) : Option Nat :=
  let a := sourceNode r
  let prev := fun (p : List Nat) => if a = x then some x else (p.find? (fun y => nextOn p y = some x))
  if outMemory ≤ out then prev (routeNodes a x)
  else ((List.range 6).find? (fun b => nextOn (routeNodes a b) x = some out)).bind (fun b => prev (routeNodes a b))

/-- Number of inputs of an arbiter of die `x`: four regions and two Viaducts, or three Viaducts and the hub's own requesters. -/
def inputCount (x : Nat) : Nat := if x < 4 then 6 else 8

/-- The input of die `x` by which a source comes, its traffic arriving from die `p`: on a compute die its region, the column Viaduct (4) or
the hub Viaduct (5); on a hub the west, east and centre Viaducts (0–2), then its own requesters. -/
def inputFrom (r x p : Nat) : Nat :=
  if x < 4 then (if p = x then r % 16 / 4 else if p < 4 then 4 else 5)
  else if p = x then (if r < 66 then 3 else if r < 68 then 4 else if r < 72 then 5 + r % 2 else 7)
  else if p < 4 then p % 2 else 2

/-! ### Grants -/

/-- One search of R39 over the inputs after the last one granted. -/
def grantScan (a : Arbiter) (pending : Nat → Bool) : List Nat → Option Nat
  | [] => none
  | k :: ks =>
    let i := (a.last + 1 + k) % a.weight.length
    if pending i && decide (0 < a.credit.getD i 0) then some i else grantScan a pending ks

/-- The arbiter after input `i` is granted a flit. -/
def Arbiter.give (a : Arbiter) (i : Nat) : Arbiter := { a with credit := a.credit.set i (a.credit.getD i 0 - 1), last := i }

/-- A new round: every input gets its weight, loaded anew from the populations (R39, R40). -/
def Arbiter.newRound (a : Arbiter) (weight : List Nat) : Arbiter := { a with weight := weight, credit := weight }

/-- One grant (R39): two passes, a new round between them; nothing pending gives no grant. -/
def grant (a : Arbiter) (weight : List Nat) (pending : Nat → Bool) : Option Nat × Arbiter :=
  match grantScan a pending (List.range a.weight.length) with
  | some i => (some i, a.give i)
  | none =>
    let b := a.newRound weight
    match grantScan b pending (List.range b.weight.length) with
    | some i => (some i, b.give i)
    | none => (none, b.newRound weight)

/-- Grants, flit by flit, until input `i` has had `n` of them; the other pending inputs take their turns in between (R39, R41). The first
argument bounds the grants, the second component counts those that went to another input. -/
def grantFlits (weight : List Nat) (pending : Nat → Bool) (i : Nat) : Nat → Nat → Arbiter × Nat → Arbiter × Nat
  | 0, _, x => x
  | _ + 1, 0, x => x
  | fuel + 1, n + 1, (a, lost) =>
    let g := grant a weight pending
    if g.1 = some i then grantFlits weight pending i fuel n (g.2, lost)
    else if g.1 = none then (g.2, lost)
    else grantFlits weight pending i fuel (n + 1) (g.2, lost + 1)

namespace State

/-- In depot service a tile on which no work is placed is power-gated (R37). -/
def idleGated (s : State) (t : Nat) : Bool := s.fld (pgService + 0x104) 1 0 = 2 && (s.tile t).wid.isNone

/-- A region's router is gated when its four tiles are: a gated tile, or one that is vacant, retired or isolated, sends nothing through it (R37). -/
def routerGated (s : State) (t : Nat) : Bool :=
  (List.range 4).all (fun i => let u := t / 4 * 4 + i; !s.tilePresent u || s.idleGated u)

/-- A tile counts as an active requester (R38): populated, in service, not gated; of a coupled pair only the leader. -/
def activeRequester (s : State) (t : Nat) : Bool :=
  s.tilePresent t && (s.tile t).health = .inService && s.fld (pgTile t + 0x108) 4 0 ≠ 0 && !s.idleGated t && !s.follows t

/-- The active requesters by source number (R38): the requesters of the hubs always count. -/
def activeSources (s : State) : List Nat := (List.range 64).filter s.activeRequester ++ (List.range 9).map (64 + ·)

/-- Populations behind the inputs of an arbiter (R38): of the sources whose traffic for that output passes die `x`. -/
def weightsAt (active : List Nat) (x out : Nat) : List Nat :=
  (List.range (inputCount x)).map (fun i => (active.filter (fun r => (cameFrom r x out).map (inputFrom r x) = some i)).length)

/-- An arbiter; before its first round no input has credit, and the search begins at input 0 (log entry 33). -/
def arbiter (s : State) (key n : Nat) : Arbiter :=
  smGet s.arbs { weight := List.replicate n 0, credit := List.replicate n 0, last := n - 1 } key

/-- The die toward which an address's traffic goes (R25): the stack of a DRAM byte, the hub of a Platform SRAM byte, the die of a tile. -/
def addrNode (s : State) (a : Nat) : Option Nat :=
  match s.rangeOf a with
  | .dram a => some (s.dramKey a / dieBytes)
  | .psram p _ => some (4 + p)
  | .tileStore t _ => some (dieOf t)
  | .ledger page _ => some ((smGet s.ledger.entries { valid := false, dropped := false, lock := false, keygen := false, tenant := 0, seqTag := 0, age := 0, ppn := 0 } page).ppn
      * pageBytes / dieBytes)
  | _ => none

/-- The die toward which a queued move's traffic goes, and the output of that die that it takes: a dock write enters the region of its tile (R37). -/
def moveNode (s : State) (m : Move) : Option (Nat × Nat) :=
  let memory := fun (o : Option Nat) => o.map (fun d => (d, outMemory))
  match m.kind with
  | .load a _ _ _ | .store a _ _ _ | .ledgerLoad a _ _ _ | .platCopy a _ _ => memory (s.addrNode a)
  | .gather own srcs _ => if own then none else memory (srcs.head?.bind s.addrNode)
  | .weights fromStore a _ _ _ => if fromStore then none else memory (s.addrNode a)
  | .dockWrite _ _ seat t _ _ => if seat.isSome then some (4, outRegion 68) else some (dieOf t, outRegion t)
  | .commit a _ _ _ seat => if seat.isSome then some (4, outRegion 68) else memory (s.addrNode a)

/-- Inputs of an arbiter of die `x` at which queued moves of other tiles wait. -/
def waitingInputs (s : State) (active : List Nat) (x out : Nat) : List Nat :=
  (active.filter (fun r => decide (r < 64) && (s.tile r).moves.any (fun m => match s.moveNode m with
    | some (b, o) => if outMemory ≤ out then b = x && o = out else nextOn (routeNodes (sourceNode r) b) x = some out
    | none => false))).filterMap (fun r => (cameFrom r x out).map (inputFrom r x))

/-- `n` flits of a source are granted at one arbiter: its key, the weights and the inputs that wait beside the source's own. A DRAM port counts
the cycles in which a flit was pending and not granted (R472). -/
def passArbiter (s : State) (key : Nat) (weight : List Nat) (waiting : List Nat) (i n : Nat) (die : Option Nat) : State :=
  let a := s.arbiter key weight.length
  let g := grantFlits weight (fun j => j = i || waiting.contains j) i (n * (weight.foldl (· + ·) 0 + 1)) n (a, 0)
  let s1 : State := { s with arbs := smPut s.arbs key g.1 }
  match die with
  | some d => if 0 < g.2 then s1.countEvent (pgDieCnt d) 0xB 0 g.2 else s1
  | none => s1

/-- The region router of a tile (R37): its inputs are the region's four tiles. -/
def passRegion (s : State) (active : List Nat) (t n : Nat) : State :=
  if s.routerGated t then s else
  let base := t / 4 * 4
  let one := fun i => b2n (active.contains (base + i))
  let waiting := (List.range 4).filter (fun i => decide (base + i ≠ t) && active.contains (base + i) && (s.tile (base + i)).moves ≠ [])
  s.passArbiter (96 + t / 4) [one 0, one 1, one 2, one 3] waiting (t % 4) n none

/-- One die on a route: its fabric's arbiter for the output that the route takes, and the flits of a compute die's fabric (R472). -/
def passDie (s : State) (active : List Nat) (r n x out : Nat) : State :=
  match cameFrom r x out with
  | none => s
  | some p =>
    let i := inputFrom r x p
    let s1 := s.passArbiter (16 * x + out) (weightsAt active x out) (s.waitingInputs active x out) i n (if x < 4 ∧ out = outMemory then some x else none)
    if x < 4 then s1.countEvent (pgDieCnt x) 0xA (min i 4) n else s1

/-- `n` 64-byte flits of a source cross the device to a die and leave it by an output there (R17, R38, R39): they pass the source's region router and
the arbiter of every die on the route. -/
def travelTo (s : State) (r dst out n : Nat) : State :=
  if n = 0 then s
  else
    let active := s.activeSources
    let p := routeNodes (sourceNode r) dst
    let s1 := if r < 64 then s.passRegion active r n else s
    forEach p s1 (fun s x => s.passDie active r n x ((nextOn p x).getD out))

/-- `n` flits that a source writes travel to a die and enter its memory. -/
def travel (s : State) (r dst n : Nat) : State := s.travelTo r dst outMemory n

/-! ### Responses (R17)

The data of a read travels from the responder to the requester, by the route between these two; each of its flits passes the arbiter of every die on that route.
Inputs there: the Viaduct of the die before, or the die's own memory (log entry 138). -/

/-- Inputs of a die's arbiters for responses: by the Viaduct from die `p`, or 8, the die's own memory. -/
def backInput (x p : Nat) : Nat := if p = x then 8 else if x < 4 then (if p < 4 then 4 else 5) else if p < 4 then p % 2 else 2

/-- The input by which a response of die `a` to requester `r` comes to die `x`, where it leaves `x` by `out`. -/
def backAt (a r x out : Nat) : Option Nat :=
  let q := routeNodes a (sourceNode r)
  if q.contains x && (nextOn q x).getD (outRegion r) = out then
    some (backInput x (if a = x then x else (q.find? (fun y => nextOn q y = some x)).getD x))
  else none

/-- Populations behind those inputs: the active requesters whose responses come by each (R38). -/
def weightsBack (active : List Nat) (x out : Nat) : List Nat :=
  (List.range 9).map (fun i => (active.filter (fun r => (List.range 6).any (fun a => backAt a r x out = some i))).length)

/-- One die on the way of a response: its fabric's arbiter, and the flits of a compute die's fabric, to a region or in transit (R472). -/
def passBack (s : State) (active : List Nat) (a r n x out : Nat) : State :=
  match backAt a r x out with
  | none => s
  | some i =>
    let s1 := s.passArbiter (256 + 16 * x + out) (weightsBack active x out) [] i n none
    if x < 4 then s1.countEvent (pgDieCnt x) 0xA (if r < 64 ∧ dieOf r = x then r % 16 / 4 else 4) n else s1

/-- A read of `n` flits at a die's memory: the request is one flit on the route to the responder, the memory's port grants every flit, and the data returns by the
route from the responder to the requester (R17, R39). -/
def travelRead (s : State) (r a n : Nat) : State :=
  if n = 0 then s
  else
    let active := s.activeSources
    let s1 := s.travelTo r a outMemory 1
    let s2 := match cameFrom r a outMemory with
      | none => s1
      | some p => s1.passArbiter (16 * a + outMemory) (weightsAt active a outMemory) (s.waitingInputs active a outMemory) (inputFrom r a p) (n - 1)
          (if a < 4 then some a else none)
    let q := routeNodes a (sourceNode r)
    forEach q s2 (fun s x => s.passBack active a r n x ((nextOn q x).getD (outRegion r)))

end State

/-- Number of 64-byte lines that consecutive keys touch. -/
def lineCount : Nat → List Nat → Nat
  | _, [] => 0
  | prev, k :: ks => (if k / 64 + 1 = prev then 0 else 1) + lineCount (k / 64 + 1) ks

namespace State

/-- DRAM lines of each stack that a source's keys touch are counted as read (2) or written (3); what is written travels to its DRAM port, and what is read comes
back from it (R17, R39, R472). -/
def countLines (s : State) (r ev : Nat) (ks : List Nat) : State :=
  forEach s.sites s (fun s d =>
    let n := lineCount 0 (ks.filter (fun k => k / dieBytes = d))
    if n = 0 then s
    else if ev = 2 then (s.countEvent (pgDieCnt d) ev 0 n).travelRead r d n
    else (s.countEvent (pgDieCnt d) ev 0 n).travel r d n)

/-- Device bytes of Platform SRAM are counted per port, and their flits pass to the port's hub, or from it where they are read (R17, R39, R472). -/
def countPsram (s : State) (r : Nat) (read : Bool) (ks : List Nat) : State :=
  forEach [0, 1] s (fun s p =>
    let own := ks.filter (fun k => psramBase p ≤ k && k < psramBase p + psramBytes)
    if own = [] then s
    else if read then (s.countEvent (pgHubCnt p) 6 p own.length).travelRead r (4 + p) (lineCount 0 own)
    else (s.countEvent (pgHubCnt p) 6 p own.length).travel r (4 + p) (lineCount 0 own))

end State

end Sys2Proof.Machine
end

