-- ==== Sys2Proof/Machine/Crypto.lean ====
section
/-! DEFINITION. The named algorithms of the security chapter: SHA-512, HMAC and HKDF (R402, R406, R410), AES-256 and its GCM (R407, R408) and XTS (R295). P-521
with ECDSA and ECDH (R397, R405, R406, R411). The spec names them and does not lay them down: the definitions here are those of the published
standards (log entry 17). -/

namespace Sys2Proof.Machine

open Sys2Proof

/-! ### SHA-512 -/

/-- Round constants. -/
def shaK : List DWord :=
  [0x428A2F98D728AE22, 0x7137449123EF65CD, 0xB5C0FBCFEC4D3B2F, 0xE9B5DBA58189DBBC,
   0x3956C25BF348B538, 0x59F111F1B605D019, 0x923F82A4AF194F9B, 0xAB1C5ED5DA6D8118,
   0xD807AA98A3030242, 0x12835B0145706FBE, 0x243185BE4EE4B28C, 0x550C7DC3D5FFB4E2,
   0x72BE5D74F27B896F, 0x80DEB1FE3B1696B1, 0x9BDC06A725C71235, 0xC19BF174CF692694,
   0xE49B69C19EF14AD2, 0xEFBE4786384F25E3, 0x0FC19DC68B8CD5B5, 0x240CA1CC77AC9C65,
   0x2DE92C6F592B0275, 0x4A7484AA6EA6E483, 0x5CB0A9DCBD41FBD4, 0x76F988DA831153B5,
   0x983E5152EE66DFAB, 0xA831C66D2DB43210, 0xB00327C898FB213F, 0xBF597FC7BEEF0EE4,
   0xC6E00BF33DA88FC2, 0xD5A79147930AA725, 0x06CA6351E003826F, 0x142929670A0E6E70,
   0x27B70A8546D22FFC, 0x2E1B21385C26C926, 0x4D2C6DFC5AC42AED, 0x53380D139D95B3DF,
   0x650A73548BAF63DE, 0x766A0ABB3C77B2A8, 0x81C2C92E47EDAEE6, 0x92722C851482353B,
   0xA2BFE8A14CF10364, 0xA81A664BBC423001, 0xC24B8B70D0F89791, 0xC76C51A30654BE30,
   0xD192E819D6EF5218, 0xD69906245565A910, 0xF40E35855771202A, 0x106AA07032BBD1B8,
   0x19A4C116B8D2D0C8, 0x1E376C085141AB53, 0x2748774CDF8EEB99, 0x34B0BCB5E19B48A8,
   0x391C0CB3C5C95A63, 0x4ED8AA4AE3418ACB, 0x5B9CCA4F7763E373, 0x682E6FF3D6B2B8A3,
   0x748F82EE5DEFB2FC, 0x78A5636F43172F60, 0x84C87814A1F0AB72, 0x8CC702081A6439EC,
   0x90BEFFFA23631E28, 0xA4506CEBDE82BDE9, 0xBEF9A3F7B2C67915, 0xC67178F2E372532B,
   0xCA273ECEEA26619C, 0xD186B8C721C0C207, 0xEADA7DD6CDE0EB1E, 0xF57D4F7FEE6ED178,
   0x06F067AA72176FBA, 0x0A637DC5A2C898A6, 0x113F9804BEF90DAE, 0x1B710B35131C471B,
   0x28DB77F523047D84, 0x32CAAB7B40C72493, 0x3C9EBE0A15C9BEBC, 0x431D67C49C100D4C,
   0x4CC5D4BECB3E42B6, 0x597F299CFC657E2A, 0x5FCB6FAB3AD6FAEC, 0x6C44198C4A475817]

/-- Initial hash value. -/
def shaInit : List DWord :=
  [0x6A09E667F3BCC908, 0xBB67AE8584CAA73B, 0x3C6EF372FE94F82B, 0xA54FF53A5F1D36F1,
   0x510E527FADE682D1, 0x9B05688C2B3E6C1F, 0x1F83D9ABFB41BD6B, 0x5BE0CD19137E2179]

/-- One round: the eight working words and the sixteen schedule words, the oldest first. -/
def shaRound (st : List DWord × List DWord) (k : DWord) : List DWord × List DWord :=
  let r := fun i => st.1.getD i 0
  let w := fun i => st.2.getD i 0
  let ch := (r 4 &&& r 5) ^^^ (~~~(r 4) &&& r 6)
  let maj := (r 0 &&& r 1) ^^^ (r 0 &&& r 2) ^^^ (r 1 &&& r 2)
  let t1 := r 7 + ((r 4).rotateRight 14 ^^^ (r 4).rotateRight 18 ^^^ (r 4).rotateRight 41) + ch + k + w 0
  let t2 := ((r 0).rotateRight 28 ^^^ (r 0).rotateRight 34 ^^^ (r 0).rotateRight 39) + maj
  let s0 := (w 1).rotateRight 1 ^^^ (w 1).rotateRight 8 ^^^ (w 1 >>> 7)
  let s1 := (w 14).rotateRight 19 ^^^ (w 14).rotateRight 61 ^^^ (w 14 >>> 6)
  ([t1 + t2, r 0, r 1, r 2, r 3 + t1, r 4, r 5, r 6], st.2.tail ++ [s1 + w 9 + s0 + w 0])

/-- A number from bytes, most significant first. -/
def beNat (bs : List Byte) : Nat := bs.foldl (fun n b => 256 * n + b.toNat) 0
/-- `n` bytes of a number, most significant first. -/
def natBE (n v : Nat) : List Byte := (natLE n v).reverse

/-- The hash value after one block of 128 bytes. -/
def shaBlock (h : List DWord) (blk : List Byte) : List DWord :=
  let w := (List.range 16).map (fun i => BitVec.ofNat 64 (beNat ((blk.drop (8 * i)).take 8)))
  (h.zip (shaK.foldl shaRound (h, w)).1).map (fun p => p.1 + p.2)

/-- SHA-512 of a byte string. -/
def sha512 (bs : List Byte) : List Byte :=
  let n := bs.length
  let pad := bs ++ [0x80] ++ List.replicate ((239 - n % 128) % 128) 0 ++ natBE 16 (8 * n)
  ((List.range (pad.length / 128)).foldl (fun h i => shaBlock h ((pad.drop (128 * i)).take 128)) shaInit).flatMap (fun w => natBE 8 w.toNat)

/-- HMAC-SHA-512. -/
def hmac512 (key msg : List Byte) : List Byte :=
  let k := if 128 < key.length then sha512 key else key
  let pad := k ++ List.replicate (128 - k.length) 0
  sha512 (pad.map (· ^^^ 0x5C) ++ sha512 (pad.map (· ^^^ 0x36) ++ msg))

/-- HKDF-SHA-512: `n` bytes from a salt, an input and an info string. -/
def hkdf512 (salt ikm info : List Byte) (n : Nat) : List Byte :=
  let prk := hmac512 salt ikm
  (((List.range ((n + 63) / 64)).foldl (fun (acc : List Byte × List Byte) i =>
    let t := hmac512 prk (acc.2 ++ info ++ [BitVec.ofNat 8 (i + 1)])
    (acc.1 ++ t, t)) ([], [])).1).take n

/-! ### AES-256 -/

/-- The S-box. -/
def aesSbox : List Byte :=
  [0x63, 0x7C, 0x77, 0x7B, 0xF2, 0x6B, 0x6F, 0xC5, 0x30, 0x01, 0x67, 0x2B, 0xFE, 0xD7, 0xAB, 0x76,
   0xCA, 0x82, 0xC9, 0x7D, 0xFA, 0x59, 0x47, 0xF0, 0xAD, 0xD4, 0xA2, 0xAF, 0x9C, 0xA4, 0x72, 0xC0,
   0xB7, 0xFD, 0x93, 0x26, 0x36, 0x3F, 0xF7, 0xCC, 0x34, 0xA5, 0xE5, 0xF1, 0x71, 0xD8, 0x31, 0x15,
   0x04, 0xC7, 0x23, 0xC3, 0x18, 0x96, 0x05, 0x9A, 0x07, 0x12, 0x80, 0xE2, 0xEB, 0x27, 0xB2, 0x75,
   0x09, 0x83, 0x2C, 0x1A, 0x1B, 0x6E, 0x5A, 0xA0, 0x52, 0x3B, 0xD6, 0xB3, 0x29, 0xE3, 0x2F, 0x84,
   0x53, 0xD1, 0x00, 0xED, 0x20, 0xFC, 0xB1, 0x5B, 0x6A, 0xCB, 0xBE, 0x39, 0x4A, 0x4C, 0x58, 0xCF,
   0xD0, 0xEF, 0xAA, 0xFB, 0x43, 0x4D, 0x33, 0x85, 0x45, 0xF9, 0x02, 0x7F, 0x50, 0x3C, 0x9F, 0xA8,
   0x51, 0xA3, 0x40, 0x8F, 0x92, 0x9D, 0x38, 0xF5, 0xBC, 0xB6, 0xDA, 0x21, 0x10, 0xFF, 0xF3, 0xD2] ++
  [0xCD, 0x0C, 0x13, 0xEC, 0x5F, 0x97, 0x44, 0x17, 0xC4, 0xA7, 0x7E, 0x3D, 0x64, 0x5D, 0x19, 0x73,
   0x60, 0x81, 0x4F, 0xDC, 0x22, 0x2A, 0x90, 0x88, 0x46, 0xEE, 0xB8, 0x14, 0xDE, 0x5E, 0x0B, 0xDB,
   0xE0, 0x32, 0x3A, 0x0A, 0x49, 0x06, 0x24, 0x5C, 0xC2, 0xD3, 0xAC, 0x62, 0x91, 0x95, 0xE4, 0x79,
   0xE7, 0xC8, 0x37, 0x6D, 0x8D, 0xD5, 0x4E, 0xA9, 0x6C, 0x56, 0xF4, 0xEA, 0x65, 0x7A, 0xAE, 0x08,
   0xBA, 0x78, 0x25, 0x2E, 0x1C, 0xA6, 0xB4, 0xC6, 0xE8, 0xDD, 0x74, 0x1F, 0x4B, 0xBD, 0x8B, 0x8A,
   0x70, 0x3E, 0xB5, 0x66, 0x48, 0x03, 0xF6, 0x0E, 0x61, 0x35, 0x57, 0xB9, 0x86, 0xC1, 0x1D, 0x9E,
   0xE1, 0xF8, 0x98, 0x11, 0x69, 0xD9, 0x8E, 0x94, 0x9B, 0x1E, 0x87, 0xE9, 0xCE, 0x55, 0x28, 0xDF,
   0x8C, 0xA1, 0x89, 0x0D, 0xBF, 0xE6, 0x42, 0x68, 0x41, 0x99, 0x2D, 0x0F, 0xB0, 0x54, 0xBB, 0x16]

/-- A byte through the S-box. -/
def aesSub (b : Byte) : Byte := aesSbox.getD b.toNat 0
/-- A byte times x in the field of AES. -/
def aesX (b : Byte) : Byte := (b <<< 1) ^^^ (if b.msb then 0x1B else 0)
/-- Two byte strings combined. -/
def xorBytes (a b : List Byte) : List Byte := (a.zip b).map (fun p => p.1 ^^^ p.2)

/-- The 60 words of the expanded key. -/
def aesKeys (key : List Byte) : List (List Byte) :=
  ((List.range 52).foldl (fun (acc : List (List Byte) × Byte) j =>
    let i := j + 8
    let t := acc.1.getD (i - 1) []
    let u := if i % 8 = 0 then xorBytes ((t.drop 1 ++ t.take 1).map aesSub) [acc.2, 0, 0, 0] else if i % 8 = 4 then t.map aesSub else t
    (acc.1 ++ [xorBytes (acc.1.getD (i - 8) []) u], if i % 8 = 0 then aesX acc.2 else acc.2))
    ((List.range 8).map (fun i => (key.drop (4 * i)).take 4), 0x01)).1

/-- One column mixed. -/
def aesMix (c : List Byte) : List Byte :=
  let g := fun i => c.getD (i % 4) 0
  (List.range 4).map (fun i => aesX (g i) ^^^ (aesX (g (i + 1)) ^^^ g (i + 1)) ^^^ g (i + 2) ^^^ g (i + 3))

/-- A block through SubBytes and ShiftRows. -/
def aesShift (b : List Byte) : List Byte := (List.range 16).map (fun i => aesSub (b.getD ((i + 4 * (i % 4)) % 16) 0))

/-- AES-256 of a block of 16 bytes under an expanded key. -/
def aesBlock (ks : List (List Byte)) (blk : List Byte) : List Byte :=
  let k := fun r => ((ks.drop (4 * r)).take 4).flatMap id
  let b := (List.range 13).foldl (fun b r =>
    let x := aesShift b
    xorBytes ((List.range 4).flatMap (fun c => aesMix ((x.drop (4 * c)).take 4))) (k (r + 1))) (xorBytes blk (k 0))
  xorBytes (aesShift b) (k 14)

/-! ### GCM -/

/-- Product of the field of GHASH; bit 127 is the first bit of a block. -/
def ghashMul (x y : Nat) : Nat :=
  ((List.range 128).foldl (fun (acc : Nat × Nat) i =>
    (if bitAt x (127 - i) then acc.1 ^^^ acc.2 else acc.1, if acc.2 % 2 = 1 then acc.2 / 2 ^^^ (0xE1 * 2 ^ 120) else acc.2 / 2)) (0, y)).1

/-- Blocks of 16 bytes, the last filled with zeros. -/
def blocks16 (bs : List Byte) : List (List Byte) :=
  (List.range ((bs.length + 15) / 16)).map (fun i => let b := (bs.drop (16 * i)).take 16; b ++ List.replicate (16 - b.length) 0)

/-- GHASH of additional data and ciphertext. -/
def ghash (h : Nat) (aad ct : List Byte) : Nat :=
  (blocks16 aad ++ blocks16 ct ++ [natBE 8 (8 * aad.length) ++ natBE 8 (8 * ct.length)]).foldl (fun y b => ghashMul (y ^^^ beNat b) h) 0

/-- The key stream of GCM from a 12-byte nonce on, applied to data. -/
def gcmCrypt (ks : List (List Byte)) (nonce data : List Byte) : List Byte :=
  xorBytes data ((List.range ((data.length + 15) / 16)).flatMap (fun i => aesBlock ks (nonce ++ natBE 4 (i + 2))))

/-- The tag of GCM over additional data and ciphertext. -/
def gcmTag (ks : List (List Byte)) (nonce aad ct : List Byte) : List Byte :=
  xorBytes (natBE 16 (ghash (beNat (aesBlock ks (List.replicate 16 0))) aad ct)) (aesBlock ks (nonce ++ natBE 4 1))

/-- AES-256-GCM: ciphertext and tag. -/
def gcmSeal (key nonce aad data : List Byte) : List Byte × List Byte :=
  let ks := aesKeys key
  let ct := gcmCrypt ks nonce data
  (ct, gcmTag ks nonce aad ct)

/-- AES-256-GCM opened: the data where the tag verifies. -/
def gcmOpen (key nonce aad ct tag : List Byte) : Option (List Byte) :=
  let ks := aesKeys key
  if gcmTag ks nonce aad ct = tag then some (gcmCrypt ks nonce ct) else none

/-! ### XTS -/

/-- A tweak times x, bytes least significant first. -/
def xtsNext (t : List Byte) : List Byte :=
  let n := leNat t * 2
  natLE 16 (if 2 ^ 128 ≤ n then (n - 2 ^ 128) ^^^ 0x87 else n)

/-- AES-256-XTS of a data unit of whole blocks under a key of 64 bytes. -/
def xtsSeal (key : List Byte) (unit : Nat) (data : List Byte) : List Byte :=
  let k1 := aesKeys (key.take 32)
  ((List.range (data.length / 16)).foldl (fun (x : List Byte × List Byte) i =>
    (x.1 ++ xorBytes (aesBlock k1 (xorBytes ((data.drop (16 * i)).take 16) x.2)) x.2, xtsNext x.2))
    ([], aesBlock (aesKeys (key.drop 32)) (natLE 16 unit))).1

/-! ### P-521 -/

/-- The prime of the field, the constant of the curve, its base point and the point's order. -/
def ecP : Nat := 2 ^ 521 - 1
def ecB : Nat := 0x51953EB9618E1C9A1F929A21A0B68540EEA2DA725B99B315F3B8B489918EF109E156193951EC7E937B1652C0BD3BB1BF073573DF883D2C34F1EF451FD46B503F00
def ecG : Nat × Nat :=
  (0xC6858E06B70404E9CD9E3ECB662395B4429C648139053FB521F828AF606B4D3DBAA14B5E77EFE75928FE1DC127A2FFA8DE3348B3C1856A429BF97E7E31C2E5BD66,
   0x11839296A789A3BC0045C8A5FB42C7D1BD998F54449579B446817AFBD17273E662C97EE72995EF42640C550B9013FAD0761353C7086A272C24088BE94769FD16650)
def ecN : Nat := 0x1FFFFFFFFFFFFFFFFFFFFFFFFFFFFFFFFFFFFFFFFFFFFFFFFFFFFFFFFFFFFFFFFFA51868783BF2F966B7FCC0148F709A5D03BB5C9B8899C47AEBB6FB71E91386409

/-- `b` to the power `e` modulo `m`, for `e` below 2 ^ 521. -/
def powMod (m b e : Nat) : Nat :=
  ((List.range 521).foldl (fun (x : Nat × Nat) i => (if bitAt e i then x.1 * x.2 % m else x.1, x.2 * x.2 % m)) (1, b % m)).1

/-- The inverse modulo a prime. -/
def invMod (m a : Nat) : Nat := powMod m a (m - 2)

/-- A point lies on the curve. -/
def ecOn (q : Nat × Nat) : Bool :=
  decide (q.1 < ecP) && decide (q.2 < ecP) && q.2 * q.2 % ecP = (q.1 * q.1 * q.1 + (ecP - 3) * q.1 + ecB) % ecP

/-- The sum of two points; `none` is the point at infinity. -/
def ecAdd : Option (Nat × Nat) → Option (Nat × Nat) → Option (Nat × Nat)
  | none, q => q
  | some p, none => some p
  | some p, some q =>
    if p.1 = q.1 && (p.2 + q.2) % ecP = 0 then none
    else
      let l := if p.1 = q.1 then (3 * p.1 * p.1 + (ecP - 3)) * invMod ecP (2 * p.2) % ecP
        else (q.2 + (ecP - p.2)) * invMod ecP (q.1 + (ecP - p.1)) % ecP
      let x := (l * l + (ecP - p.1) + (ecP - q.1)) % ecP
      some (x, (l * (p.1 + (ecP - x)) + (ecP - p.2)) % ecP)

/-- A multiple of a point, by its binary digits. -/
def ecMul (k : Nat) (q : Option (Nat × Nat)) : Option (Nat × Nat) :=
  ((List.range (Nat.log2 k + 1)).foldl (fun (x : Option (Nat × Nat) × Option (Nat × Nat)) i => (if bitAt k i then ecAdd x.1 x.2 else x.1, ecAdd x.2 x.2)) (none, q)).1

/-- A public key of 133 bytes, uncompressed; `none` where it is no point of the curve. -/
def ecPoint (bs : List Byte) : Option (Nat × Nat) :=
  let q := (beNat ((bs.drop 1).take 66), beNat ((bs.drop 67).take 66))
  if bs.length = 133 && bs.head? = some 0x04 && ecOn q then some q else none

/-- The 133 bytes of a public key. -/
def ecBytes (q : Option (Nat × Nat)) : List Byte := match q with
  | some q => 0x04 :: natBE 66 q.1 ++ natBE 66 q.2
  | none => List.replicate 133 0

/-- A private key from random bytes, and its public key. -/
def ecKey (bs : List Byte) : Nat := 1 + beNat bs % (ecN - 1)
def ecPublic (d : Nat) : List Byte := ecBytes (ecMul d (some ecG))

/-- The shared secret of ECDH: 66 bytes. -/
def ecShared (d : Nat) (pub : List Byte) : List Byte := natBE 66 ((ecMul d (ecPoint pub)).getD (0, 0)).1

/-- An ECDSA signature, r then s, of a message of SHA-512 by a private key with the random number `k`. -/
def ecdsaSign (d k : Nat) (msg : List Byte) : List Byte :=
  let r := ((ecMul k (some ecG)).getD (0, 0)).1 % ecN
  natBE 66 r ++ natBE 66 (invMod ecN k * (beNat (sha512 msg) + r * d) % ecN)

/-- An ECDSA signature of a message verifies under a public key. -/
def ecdsaOk (pub msg sig : List Byte) : Bool :=
  let r := beNat (sig.take 66)
  let s := beNat ((sig.drop 66).take 66)
  let w := invMod ecN s
  let q := ecPoint pub
  q.isSome && sig.length = 132 && r ≠ 0 && s ≠ 0 && decide (r < ecN) && decide (s < ecN)
    && (match ecAdd (ecMul (beNat (sha512 msg) * w % ecN) (some ecG)) (ecMul (r * w % ecN) q) with
      | some x => x.1 % ecN = r
      | none => false)

/-- A signed part verifies under its key, whose hash is the one required (R397, R399). -/
def signedBy (p : SignedPart) (hash : List Byte) : Bool := sha512 p.key = hash && ecdsaOk p.key p.body p.sig

end Sys2Proof.Machine
end

