-- ==== Sys2Proof/Machine/Faults.lean ====
section
/-! DEFINITION. Notices and interrupts (R358–R360), the islands' actions and the two forms of safe state (R334, R335),
and the start of a recovery (R317, R318): the operations that every family's faults end in. -/

namespace Sys2Proof.Machine

open Sys2Proof

/-! ### Error codes of R467 that meanings name -/

def eSegOff : Nat := 0x1201
def eModeMismatch : Nat := 0x2202
def eAccBounds : Nat := 0x2203
def eBundleHazard : Nat := 0x2204
def eBerthBounds : Nat := 0x2205
def eIllegalOp : Nat := 0x2206
def eIllegalField : Nat := 0x2207
def eLoopDepth : Nat := 0x2208
def eConvSpan : Nat := 0x2209
def eStoreCe : Nat := 0x1301
def eStoreUe : Nat := 0x1302
def eStoreRowWeak : Nat := 0x1303

namespace State

/-! ### Services -/

/-- SERVICE_STAT.SERVICE: 1 drive, 2 depot, 3 handover in progress (R45). -/
def service (s : State) : Nat := s.fld (pgService + 0x104) 1 0
/-- Drive service is ready. -/
def driveReady (s : State) : Bool := s.fld (pgService + 0x104) 2 2 = 1
/-- Depot service is ready. -/
def depotReady (s : State) : Bool := s.fld (pgService + 0x104) 3 3 = 1
/-- The tiles run as coupled pairs: drive service and the handovers' coupled part (R1, R20). -/
def inDrive (s : State) : Bool := s.service = 1

/-! ### Notices and interrupts -/

/-- Offset of the notice ring in each port's Platform SRAM (R350). -/
def noticeRing : Nat := 0x01F90000

/-- Sets a cause of PLAT_IRQ_STAT: 0 NOTICE, 1 COMPLETION, 2 SUBMIT, 3 PROXY (R360). -/
def irqCause (s : State) (p bit : Nat) : State := s.setFld (pgPlat p + 0x108) bit bit 1

/-- IRQ_N of a device-role port is asserted (R360). -/
def irqN (s : State) (p : Nat) : Bool := (s.fld (pgPlat p + 0x108) 3 0) &&& (s.fld (pgPlat p + 0x10C) 3 0) ≠ 0

/-- A Platform port. -/
def port (s : State) (p : Nat) : Port := smGet s.ports Port.initial p
/-- The state with a Platform port replaced. -/
def setPort (s : State) (p : Nat) (P : Port) : State := { s with ports := smPut s.ports p P }
/-- The state with a Platform port changed. -/
def updPort (s : State) (p : Nat) (f : Port → Port) : State := s.setPort p (f (s.port p))

/-- Writes a notice to one port's ring (R358). -/
def noticeTo (s : State) (p ty code tenant arg : Nat) : State :=
  let k := (s.port p).noticeSeq
  let a := psramBase p + noticeRing + k % 1024 * 32
  let phase := 1 - k / 1024 % 2
  let rec0 := natLE 4 (ty + phase * 2 ^ 31) ++ natLE 4 (k + 1) ++ natLE 8 s.now ++ natLE 2 code ++ natLE 2 tenant
    ++ natLE 4 0 ++ natLE 8 arg
  let s1 := (s.write a rec0).updPort p (fun P => { P with noticeSeq := k + 1 })
  (s1.setReg (pgPlat p + 0x114) (BitVec.ofNat 32 (k + 1))).irqCause p 0

/-- A notice is written to the rings of both ports (R358). -/
def notice (s : State) (ty : Nat) (code : Nat := 0) (tenant : Nat := 0) (arg : Nat := 0) : State :=
  (s.noticeTo 0 ty code tenant arg).noticeTo 1 ty code tenant arg

/-- A FAULT notice: CODE names the fault, ARG the logical tile or 0x3F (R359). -/
def faultNotice (s : State) (code : Nat) (tile : Nat := 0x3F) : State := s.notice 6 code 0 (if tile < 64 then tile else 0x3F)

/-! ### Islands and safe state -/

/-- An island. -/
def island (s : State) : Side → Island
  | .a => s.safety.islA
  | .b => s.safety.islB
/-- The state with an island replaced. -/
def setIsland (s : State) (x : Side) (i : Island) : State :=
  match x with
  | .a => { s with safety := { s.safety with islA := i } }
  | .b => { s with safety := { s.safety with islB := i } }

/-- Index of a side: 0 for A, 1 for B. -/
def sideNo : Side → Nat
  | .a => 0
  | .b => 1

/-- An island that still supervises (R333). -/
def islandOk (s : State) (x : Side) : Bool := !(s.island x).faulty

/-- An island asserts its pin; the pin stays asserted until PORST_N or WARM_RST_N (R334). -/
def assertPin (s : State) (x : Side) : State :=
  let s1 := s.setFld (pgIsl (sideNo x) + 0x100) 3 3 1
  match x with
  | .a => { s1 with pins := { s1.pins with safeA := true } }
  | .b => { s1 with pins := { s1.pins with safeB := true } }

/-- Both pins asserted. -/
def assertBoth (s : State) : State := (s.assertPin .a).assertPin .b

/-- An island records the event it acted on: 0 log, 1 notify, 2 SAFE_HOLD, 3 SAFE_RESET (R338). -/
def logIsland (s : State) (x : Side) (code act : Nat) : State :=
  if s.islandOk x then
    let p := pgIsl (sideNo x)
    ((s.setReg (p + 0x104) (BitVec.ofNat 32 (code % 65536 + act * 65536))).setReg (p + 0x108) (BitVec.ofNat 32 s.now)).setReg
      (p + 0x10C) (BitVec.ofNat 32 (s.now / 2 ^ 32))
  else s

/-- Both healthy islands record an event. -/
def logIslands (s : State) (code act : Nat) : State := (s.logIsland .a code act).logIsland .b code act

/-- SAFE_HOLD: both pins; the device keeps running and accepts no depot request (R334). -/
def safeHold (s : State) (code : Nat) : State :=
  let s1 := (s.logIslands code 2).assertBoth
  { s1 with safety := { s1.safety with holdAsked := true } }

/-- Events to which the customer safety table assigns an action (R335). -/
def evTaskFailed : Nat := 0
def evPlan : Nat := 1
def evThermal : Nat := 2
def evFrameLost : Nat := 3
def evFallback : Nat := 4
def evWithdrawn : Nat := 5
def evPoolShort : Nat := 6
def evIslandLost : Nat := 7

/-- The action of R335 for an event: the table's, or the default. -/
def tableAction (s : State) (ev : Nat) (safetyRank : Bool) : Action :=
  match smFind s.safety.actions ev with
  | some a => a
  | none =>
    if ev = evTaskFailed then (if safetyRank then .safeHold else .notify)
    else if ev = evFrameLost ∨ ev = evPoolShort ∨ ev = evIslandLost then .safeHold
    else .notify

/-- The healthy islands drive the GPIOs that the table names for an event (R335): 0–7 are Calmi A's, 8–15 Calmi B's (R332). -/
def driveGpio (s : State) (ev : Nat) : State :=
  let own := (smGet s.safety.gpio [] ev).filter (fun g => decide (g < 16) && s.islandOk (if g < 8 then .a else .b) && !s.pins.gpio.contains g)
  { s with pins := { s.pins with gpio := s.pins.gpio ++ own } }

/-- The islands act on an event as the customer safety table prescribes; in depot service they supervise health only and
log it (R1, R335). `own` says that the event has sent a FAULT notice itself, which is then the one that NOTIFY sends (log entry 20). -/
def islandAct (s : State) (ev code : Nat) (own : Bool := false) (safetyRank : Bool := false) : State :=
  if s.service = 2 then s.logIslands code 0
  else match s.tableAction ev safetyRank with
    | .safeHold => s.safeHold code
    | .notify =>
      let s0 := s.logIslands code 1
      let s1 := s0.driveGpio ev
      if own then s1 else s1.faultNotice code

/-- Stops issue on a tile. -/
def stopTile (s : State) (t : Nat) : State := s.updTile t (fun T => { T with stopped := true })

/-- What every warm reset does at once (R438, R344, R418): issue stops, stacks enter self-refresh, the ports go vacant, and the keys of tenants 1–4,095 are destroyed. -/
def warmStop (s : State) : State :=
  let s1 := forEach (List.range 68) s (fun s t => if (s.tile t).wid.isSome then s.stopTile t else s)
  let s2 := forEach s1.sites s1 (fun s d => s.setFld (pgDramc d + 0x100) 3 3 1)
  let s3 := forEach [0, 1] s2 (fun s p => s.updPort p (fun P => { P with vacant := true }))
  { s3 with
    start := { s3.start with hold := .warm, coldOwed := s3.start.coldOwed || (!s3.start.warm && 1 ≤ s3.start.step && s3.start.step ≤ 5) }
    dram := { s3.dram with keyTable := s3.dram.keyTable.filter (fun e => decide (e.1 < 2)) }
    sec := { s3.sec with sessions := [] }
    disp := { s3.disp with stopped := true } }

/-- SAFE_RESET: both pins, then an internal warm reset (R334). A device that a trip or PORST_N holds stays held. -/
def safeReset (s : State) (code : Nat) : State :=
  if s.live then
    let s1 := ((s.logIslands code 3).assertBoth).warmStop
    { s1 with start := { s1.start with safeReset := true } }
  else s.assertBoth

/-! ### Faults and recovery -/

/-- Logical tiles that a fault unit is made of. -/
def unitTiles (s : State) : FaultUnit → List Nat
  | .pair p => [2 * p, 2 * p + 1]
  | .tile t => if (s.tile t).coupled then [t / 2 * 2, t / 2 * 2 + 1] else [t]
  | .lane _ => []
  | .timetabling => []

/-- Tiles that a suspect cuts off (R320). -/
def suspectTiles (s : State) : Suspect → List Nat
  | .unit u => s.unitTiles u
  | .die d => s.allTiles.filter (fun t => t / 16 = d)
  | .dieTiles d => s.allTiles.filter (fun t => t / 16 = d)
  | .dieSlack d => s.allTiles.filter (fun t => t / 16 = d)
  | .bundle _ _ => []
  | .none => []

/-- A spare's fill in which a tile takes part (R325). -/
def fillOf (s : State) (t : Nat) : Option Fill := s.safety.fills.find? (fun f => f.tile = t || f.survivor = t)

/-- Whether work runs on the suspect (R317). A poisoned line, a die's missing slack and a bundle concern the whole device; a fill counts as work (R326). -/
def suspectBusy (s : State) (x : Suspect) : Bool :=
  match x with
  | .none => true
  | .die d => (s.suspectTiles (.die d)).any (fun t => (s.tile t).wid.isSome || (s.fillOf t).isSome)
  | .dieSlack _ => true
  | .bundle _ _ => true
  | .dieTiles d => (s.suspectTiles (.dieTiles d)).any (fun t => (s.tile t).wid.isSome)
  | .unit (.lane _) => s.ilk.running.isSome || s.ilk.loading.isSome
  | .unit .timetabling => s.ilk.running.isSome
  | .unit u => (s.unitTiles u).any (fun t => (s.tile t).wid.isSome || (s.fillOf t).isSome)

/-- Sets or clears a tile's bit in SAFE_ISO (0x104) or SAFE_DIAG (0x10C) (R320, R331). -/
def setSafeBit (s : State) (base t : Nat) (b : Bool) : State :=
  if t < 64 then s.setFld (pgSafety + base + 4 * (t / 32)) (t % 32) (t % 32) (b2n b) else s

/-- A tile's bit in SAFE_ISO (0x104) or SAFE_DIAG (0x10C). -/
def safeBit (s : State) (base t : Nat) : Bool := s.fld (pgSafety + base + 4 * (t / 32)) (t % 32) (t % 32) = 1

/-- Isolation of a tile (R320): out of placement, TILE_STATE isolated, its verdict self-test running (R323). -/
def isolateTile (s : State) (t : Nat) (h : Health) : State :=
  ((s.updTile t (fun T => { T with health := h, stopped := true })).setFld (pgTile t + 0x100) 2 0 4).setSafeBit 0x104 t true

/-- Isolation of a lane pair (R320): L of R278 falls while it is out. -/
def isolateLane (s : State) (j : Nat) : State :=
  let s1 := if s.ilk.lanesOut.contains j then s else { s with ilk := { s.ilk with lanesOut := j :: s.ilk.lanesOut } }
  s1.setFld (pgSafety + 0x114) j j 1

/-- The device degrades: fewer pairs or lanes than fitted (R45). -/
def setDegraded (s : State) : State := s.setFld (pgService + 0x104) 10 10 1

/-- A tile that isolation concerns: populated, and neither withdrawn nor vacant. -/
def tileJudged (s : State) (t : Nat) : Bool := s.tilePresent t && (s.tile t).health ≠ .withdrawn && (s.tile t).health ≠ .vacant

/-- Isolation of one tile with its verdict self-test; its partner of a pair waits for the verdict, unless a fill joins them (R317, R326). -/
def isolateOne (s : State) (t : Nat) : State :=
  let s1 := if s.tileJudged t then s.isolateTile t .verdict else s
  forEach ((s.unitTiles (.tile t)).filter (· ≠ t)) s1 (fun s u =>
    if s.tileJudged u && (s.tile u).health ≠ .verdict && (s.fillOf t).isNone then s.isolateTile u .injecting else s)

/-- Isolation of a unit that needs its self-test (R317, R320). -/
def isolateUnit (s : State) (u : FaultUnit) : State :=
  match u with
  | .lane j => s.isolateLane j
  | .timetabling => { s with ilk := { s.ilk with timetablingFault := true } }
  | .tile t => s.isolateOne t
  | u => forEach (s.unitTiles u) s (fun s t => if s.tileJudged t then s.isolateTile t .verdict else s)

/-- The tiles of a die that band 5 halts are withdrawn (R306, R317). -/
def isolateHalted (s : State) (d : Nat) : State :=
  forEach ((s.allTiles ++ [64 + d]).filter (fun t => dieOf t = d && s.tileJudged t)) s (fun s t => s.isolateTile t .halted)

/-- Quench (R318): issue stops on every tile that is not isolated and on the Interlocking lanes; dispatch stops. Work whose
END has drained is not lost (R319). -/
def quench (s : State) : State :=
  let s1 := forEach s.allTiles s (fun s t =>
    if (s.tile t).wid.isSome && (s.tile t).health = .inService then s.stopTile t else s)
  { s1 with disp := { s1.disp with stopped := true } }

/-- A hardware fault starts the recovery, joins the running one, or is kept for the next (R318, R327): `now` against the Isolate deadline
of 60 µs decides; where Isolate has ended before it, the suspect is isolated in an Isolate phase of its own, which keeps that deadline (log entry 146). Calmi A
handles while it is healthy (R328). -/
def startRecovery (s : State) (x : Suspect) : State :=
  if !s.live then s
  else if s.safety.phase = .none then
    let s1 := s.quench
    let s2 : State := { s1 with safety := { s1.safety with phase := .quench, began := s.now, detectedAt := s.now, suspects := [x], restart := none, next := [] } }
    (s2.setFld (pgSafety + 0x100) 3 3 0).setFld (pgSafety + 0x100) 4 4 (if s.islandOk .a then 0 else 1)
  else if s.now < s.safety.detectedAt + 60000 then
    if s.safety.phase = .spareLoad ∨ s.safety.phase = .resume then { s with safety := { s.safety with phase := .isolate, suspects := [x] } }
    else { s with safety := { s.safety with suspects := s.safety.suspects ++ [x] } }
  else
    { s with safety := { s.safety with next := s.safety.next ++ [x], restart := some s.now } }

/-- A hardware fault of a suspect (R317): a fault found while no job runs on it isolates it and starts its self-test; every
other fault runs the recovery. -/
def hwFault (s : State) (x : Suspect) : State :=
  if s.suspectBusy x then s.startRecovery x
  else match x with
    | .unit u => s.isolateUnit u
    | .dieTiles d => s.isolateHalted d
    | _ => s.startRecovery x

/-- The suspect of a fault of one tile: the tile, with its partner in drive service (R317). -/
def tileSuspect (t : Nat) : Suspect := .unit (.tile t)

end State

end Sys2Proof.Machine
end

