-- ==== Sys2Proof/Machine/Serve.lean ====
section
/-! DEFINITION. The Ledger's operations (R197–R215): the page pool, spans, allocation, drops, and the application of a step
record. Ledger, sequence, ring and tenant tables are held as typed tables, not as bytes of the drive reserve (log entry 9). -/

namespace Sys2Proof.Machine

open Sys2Proof

/-! ### Tenant memory by device address -/

namespace State

/-- Key in memory of a byte at a device address: the striped view is mapped onto the local view (R30, R31). -/
def devKey (s : State) (a : Nat) : Nat := if 0x2000000000 ≤ a ∧ a < 0x4000000000 then (s.stripeAddr a).getD 0 else a
end State

/-- Pages of a stack: 32 GiB of 32 KiB pages. -/
def stackPages : Nat := 1048576

/-! ### Lines that carry a mark (R294), and the two copies of the drive reserve (R307) -/

/-- Lines that a write covers no longer wait for their rewrite (R293). -/
def dropRewrites (m : SMap Stack) (ks : List Nat) : SMap Stack :=
  m.map (fun e => (e.1, { e.2 with rewrites := e.2.rewrites.filter (fun l => !ks.any (fun k => k / 64 = l)) }))

namespace State

/-- First page, within its stack, of a copy of the drive reserve (R307, R320). -/
def reserveStart (s : State) (d : Nat) : Nat := smGet s.dram.reserveMoved s.dram.reserveAt d

/-- A line of a copy of the drive reserve (R307). -/
def inReserve (s : State) (l : Nat) : Bool :=
  let p := l * 64 / pageBytes
  s.dram.reserveSites.contains (p / stackPages) && decide (s.reserveStart (p / stackPages) ≤ p % stackPages)
    && decide (p % stackPages < s.reserveStart (p / stackPages) + s.dram.reservePages)

/-- The same byte in the other copy of the drive reserve. -/
def twinKey (s : State) (k : Nat) : Option Nat :=
  if s.inReserve (k / 64) then (s.dram.reserveSites.find? (fun d => d ≠ k / dieBytes)).map (fun d =>
    d * dieBytes + s.reserveStart d * pageBytes + (k % dieBytes - s.reserveStart (k / dieBytes) * pageBytes)) else none

/-- A marked line among keys (R294). -/
def anyMarked (s : State) (ks : List Nat) : Bool := s.dram.marked.any (fun l => ks.any (fun k => k / 64 = l))

/-- A read of marked lines is counted in DRAMC_POISON (R294, R309). -/
def countPoison (s : State) (ks : List Nat) : State :=
  forEach (s.dram.marked.filter (fun l => ks.any (fun k => k / 64 = l))) s (fun s l =>
    (s.bump (pgDramc (l * 64 / dieBytes) + 0x120)).countErr (pgDramc (l * 64 / dieBytes)) 0x1405)

/-- Writes bytes at keys: a whole marked line loses its mark, a part of one is discarded and counted (R294). -/
def writeHere (s : State) (ks : List Nat) (bs : List Byte) : State :=
  let hit := s.dram.marked.filter (fun l => ks.any (fun k => k / 64 = l))
  let part := hit.filter (fun l => (ks.filter (fun k => k / 64 = l)).length < 64)
  let s1 := forEach part s (fun s l => (s.bump (pgDramc (l * 64 / dieBytes) + 0x120)).countErr (pgDramc (l * 64 / dieBytes)) 0x1405)
  let marked := s.dram.marked.filter (fun l => !hit.contains l || part.contains l)
  { s1 with
    dram := { s1.dram with marked := marked, stackTab := dropRewrites s1.dram.stackTab ks }
    mem := (ks.zip bs).foldl (fun m e => if part.contains (e.1 / 64) then m else memPut m e.1 e.2) s1.mem }

/-- Writes bytes at keys, those of the drive reserve in both of its copies (R307). -/
def writeKeys (s : State) (ks : List Nat) (bs : List Byte) : State :=
  let tw := (ks.zip bs).filterMap (fun e => (s.twinKey e.1).map (fun k => (k, e.2)))
  if tw = [] then s.writeHere ks bs else (s.writeHere ks bs).writeHere (tw.map (·.1)) (tw.map (·.2))

/-- `n` bytes at a device address. -/
def devBytes (s : State) (a n : Nat) : List Byte := (List.range n).map (fun i => memByte s.mem (s.devKey (a + i)))
/-- The state with bytes written at a device address. -/
def devWrite (s : State) (a : Nat) (bs : List Byte) : State :=
  s.writeKeys ((List.range bs.length).map (fun i => s.devKey (a + i))) bs
/-- A marked line among `n` bytes at a device address. -/
def devMarked (s : State) (a n : Nat) : Bool := s.dram.marked.any (fun l => (List.range n).any (fun i => s.devKey (a + i) / 64 = l))
/-- A request to a stack in self-refresh is held (R306). -/
def heldKey (s : State) (k : Nat) : Bool := decide (k / dieBytes < 4) && s.fld (pgDramc (k / dieBytes) + 0x100) 3 3 = 1
/-- Some of `n` bytes at a device address lies in such a stack. -/
def devHeld (s : State) (a n : Nat) : Bool :=
  (List.range 4).any (fun d => s.fld (pgDramc d + 0x100) 3 3 = 1) && (List.range n).any (fun i => s.heldKey (s.devKey (a + i)))
/-- A little-endian number at a device address. -/
def devNat (s : State) (a n : Nat) : Nat := leNat (s.devBytes a n)

end State

/-! ### The page pool (R206) -/

/-- Number of free pages. -/
def poolCount (p : List (Nat × Nat)) : Nat := p.foldl (fun n r => n + r.2) 0

/-- Whether a page is free. -/
def poolHas (p : List (Nat × Nat)) (x : Nat) : Bool := p.any (fun r => r.1 ≤ x && x < r.1 + r.2)

/-- The pool with a page taken out. -/
def poolTake : List (Nat × Nat) → Nat → List (Nat × Nat)
  | [], _ => []
  | (lo, n) :: p, x =>
    if lo ≤ x ∧ x < lo + n then
      (if lo < x then [(lo, x - lo)] else []) ++ (if x + 1 < lo + n then [(x + 1, lo + n - (x + 1))] else []) ++ p
    else (lo, n) :: poolTake p x

/-- The pool with a page put back. -/
def poolAdd : List (Nat × Nat) → Nat → List (Nat × Nat)
  | [], x => [(x, 1)]
  | (lo, n) :: p, x =>
    if x + 1 < lo then (x, 1) :: (lo, n) :: p
    else if x + 1 = lo then (x, n + 1) :: p
    else if x < lo + n then (lo, n) :: p
    else if x = lo + n then
      match p with
      | (lo2, n2) :: p2 => if lo2 = x + 1 then (lo, n + 1 + n2) :: p2 else (lo, n + 1) :: p
      | [] => [(lo, n + 1)]
    else (lo, n) :: poolAdd p x

/-- First page of the first run of `n` free pages among the pages `[lo, hi)`. -/
def poolFit (p : List (Nat × Nat)) (lo hi n : Nat) : Option Nat :=
  p.findSome? (fun r => if max r.1 lo + n ≤ min (r.1 + r.2) hi then some (max r.1 lo) else none)

/-- The pool without the `n` pages from `a` on, which lie in one of its runs. -/
def poolCut (p : List (Nat × Nat)) (a n : Nat) : List (Nat × Nat) :=
  p.flatMap (fun r => if r.1 ≤ a ∧ a + n ≤ r.1 + r.2 then [(r.1, a - r.1), (a + n, r.1 + r.2 - (a + n))].filter (fun x => x.2 ≠ 0) else [r])

/-- Lowest free page of a run of pages `[lo, hi)`. -/
def poolLowest (p : List (Nat × Nat)) (lo hi : Nat) : Option Nat :=
  (p.filterMap (fun r => if max r.1 lo < min (r.1 + r.2) hi then some (max r.1 lo) else none)).head?


/-! ### Entries and descriptors -/

/-- An unmapped entry (R199). -/
def LedgerEntry.unmapped : LedgerEntry :=
  { valid := false, dropped := false, lock := false, keygen := false, tenant := 0, seqTag := 0, age := 0, ppn := 0 }

/-- A free descriptor (R203). -/
def Seq.none : Seq :=
  { state := .free, evictable := false, pinned := false, tenant := 0, region := 0, pages := 0, layers := 0, tpKib := 0,
    lmax := 0, tokens := 0, kvLen := 0, mappedSpans := 0, toklog := 0, lastServed := 0, droppedSpans := 0 }

/-- An unassigned page (R296). -/
def Owner.none : Owner := { tenant := 0, keygen := false, assigned := false }

/-- A map with one value at `n` keys from `lo` on. -/
def smFill {α : Type} (m : SMap α) (lo n : Nat) (v : α) : SMap α :=
  m.filter (fun e => e.1 < lo) ++ (List.range n).map (fun i => (lo + i, v)) ++ m.filter (fun e => lo + n ≤ e.1)

/-- A map with `n` keys from `lo` on removed. -/
def smDrop {α : Type} (m : SMap α) (lo n : Nat) : SMap α := m.filter (fun e => e.1 < lo || lo + n ≤ e.1)

/-- Aperture pages of span `sp` of a sequence, in the order of the drop engine (R198, R210). -/
def Seq.spanPages (q : Seq) (sp : Nat) : List Nat :=
  (List.range (2 * q.layers)).flatMap (fun b =>
    (List.range q.tpKib).map (fun p => q.region + (b * (q.lmax / 32) + sp) * q.tpKib + p))

namespace State

/-- A Ledger entry. -/
def entry (s : State) (p : Nat) : LedgerEntry := smGet s.ledger.entries LedgerEntry.unmapped p
/-- Every cached copy of the entries that `hit` names is invalidated (R202). -/
def invalidate (s : State) (hit : Nat → Bool) : State :=
  { s with ledger := { s.ledger with caches := s.ledger.caches.map (fun c => (c.1, c.2.filter (fun p => !hit p))) } }
/-- The state with a Ledger entry changed under R201, its cached copies invalidated. -/
def setEntry (s : State) (p : Nat) (e : LedgerEntry) : State :=
  let s1 := s.invalidate (fun x => x = p)
  { s1 with ledger := { s1.ledger with entries := smPut s1.ledger.entries p e } }
/-- The state with other entries: the cached copies of those that change are invalidated. -/
def setEntries (s : State) (m : SMap LedgerEntry) : State :=
  let s1 := s.invalidate (fun p => s.entry p ≠ smGet m LedgerEntry.unmapped p)
  { s1 with ledger := { s1.ledger with entries := m } }
/-- A sequence descriptor. -/
def seq (s : State) (n : Nat) : Seq := smGet s.ledger.seqs Seq.none n
/-- The state with a sequence descriptor replaced. -/
def setSeq (s : State) (n : Nat) (q : Seq) : State := { s with ledger := { s.ledger with seqs := smPut s.ledger.seqs n q } }
/-- Owner map entry of a physical page (R296). -/
def owner (s : State) (p : Nat) : Owner := smGet s.dram.owner Owner.none p
/-- The state with an owner map entry replaced. -/
def setOwner (s : State) (p : Nat) (o : Owner) : State := { s with dram := { s.dram with owner := smPut s.dram.owner p o } }

/-- LEDGER_FREE. -/
def freePages (s : State) : Nat := poolCount s.ledger.pool
/-- A tenant's current memory-key generation (R405, R412). -/
def tenantGen (s : State) (t : Nat) : Bool := match smFind s.sec.sessions t with
  | some x => x.cur
  | none => s.sec.tenant0Cur

/-- A move on some tile still uses a translation (R202). -/
def translationHeld (s : State) (p : PendingPage) : Bool :=
  s.tiles.any (fun e => e.2.moves.any (fun m => m.pages.contains (p.apPage, p.ppn)))

/-- A page joins the free pool, assigned to no tenant. -/
def freePage (s : State) (ppn : Nat) : State :=
  { s with
    ledger := { s.ledger with pool := poolAdd s.ledger.pool ppn }
    dram := { s.dram with owner := smErase s.dram.owner ppn } }

/-- Pages given up that no move uses join the free pool (R202). -/
def releasePages (s : State) : State :=
  let rel := s.ledger.pending.filter (fun p => !s.translationHeld p)
  let s1 : State := { s with ledger := { s.ledger with pending := s.ledger.pending.filter s.translationHeld } }
  forEach rel s1 (fun s p => s.freePage p.ppn)

/-- A physical page that leaves its entry waits for the moves that translated it (R202). -/
def givePage (s : State) (ap ppn : Nat) (drop : Bool := false) : State :=
  { s with ledger := { s.ledger with pending := s.ledger.pending ++ [{ ppn := ppn, apPage := ap, drop := drop }] } }

/-- The Ledger entry that maps a physical page: its aperture page. -/
def mappedAt (s : State) (ppn : Nat) : Option Nat := (s.ledger.entries.find? (fun e => e.2.valid && e.2.ppn = ppn)).map (·.1)

/-- The page is rewritten under the tenant's current generation (R414, R415). -/
def rekeyPage (s : State) (ppn : Nat) (gen : Bool) : State :=
  let s1 := s.setOwner ppn { s.owner ppn with keygen := gen }
  match s.mappedAt ppn with
  | some p => s1.setEntry p { s1.entry p with keygen := gen, lock := false }
  | none => s1

/-- A sweep gives up the page that it holds locked: it comes after every other page of the tenant (R414). -/
def backOff (s : State) (w : Sweep) (a : Nat) : State :=
  let s1 := (s.setEntry a { s.entry a with lock := false }).bump (pgSec + 0x14C)
  { s1 with sec := { s1.sec with sweeps := s1.sec.sweeps.map (fun x =>
      if x.tenant = w.tenant then { x with pages := x.pages.tail ++ x.pages.take 1, locked := none } else x) } }

/-- A sweep rewrites the page that it holds locked, which is at its front. -/
def rekeyLocked (s : State) (w : Sweep) : State :=
  let s1 := match w.pages with
    | p :: _ => s.rekeyPage p (s.tenantGen w.tenant)
    | [] => s
  { s1 with sec := { s1.sec with sweeps := s1.sec.sweeps.map (fun x =>
      if x.tenant = w.tenant then { x with pages := x.pages.tail, locked := none } else x) } }

/-- A physical page lies in a stack in self-refresh: whatever would read or write it waits (R306). -/
def pageHeld (s : State) (ppn : Nat) : Bool := s.heldKey (ppn * pageBytes)

/-- LOCK of an aperture page clears (R414): the page is rewritten where no move that translated it is left and its stack is not halted, and passed over
otherwise. Whoever waits for it waits at most 2 µs (R202, R210, R417). -/
def resolveLock (s : State) (a : Nat) : State :=
  match s.sec.sweeps.find? (fun w => w.locked.any (fun l => l.1 = a)) with
  | none => s
  | some w =>
    if s.translationHeld { ppn := (s.entry a).ppn, apPage := a, drop := false } || s.pageHeld (s.entry a).ppn then s.backOff w a else s.rekeyLocked w

/-- Drops the tail span of a sequence (R210), once no page of it is locked (R221). -/
def dropTail (s0 : State) (n : Nat) : State :=
  let q := s0.seq n
  let sp := q.mappedSpans - 1
  let s := forEach ((q.spanPages sp).filter (fun p => (s0.entry p).lock)) s0 (fun s p => s.resolveLock p)
  let s1 := forEach (q.spanPages sp) s (fun s p =>
    let e := s.entry p
    if e.valid then (s.setEntry p { e with valid := false, dropped := true }).givePage p e.ppn true else s)
  ((s1.setSeq n { q with mappedSpans := sp, kvLen := min q.kvLen (32 * sp), droppedSpans := min 0xFFFFFFFF (q.droppedSpans + 1) }).bump
    (pgLedger + 0x11C)).countEvent (pgHubCnt 0) 9

/-- Drops every span of a sequence from `sp` up, tail first (R308). -/
def dropFrom (s : State) (n sp : Nat) : State :=
  forEach (List.range ((s.seq n).mappedSpans - sp)) s (fun s _ => s.dropTail n)

/-- Candidates of the drop engine (R210). -/
def dropCandidate (q : Seq) : Bool :=
  q.state = .opened && q.evictable && !q.pinned && q.tenant ≠ 0 && 0 < q.mappedSpans

/-- The oldest candidate: least LAST_SERVED, then lower SEQ_TAG (R210). -/
def oldestCandidate (s : State) : Option Nat :=
  ((s.ledger.seqs.filter (fun e => dropCandidate e.2)).foldl (fun (best : Option (Nat × Nat)) e =>
    match best with
    | some (_, t) => if e.2.lastServed < t then some (e.1, e.2.lastServed) else best
    | none => some (e.1, e.2.lastServed)) none).map (·.1)

/-- Drops spans until free and pending pages reach a target or no candidate is left (R210); `fuel` bounds the spans. -/
def dropUntil (target : Nat) : Nat → State → State
  | 0, s => s
  | fuel + 1, s =>
    if target ≤ s.freePages + s.ledger.pending.length then s
    else match s.oldestCandidate with
      | none => s
      | some n => dropUntil target fuel (s.dropTail n)

/-- Takes a free page, rotating over the populated, unquarantined stacks in site order (R206). -/
def takePage (s : State) : Option (Nat × State) :=
  let ok := s.sites.filter (fun d => s.fld (pgDramc d + 0x100) 4 4 = 0)
  let order := ok.filter (s.ledger.nextSite ≤ ·) ++ ok.filter (· < s.ledger.nextSite)
  (order.findSome? (fun d => (poolLowest s.ledger.pool (d * stackPages) ((d + 1) * stackPages)).map (fun p => (d, p)))).map
    (fun x => (x.2, { s with ledger := { s.ledger with pool := poolTake s.ledger.pool x.2, nextSite := (x.1 + 1) % 4 } }))

/-- A page's controller writes the whole page with zeros, which renews its marked lines too, and overtakes their rewrites (R206, R293, R294). -/
def zeroPage (s : State) (ppn : Nat) : State :=
  let s1 := s.zero (ppn * pageBytes) pageBytes
  { s1 with dram := { s1.dram with
      marked := s1.dram.marked.filter (fun l => l * 64 / pageBytes ≠ ppn)
      stackTab := s1.dram.stackTab.map (fun e => (e.1, { e.2 with rewrites := e.2.rewrites.filter (fun l => l * 64 / pageBytes ≠ ppn) })) } }

/-- Maps one aperture page of a sequence on a fresh page of zeros (R206, R296). -/
def mapPage (s : State) (n p : Nat) : State :=
  match s.takePage with
  | none => s
  | some (ppn, s1) =>
    let q := s.seq n
    let g := s.tenantGen q.tenant
    let e : LedgerEntry := { valid := true, dropped := false, lock := false, keygen := g, tenant := q.tenant, seqTag := n,
                             age := s.fld (pgLedger + 0x118) 9 0, ppn := ppn }
    ((s1.zeroPage ppn).setOwner ppn { tenant := q.tenant, keygen := g, assigned := true }).setEntry p e

/-! ### Step records (R194) -/

/-- Length of a step record (R194). -/
def recordBytes : Nat := 0xE200

def srStep (s : State) (a : Nat) : Nat := s.devNat a 4
def srNseq (s : State) (a : Nat) : Nat := s.devNat (a + 4) 2
def srMode (s : State) (a : Nat) : Nat := s.devNat (a + 6) 1
def srTag (s : State) (a j : Nat) : Nat := s.devNat (a + 0x200 + 2 * j) 2
def srStart (s : State) (a j : Nat) : Nat := s.devNat (a + 0x2200 + 4 * j) 4
def srCount (s : State) (a j : Nat) : Nat := s.devNat (a + 0x6200 + 2 * j) 2
def srResult (s : State) (a j : Nat) : Nat := s.devNat (a + 0x8200 + 4 * j) 4

/-- Clears PINNED on the sequences of a step (R208), and frees those whose CLOSE waited for it (R204, R221). -/
def unpin (s : State) (n : Nat) : State :=
  let q := s.seq n
  let s1 := s.setSeq n { q with pinned := false }
  if q.state = .closing then
    let ps := (List.range q.pages).map (q.region + ·)
    let s2 := forEach (ps.filter (fun p => (s1.entry p).valid)) s1 (fun s p => s.givePage p (s.entry p).ppn)
    (s2.setEntries (smDrop s2.ledger.entries q.region q.pages)).setSeq n Seq.none
  else s1

/-- Applies a step record after a commit (R208). -/
def applyRecord (s : State) (a : Nat) : State :=
  forEach (List.range (s.srNseq a)) s (fun s j =>
    let n := s.srTag a j
    let q := s.seq n
    let r := s.srResult a j
    let last := s.srStart a j + s.srCount a j
    if r % 4 ≠ 0 then s
    else if s.srStart a j = q.kvLen ∧ last ≤ min q.tokens (32 * q.mappedSpans) then
      s.setSeq n { q with kvLen := last, tokens := if r / 4 % 2 = 1 ∧ q.tokens < q.lmax then q.tokens + 1 else q.tokens }
    else s.devWrite (a + 0x8200 + 4 * j) (natLE 4 1))

/-- The commit word of a waybill equals its record's STEP (R207, R208). -/
def stepCommitted (s : State) (wb : Waybill) : Bool :=
  wb.commit ≠ 0 && s.devNat wb.commit 8 = s.srStep wb.arg0

/-- The commit word or the record of a step holds a marked line (R294). -/
def stepMarked (s : State) (wb : Waybill) : Bool := (wb.commit ≠ 0 && s.devMarked wb.commit 8) || s.devMarked wb.arg0 recordBytes
/-- The commit word or the record of a step lies in a stack in self-refresh (R306). -/
def stepHeld (s : State) (wb : Waybill) : Bool := (wb.commit ≠ 0 && s.devHeld wb.commit 8) || s.devHeld wb.arg0 recordBytes

end State

end Sys2Proof.Machine
end

