-- ==== Sys2Proof/Machine/DramLine.lean ====
section
/-! DEFINITION. Lines of stacked DRAM (R290–R294, R300, R307, R308): corrected and uncorrectable lines, failing channels, the drive
reserve's copies, and the clearing of marked lines. A line is numbered over all stacks: its local-view address divided by 64. -/

namespace Sys2Proof.Machine

open Sys2Proof

/-- Bits `hi` to `lo` of a number. -/
def natBits (n hi lo : Nat) : Nat := n / 2 ^ lo % 2 ^ (hi + 1 - lo)

/-- Channel, bank and row of a line (R290). -/
def lineChannel (l : Nat) : Nat := let o := l * 64 % dieBytes; natBits o 12 8 ^^^ natBits o 24 20
def lineBank (l : Nat) : Nat := let o := l * 64 % dieBytes; natBits o 17 13 ^^^ natBits o 29 25
def lineRow (l : Nat) : Nat := natBits (l * 64 % dieBytes) 34 20
/-- Column line of a line: which of the 16 lines of its row (R290). -/
def lineColumn (l : Nat) : Nat := let o := l * 64 % dieBytes; natBits o 19 18 * 4 + natBits o 7 6
/-- The row of a line. -/
def lineUnit (l : Nat) : DramUnit := { channel := lineChannel l, bank := lineBank l, column := false, index := lineRow l }
/-- The symbol of a line that a pin's four beats belong to (R291). -/
def pinSymbol (pin : Nat) : Nat := pin / 2
/-- Die of a line. -/
def lineDie (l : Nat) : Nat := l * 64 / dieBytes

/-- A stack with nothing recorded. -/
def Stack.initial : Stack :=
  { patrolAt := 0, rewrites := [], corrected := [], rewritten := [], uncorr := [], failing := none, repairs := [], noSpare := [] }

namespace State

/-- A stack's record. -/
def stack (s : State) (d : Nat) : Stack := smGet s.dram.stackTab Stack.initial d
/-- The state with a stack's record changed. -/
def updStack (s : State) (d : Nat) (f : Stack → Stack) : State :=
  { s with dram := { s.dram with stackTab := smPut s.dram.stackTab d (f (s.stack d)) } }

/-- A stack that is up: READY, not quarantined. -/
def stackUp (s : State) (d : Nat) : Bool := s.sites.contains d && s.fld (pgDramc d + 0x100) 0 0 = 1 && s.fld (pgDramc d + 0x100) 4 4 = 0

/-- A failing channel starts to migrate to the unused spare (R300, step 1). -/
def channelMigrates (s : State) (d ch : Nat) : State :=
  if (s.stack d).failing.isSome || s.fld (pgDramc d + 0x100) 1 1 = 1 then s
  else (s.updStack d (fun k => { k with failing := some (ch, s.now) })).setFld (pgDramc d + 0x100) 2 2 1

/-- A channel is failing (R300): it migrates to the spare, or is logged where the spare is taken. -/
def channelFailing (s : State) (d ch : Nat) : State :=
  let k := s.stack d
  let gone := s.fld (pgDramc d + 0x100) 1 1 = 1
  match k.failing with
  | some (c, _) => if c = ch ∨ k.noSpare.contains ch then s
      else (s.updStack d (fun k => { k with noSpare := ch :: k.noSpare })).recordErr (pgDramc d) 0x4409 ch
  | none =>
    if gone then
      if k.noSpare.contains ch then s else (s.updStack d (fun k => { k with noSpare := ch :: k.noSpare })).recordErr (pgDramc d) 0x4409 ch
    else (s.channelMigrates d ch).recordErr (pgDramc d) 0x4406 ch

/-- The repair log of a stack in the flash. -/
def repairLog (s : State) (d : Nat) : List RepairEntry := smGet s.flash.repairLog [] d

/-- An entry of the repair log (R293, R298): LOGGED saturates at 255. -/
def logRepair (s : State) (d : Nat) (e : RepairEntry) : State :=
  if (s.repairLog d).contains e then s
  else
    let s1 : State := { s with flash := { s.flash with repairLog := smPut s.flash.repairLog d (s.repairLog d ++ [e]) } }
    s1.setFld (pgDramc d + 0x128) 15 8 (min 255 (s.fld (pgDramc d + 0x128) 15 8 + 1))

/-- A line that a read finds with a corrected symbol (R293, R300). -/
def lineCorrected (s : State) (l : Nat) : State :=
  let d := lineDie l
  if !s.stackUp d then s
  else
    let k := s.stack d
    let recent := (l, s.now) :: (k.corrected.filter (fun e => s.now < e.2 + 1000000000 && e.1 ≠ l))
    let s1 := ((s.bump (pgDramc d + 0x114)).countErr (pgDramc d) 0x1401).countEvent (pgDieCnt d) 7
    let s2 := s1.updStack d (fun k => { k with corrected := recent, rewrites := if k.rewrites.contains l then k.rewrites else k.rewrites ++ [l] })
    let row := (recent.filter (fun e => lineChannel e.1 = lineChannel l && lineBank e.1 = lineBank l && lineRow e.1 = lineRow l)).length
    let s3 := if 8 ≤ row ∨ k.rewritten.contains l then s2.logRepair d (.line l) else s2
    if s3.fld (pgDramc d + 0x10C) 15 0 ≤ (recent.filter (fun e => lineChannel e.1 = lineChannel l)).length then s3.channelFailing d (lineChannel l)
    else s3

/-! ### Marked lines (R294, R297) -/

/-- A line becomes marked: its counters, DRAMC_ERR, the record, and the channel's uncorrectable lines (R294, R300). -/
def markLine (s : State) (l : Nat) (mac patrol : Bool) : State :=
  let d := lineDie l
  let p := pgDramc d
  let o := l * 64 % dieBytes
  let n := smGet (s.stack d).uncorr 0 (lineChannel l) + b2n (!mac)
  let s1 := (s.bump (if mac then p + 0x11C else p + 0x118)).updStack d (fun k => { k with uncorr := smPut k.uncorr (lineChannel l) n })
  let s2 := (s1.setReg (p + 0x12C) (BitVec.ofNat 32 o)).setReg (p + 0x130) (BitVec.ofNat 32 (o / 2 ^ 32 + b2n mac * 256 + b2n patrol * 512))
  let s3 : State := { s2 with dram := { s2.dram with marked := if s2.dram.marked.contains l then s2.dram.marked else l :: s2.dram.marked } }
  let s4 := s3.recordErr p (if patrol then 0x1404 else if mac then 0x1403 else 0x1402) (lineChannel l)
  if 2 ≤ n && !mac then s4.channelFailing d (lineChannel l) else s4

/-- A line loses its mark. -/
def unmark (s : State) (l : Nat) : State := { s with dram := { s.dram with marked := s.dram.marked.filter (· ≠ l) } }

/-- What reading a line finds: one spoiled symbol is corrected and two are detected (R291), and then the MAC is checked (R292). With three or more the spec
says nothing of the code: whether the code or the MAC finds them is free (log entry 124). -/
def lineVerdict (s : State) (symbols : List Nat) (mac : Bool) : EccFinding × State :=
  match (symbols.filter (fun k => decide (k < 72))).eraseDups.length with
  | 0 => (if mac then .macFail else .clean, s)
  | 1 => (if mac then .macFail else .corrected, s)
  | 2 => (.uncorrectable, s)
  | _ => let x := s.fresh; (if x.1 % 2 = 0 then .uncorrectable else .macFail, x.2)

/-- What a requester's read of a line that is not marked finds and leaves (R293, R294); the fault of a poisoned line is its reader's. -/
def lineRead (s : State) (f : LineFinding) : State :=
  if !s.stackUp (lineDie f.line) || s.dram.marked.contains f.line then s
  else
    let v := s.lineVerdict f.symbols f.mac
    match v.1 with
    | .clean => v.2
    | .corrected => v.2.lineCorrected f.line
    | .uncorrectable => v.2.markLine f.line false false
    | .macFail => v.2.markLine f.line true false

/-! ### Encryption (R291, R292, R295) -/

/-- Owner and key generation of a line: unassigned pages are tenant 0's (R296). -/
def lineOwner (s : State) (l : Nat) : Nat × Bool :=
  let o := s.owner (l * 64 / pageBytes)
  if o.assigned then (o.tenant, o.keygen) else (0, s.sec.tenant0Cur)

/-- The key of a slot of the key table (R295). -/
def memKey (s : State) (tenant : Nat) (gen : Bool) : List Byte := smGet s.dram.keyTable [] (2 * tenant + b2n gen)

/-- A fresh random key in a slot of the key table. -/
def installKey (s : State) (tenant : Nat) (gen : Bool) : State :=
  let k := s.drbgBytes 64
  { k.2 with dram := { k.2.dram with keyTable := smPut k.2.dram.keyTable (2 * tenant + b2n gen) k.1 } }

/-- A slot's key is destroyed. -/
def destroyKey (s : State) (tenant : Nat) (gen : Bool) : State :=
  { s with dram := { s.dram with keyTable := smErase s.dram.keyTable (2 * tenant + b2n gen) } }

/-- The 64 bytes that a line holds in the stack (R295): its data under its owner's key, the data unit numbered by its address. -/
def lineCipher (s : State) (l : Nat) : List Byte := xtsSeal (s.memKey (s.lineOwner l).1 (s.lineOwner l).2) (l * 64) (s.bytes (l * 64) 64)

/-- Four bytes of a byte string. -/
def bytes4 (l : List Byte) : List Byte := (List.range 4).map (fun i => l.getD i 0)

/-- Its sideband (R291, R292): four check symbols over ciphertext and MAC, and the MAC. -/
def lineSideband (s : State) (l : Nat) : List Byte :=
  let c := s.lineCipher l
  let m := Config.lineMac s.dram.integrityKey c (l * 64) (s.lineOwner l).1 (s.lineOwner l).2
  bytes4 (Config.eccSymbols (c ++ bytes4 m)) ++ bytes4 m

/-! ### The drive reserve (R307) -/

/-- The same line in the other copy is there and not marked (R307). -/
def otherCopyGood (s : State) (l : Nat) : Bool :=
  (s.twinKey (l * 64)).any (fun k => k / 64 ≠ l && !s.dram.marked.contains (k / 64))

/-- A marked line of the drive reserve (R307): served and rewritten from the other copy, or a level-5 fault. `copyBad`: the read from the other copy finds
its line bad too. -/
def reserveLine (s0 : State) (l : Nat) (copyBad : Bool) : State :=
  let s := match s0.twinKey (l * 64), copyBad with
    | some k, true => if s0.dram.marked.contains (k / 64) then s0 else s0.markLine (k / 64) false false
    | _, _ => s0
  if s.otherCopyGood l then s.unmark l
  else ((s.recordErr (pgDramc (lineDie l)) 0x540C).assertBoth).safeReset 0x540C

/-- A unit of a hub reads marked lines among `n` bytes at a device address (R294): each is counted; one of the drive reserve is resolved by its other copy
(R307), any other delivers poison, which is a level-1 fault (R317). -/
def devPoison (s : State) (a n : Nat) : State :=
  let ks := (List.range n).map (fun i => s.devKey (a + i))
  let hit := s.dram.marked.filter (fun l => ks.any (fun k => k / 64 = l))
  let s1 := forEach (hit.filter s.inReserve) (s.countPoison ks) (fun s l => s.reserveLine l false)
  if hit.all s.inReserve then s1 else s1.hwFault .none

/-- A hub unit reads a step's commit word and record, of which some lines are marked. -/
def stepPoison (s : State) (wb : Waybill) : State :=
  let s1 := if wb.commit ≠ 0 && s.devMarked wb.commit 8 then s.devPoison wb.commit 8 else s
  if s1.devMarked wb.arg0 recordBytes then s1.devPoison wb.arg0 recordBytes else s1

/-! ### Lost lines (R308) -/

/-- Span of a sequence in which an aperture page lies (R198). -/
def spanOf (q : Seq) (p : Nat) : Nat := (p - q.region) / q.tpKib % (q.lmax / 32)

/-- Clears a marked line before any work runs again (R308). -/
def loseLine (s : State) (l : Nat) : State :=
  let ppn := l * 64 / pageBytes
  let s0 := (s.zero (l * 64) 64).unmark l
  let s1 : State := { s0 with dram := { s0.dram with stackTab := dropRewrites s0.dram.stackTab [l * 64] } }
  match s.mappedAt ppn with
  | some p =>
    let n := (s.entry p).seqTag
    s1.dropFrom n (spanOf (s.seq n) p)
  | none =>
    let o := s.owner ppn
    if o.assigned && !s.ledger.pending.any (fun x => x.ppn = ppn) then s1.notice 8 0 o.tenant (l * 64) else s1

/-- Every marked line is resolved by its other copy where it lies in the drive reserve (R307), and cleared otherwise (R308). -/
def loseLines (s : State) : State := forEach s.dram.marked s (fun s l => if s.inReserve l then s.reserveLine l false else s.loseLine l)

end State

end Sys2Proof.Machine
end

