-- ==== Sys2Proof/Machine/Numerics.lean ====
section
/-! DEFINITION. Number formats and exact arithmetic (R148–R170): every value is a sign, a natural mantissa and an exponent
of two, operations are exact, and rounding happens once, where the spec says it does. -/

namespace Sys2Proof.Machine

open Sys2Proof

/-- A value: NaN, an infinity, or `(-1)^neg * m * 2^e` (zero keeps its sign). -/
inductive Num where
  | nan
  | inf (neg : Bool)
  | fin (neg : Bool) (m : Nat) (e : Int)
deriving DecidableEq, Repr

/-- How a floating-point format ends its range (R149). -/
inductive FKind where
  | ieee
  | e4m3
  | plain
deriving DecidableEq, Repr

/-- A floating-point format: exponent and mantissa bits, bias, and the end of its range (R149). -/
structure FFmt where
  eb : Nat
  mb : Nat
  bias : Nat
  kind : FKind
deriving DecidableEq, Repr

def fE4M3 : FFmt := { eb := 4, mb := 3, bias := 7, kind := .e4m3 }
def fE5M2 : FFmt := { eb := 5, mb := 2, bias := 15, kind := .ieee }
def fE2M3 : FFmt := { eb := 2, mb := 3, bias := 1, kind := .plain }
def fE3M2 : FFmt := { eb := 3, mb := 2, bias := 3, kind := .plain }
def fE2M1 : FFmt := { eb := 2, mb := 1, bias := 1, kind := .plain }
def fBf16 : FFmt := { eb := 8, mb := 7, bias := 127, kind := .ieee }
def fFp16 : FFmt := { eb := 5, mb := 10, bias := 15, kind := .ieee }
def fFp32 : FFmt := { eb := 8, mb := 23, bias := 127, kind := .ieee }

/-- Total width of a format. -/
def FFmt.width (f : FFmt) : Nat := 1 + f.eb + f.mb
/-- Exponent of the smallest subnormal. -/
def FFmt.qmin (f : FFmt) : Int := 1 - (f.bias : Int) - f.mb
/-- Canonical NaN pattern (R161, R166). -/
def FFmt.nanBits (f : FFmt) : Nat :=
  match f.kind with
  | .e4m3 => 0x7F
  | _ => (2 ^ f.eb - 1) * 2 ^ f.mb + 2 ^ (f.mb - 1)
/-- Infinity pattern of a sign. -/
def FFmt.infBits (f : FFmt) (neg : Bool) : Nat := b2n neg * 2 ^ (f.eb + f.mb) + (2 ^ f.eb - 1) * 2 ^ f.mb
/-- Largest finite value, as mantissa and exponent. -/
def FFmt.maxFin (f : FFmt) : Nat × Int :=
  match f.kind with
  | .ieee => (2 ^ (f.mb + 1) - 1, (2 ^ f.eb - 2 : Nat) - (f.bias : Int) - f.mb)
  | .e4m3 => (14, 5)
  | .plain => (2 ^ (f.mb + 1) - 1, (2 ^ f.eb - 1 : Nat) - (f.bias : Int) - f.mb)

/-- The value of a pattern (R149). -/
def FFmt.decode (f : FFmt) (bits : Nat) : Num :=
  let neg := bitAt bits (f.eb + f.mb)
  let ex := bits / 2 ^ f.mb % 2 ^ f.eb
  let mn := bits % 2 ^ f.mb
  if f.kind = .ieee ∧ ex = 2 ^ f.eb - 1 then (if mn = 0 then .inf neg else .nan)
  else if f.kind = .e4m3 ∧ ex = 15 ∧ mn = 7 then .nan
  else if ex = 0 then .fin neg mn f.qmin
  else .fin neg (2 ^ f.mb + mn) (f.qmin + (ex : Int) - 1)

/-! ### Rounding -/

/-- Rounding: to nearest even, or stochastic with a 16-bit draw (R163). -/
inductive Rnd where
  | even
  | draw (d : Nat)
deriving DecidableEq, Repr

/-- The magnitude `m * 2^e` as a rounded multiple of `2^q`. -/
def roundAt (rnd : Rnd) (m : Nat) (e q : Int) : Nat :=
  if q ≤ e then m * 2 ^ (e - q).toNat
  else
    let k := (q - e).toNat
    let fl := m / 2 ^ k
    let rem := m % 2 ^ k
    match rnd with
    | .even => if 2 ^ k < 2 * rem ∨ (2 * rem = 2 ^ k ∧ fl % 2 = 1) then fl + 1 else fl
    | .draw d => if 65536 ≤ rem * 65536 / 2 ^ k + d then fl + 1 else fl

/-- Exponent of the last place of a magnitude in a format: the subnormal spacing where the value lies there (R163). -/
def FFmt.quantum (f : FFmt) (m : Nat) (e : Int) : Int :=
  if m = 0 then f.qmin else max f.qmin (e + (Nat.log2 m : Int) - f.mb)

/-- A pattern from a rounded magnitude `r * 2^q`, `r` at most `2^(mb+1)`, within the format's range. -/
def FFmt.pack (f : FFmt) (neg : Bool) (r : Nat) (q : Int) : Nat :=
  let sgn := b2n neg * 2 ^ (f.eb + f.mb)
  if r < 2 ^ f.mb then sgn + r
  else if r = 2 ^ (f.mb + 1) then sgn + (q + 1 - f.qmin + 1).toNat * 2 ^ f.mb
  else sgn + (q - f.qmin + 1).toNat * 2 ^ f.mb + (r - 2 ^ f.mb)

/-- `r * 2^q` exceeds the largest finite value. -/
def FFmt.over (f : FFmt) (r : Nat) (q : Int) : Bool :=
  let (mm, me) := f.maxFin
  if q ≤ me then decide (mm * 2 ^ (me - q).toNat < r) else decide (mm < r * 2 ^ (q - me).toNat)

/-- A converted value: its pattern, and whether it clamped or is a NaN that was met or written (R161). -/
structure Conv where
  bits : Nat
  sat : Bool
  nan : Bool
deriving DecidableEq, Repr

/-- What a conversion to a floating-point format makes of infinities and of finite values out of range (R161). -/
inductive Ovf where
  | saturate
  | infinity
  | toNan
deriving DecidableEq, Repr

/-- The largest finite pattern of a sign. -/
def FFmt.maxBits (f : FFmt) (neg : Bool) : Nat := f.pack neg f.maxFin.1 f.maxFin.2

/-- Conversion to a floating-point format (R161): round to the target precision, then compare with the largest finite value.
`infKept` says that a source infinity stays one although finite overflow saturates. -/
def FFmt.conv (f : FFmt) (rnd : Rnd) (ovf : Ovf) (infKept : Bool) (v : Num) : Conv :=
  match v with
  | .nan => { bits := f.nanBits, sat := false, nan := true }
  | .inf neg =>
    match ovf with
    | .saturate => if infKept then { bits := f.infBits neg, sat := false, nan := false } else { bits := f.maxBits neg, sat := true, nan := false }
    | .infinity => { bits := f.infBits neg, sat := false, nan := false }
    | .toNan => { bits := f.nanBits, sat := false, nan := true }
  | .fin neg m e =>
    let q := f.quantum m e
    let r := roundAt rnd m e q
    if f.over r q then
      match ovf with
      | .saturate => { bits := f.maxBits neg, sat := true, nan := false }
      | .infinity => { bits := f.infBits neg, sat := false, nan := false }
      | .toNan => { bits := f.nanBits, sat := false, nan := true }
    else { bits := f.pack neg r q, sat := false, nan := false }

/-- One IEEE rounding to nearest even into a format. -/
def FFmt.round (f : FFmt) (v : Num) : Nat := (f.conv .even .infinity true v).bits

/-- Conversion to an integer range: round, then clamp; NaN gives 0 (R161). The pattern is in two's complement of width `w`. -/
def convInt (w : Nat) (lo hi : Int) (rnd : Rnd) (v : Num) : Conv :=
  match v with
  | .nan => { bits := 0, sat := false, nan := true }
  | .inf neg => { bits := twos w (if neg then lo else hi), sat := true, nan := false }
  | .fin neg m e =>
    let r : Int := roundAt rnd m e 0
    let i := if neg then -r else r
    { bits := twos w (clampI lo hi i), sat := i < lo || hi < i, nan := false }

/-! ### Exact operations -/

/-- A value from an exact signed integer times a power of two; zero is positive. -/
def Num.ofInt (i : Int) (e : Int) : Num := .fin (decide (i < 0)) i.natAbs e

/-- Signed mantissa. -/
def signedMant (neg : Bool) (m : Nat) : Int := if neg then -(m : Int) else m

/-- Exact product (R155–R158, R165); zero times infinity is NaN. -/
def Num.mul : Num → Num → Num
  | .nan, _ => .nan
  | _, .nan => .nan
  | .inf a, .inf b => .inf (a ^^ b)
  | .inf a, .fin b m _ => if m = 0 then .nan else .inf (a ^^ b)
  | .fin b m _, .inf a => if m = 0 then .nan else .inf (a ^^ b)
  | .fin a m e, .fin b n f => .fin (a ^^ b) (m * n) (e + f)

/-- Exact sum; opposite infinities give NaN, and a zero sum is +0 unless both terms are −0. -/
def Num.add : Num → Num → Num
  | .nan, _ => .nan
  | _, .nan => .nan
  | .inf a, .inf b => if a = b then .inf a else .nan
  | .inf a, .fin _ _ _ => .inf a
  | .fin _ _ _, .inf b => .inf b
  | .fin a m e, .fin b n f =>
    let q := min e f
    let i := signedMant a m * (2 : Int) ^ (e - q).toNat + signedMant b n * (2 : Int) ^ (f - q).toNat
    if i = 0 then .fin (a && b) 0 q else Num.ofInt i q

/-- Negation. -/
def Num.neg : Num → Num
  | .nan => .nan
  | .inf a => .inf (!a)
  | .fin a m e => .fin (!a) m e

/-- The value is a NaN. -/
def Num.isNan : Num → Bool
  | .nan => true
  | _ => false
/-- The value is a zero. -/
def Num.isZero : Num → Bool
  | .fin _ m _ => m = 0
  | _ => false
/-- Sign of a value that is no NaN. -/
def Num.sign : Num → Bool
  | .nan => false
  | .inf a => a
  | .fin a _ _ => a

/-- `a < b` for values that are no NaN; zeros are equal. -/
def Num.lt : Num → Num → Bool
  | .nan, _ => false
  | _, .nan => false
  | .inf a, .inf b => a && !b
  | .inf a, .fin _ _ _ => a
  | .fin _ _ _, .inf b => !b
  | .fin a m e, .fin b n f =>
    let q := min e f
    decide (signedMant a m * (2 : Int) ^ (e - q).toNat < signedMant b n * (2 : Int) ^ (f - q).toNat)

/-- `a = b` as values. -/
def Num.eqv (a b : Num) : Bool := !a.isNan && !b.isNan && !(a.lt b) && !(b.lt a)

/-! ### FP32 operations, each rounded once -/

/-- Value of an FP32 pattern. -/
def n32 (w : Nat) : Num := fFp32.decode w
def add32 (a b : Nat) : Nat := fFp32.round ((n32 a).add (n32 b))
def sub32 (a b : Nat) : Nat := fFp32.round ((n32 a).add (n32 b).neg)
def mul32 (a b : Nat) : Nat := fFp32.round ((n32 a).mul (n32 b))
def fma32 (a b c : Nat) : Nat := fFp32.round (((n32 a).mul (n32 b)).add (n32 c))

/-- Quotient rounded once to FP32: the integer quotient carries two guard bits and a sticky bit. -/
def div32 (a b : Nat) : Nat :=
  match n32 a, n32 b with
  | .nan, _ => fFp32.nanBits
  | _, .nan => fFp32.nanBits
  | .inf _, .inf _ => fFp32.nanBits
  | .inf x, .fin y _ _ => fFp32.infBits (x ^^ y)
  | .fin x _ _, .inf y => fFp32.pack (x ^^ y) 0 fFp32.qmin
  | .fin x m e, .fin y n f =>
    if n = 0 then (if m = 0 then fFp32.nanBits else fFp32.infBits (x ^^ y))
    else
      let k : Nat := 64
      let q := m * 2 ^ k / n
      let st := if m * 2 ^ k % n = 0 then 0 else 1
      fFp32.round (.fin (x ^^ y) (2 * q + st) (e - f - k - 1))

/-! ### Results inside an accuracy bound (R168) -/

/-- `n` with `bits` bits tried from the top: the largest root whose square is at most `N`. -/
def isqrtGo (N : Nat) : Nat → Nat → Nat
  | 0, acc => acc
  | k + 1, acc => if (acc + 2 ^ k) * (acc + 2 ^ k) ≤ N then isqrtGo N k (acc + 2 ^ k) else isqrtGo N k acc
/-- Integer square root. -/
def isqrt (N : Nat) : Nat := isqrtGo N (Nat.log2 N / 2 + 1) 0

/-- The FP32 results within `ulps` of a positive value that lies in `(n, n + slack + 1) * 2^e` (`exact`: that is `n * 2^e`), of which one is picked;
`lo` and `hi` bound the picks of R168 as mantissas of the value's binade. A result counts as within the bound only where it is whatever the value is
in that interval. -/
def withinUlps (ulps pick n slack : Nat) (e : Int) (exact : Bool) (lo hi : Int → Nat) : Num :=
  let q := fFp32.quantum n e
  let k := (q - e).toNat
  let r := n / 2 ^ k
  let up := if exact && n % 2 ^ k = 0 then r else min ((n + slack) / 2 ^ k) (2 ^ 24 - 1) + 1
  let a := max (lo q) (up - ulps)
  let b := min (hi q) (r + ulps)
  .fin false (a + pick % (b + 1 - a)) q

/-- Reciprocal within 1 unit of FP32 (R166, R168). -/
def rcpNum (pat : Nat) (v : Num) : Num :=
  match v with
  | .nan => .nan
  | .inf a => .fin a 0 0
  | .fin a m e =>
    if m = 0 then .inf a
    else
      let q := 2 ^ 120 / m
      match withinUlps 1 (Config.rcpPick (BitVec.ofNat 32 pat)) q 0 (-e - 120) (2 ^ 120 % m = 0) (fun _ => 0) (fun _ => 2 ^ 24 + 1) with
      | .fin _ r x => .fin a r x
      | o => o

/-- Reciprocal square root within 1 unit of FP32 (R166, R168). -/
def rsqrtNum (pat : Nat) (v : Num) : Num :=
  match v with
  | .nan => .nan
  | .inf a => if a then .nan else .fin false 0 0
  | .fin a m e =>
    if m = 0 then .inf a
    else if a then .nan
    else
      let m' := if e % 2 = 0 then m else 2 * m
      let e' := if e % 2 = 0 then e else e - 1
      let q := isqrt (2 ^ 200 / m')
      withinUlps 1 (Config.rsqrtPick (BitVec.ofNat 32 pat)) q 0 (-(e' / 2) - 100) (q * q * m' = 2 ^ 200) (fun _ => 0) (fun _ => 2 ^ 24 + 1)

/-- `2^(2^-i)` for `i` = 1 to 64, times `2^96`, rounded down. -/
def exp2Roots : List Nat :=
  [112045541949572279837463876454, 94218694570555024373110687280,
   86398923866664962375130072334, 82735892943544661968409507608,
   80963033366431698391403892406, 80090900639232773493759855183,
   79658363602065864296602447411, 79442971854562650309779985388,
   79335494482037593178543608468, 79281810334857995344526032840,
   79254981885274639038225885637, 79241571065139888961741854321,
   79234866506068713947867698353, 79231514439261175779748764724,
   79229838459036794155212045657, 79229000482219122111440011082,
   79228581497133874770443338217, 79228372005422143143813826732,
   79228267259773999700675265240, 79228214887001858491551355114,
   79228188700628770505088420372, 79228175607445472165130168566,
   79228169060854634408312904163, 79228165787559418383175182041,
   79228164150911861083921604088, 79228163332588095112623330337,
   79228162923426215296556284074, 79228162718845276180918278821,
   79228162616554806821198155068, 79228162565409572190862812835,
   79228162539836954888076321620, 79228162527050646239778370986,
   79228162520657491916403219413, 79228162517460914754909099562,
   79228162515862626174210403621, 79228162515063481883873146646,
   79228162514663909738707540908, 79228162514464123666125493726,
   79228162514364230629834659057, 79228162514314284111689288953,
   79228162514289310852616615708, 79228162514276824223080282038,
   79228162514270580908312115941, 79228162514267459250928033077,
   79228162514265898422235991691, 79228162514265118007889971009,
   79228162514264727800716960671, 79228162514264532697130455503,
   79228162514264435145337202919, 79228162514264386369440576627,
   79228162514264361981492263481, 79228162514264349787518106908,
   79228162514264343690531028622, 79228162514264340642037489479,
   79228162514264339117790719907, 79228162514264338355667335121,
   79228162514264337974605642728, 79228162514264337784074796532,
   79228162514264337688809373434, 79228162514264337641176661885,
   79228162514264337617360306110, 79228162514264337605452128223,
   79228162514264337599498039279, 79228162514264337596520994807]

/-- `2^f` times `2^96`, rounded down at each step, for the 64 fraction bits `f` (a multiple of `2^-64`). -/
def exp2Frac (f : Nat) : Nat :=
  (List.range 64).foldl (fun acc i => if bitAt f (63 - i) then acc * exp2Roots.getD i 0 / 2 ^ 96 else acc) (2 ^ 96)

/-- `2^A` before rounding to TYPE (R168): a normal result from −126 on and a subnormal one below, picked among those within 2 units of FP32. The unit
below −126 is the spacing of the subnormals (log entry 15). -/
def exp2Num (pat : Nat) (v : Num) : Num :=
  match v with
  | .nan => .nan
  | .inf a => if a then .fin false 0 0 else .inf false
  | .fin a m e =>
    let fl : Int := if 0 ≤ e then signedMant a m * (2 : Int) ^ e.toNat else Int.fdiv (signedMant a m) ((2 : Int) ^ (-e).toNat)
    if !a && 128 ≤ fl then .inf false
    else if (Num.fin a m e).lt (.fin true 150 0) then .fin false 0 0
    else
      let fr : Nat := if 0 ≤ e then 0 else (signedMant a m - fl * (2 : Int) ^ (-e).toNat).toNat
      let n := exp2Frac (fr * 2 ^ 64 / 2 ^ (-e).toNat)
      if (Num.fin a m e).lt (.fin true 126 0) then
        withinUlps 2 (Config.exp2Tiny (BitVec.ofNat 32 pat)) n (n / 2 ^ 63) (fl - 96) (fr = 0) (fun _ => 1) (fun _ => 2 ^ 23 - 1)
      else
        withinUlps 2 (Config.exp2Pick (BitVec.ofNat 32 pat)) n (n / 2 ^ 63) (fl - 96) (fr = 0)
          (fun q => if q = fFp32.qmin then 2 ^ 23 else 0) (fun q => if q = fFp32.maxFin.2 then 2 ^ 24 - 1 else 2 ^ 24 + 2)

/-- FP32 pattern of `2^x` (R168, R169). -/
def exp2Pat (x : Nat) : Nat := fFp32.round (exp2Num x (n32 x))

/-! ### The stochastic-rounding generator (R164) -/

/-- One step of the generator. -/
def rngStep (x : Word) : Word :=
  let a := x ^^^ (x <<< 13)
  let b := a ^^^ (a >>> 17)
  b ^^^ (b <<< 5)

/-- The draw that a step of the generator returns. -/
def rngDraw (x : Word) : Nat := (rngStep x).toNat % 65536

/-! ### Output formats of ACCRD and VCVT (R138, R143) -/

/-- An OFMT code as VCVT and ACCRD know it: an integer range of a width, or a floating-point format. -/
inductive OFmt where
  | int (w : Nat) (lo hi : Int)
  | flt (f : FFmt)
deriving DecidableEq, Repr

/-- OFMT 0x0–0xC (R138). -/
def ofmtOf (c : Nat) : Option OFmt :=
  match c with
  | 0x0 => some (.int 8 (-128) 127)
  | 0x1 => some (.int 8 0 255)
  | 0x2 => some (.int 4 (-8) 7)
  | 0x3 => some (.int 4 0 15)
  | 0x4 => some (.flt fE4M3)
  | 0x5 => some (.flt fE5M2)
  | 0x6 => some (.flt fBf16)
  | 0x7 => some (.flt fFp16)
  | 0x8 => some (.int 16 (-32768) 32767)
  | 0x9 => some (.flt fFp32)
  | 0xA => some (.flt fFp32)
  | 0xB => some (.int 32 (-2147483648) 2147483647)
  | 0xC => some (.int 32 (-2147483648) 2147483647)
  | _ => none

/-- Bits of one element of an OFMT. -/
def OFmt.bits : OFmt → Nat
  | .int w _ _ => w
  | .flt f => f.width

/-- Value of an element pattern. -/
def OFmt.decode (o : OFmt) (p : Nat) : Num :=
  match o with
  | .int w lo _ => Num.ofInt (if lo < 0 then sext w p else (p % 2 ^ w : Nat)) 0
  | .flt f => f.decode p

/-- Conversion by ACCRD: saturating (R161); FP8 E4M3 clamps infinities too, the others keep them. -/
def OFmt.fromAcc (o : OFmt) (rnd : Rnd) (v : Num) : Conv :=
  match o with
  | .int w lo hi => convInt w lo hi rnd v
  | .flt f => f.conv rnd (if f = fFp32 then .infinity else .saturate) (f ≠ fE4M3) v

/-- Conversion by VCVT (R161, R162): integers saturate, FP8 by SATF, BF16 and FP16 overflow to infinity. -/
def OFmt.fromVec (o : OFmt) (satf : Bool) (v : Num) : Conv :=
  match o with
  | .int w lo hi => convInt w lo hi .even v
  | .flt f =>
    if f = fE4M3 then f.conv .even (if satf then .saturate else .toNan) false v
    else if f = fE5M2 then f.conv .even (if satf then .saturate else .infinity) true v
    else f.conv .even .infinity true v

/-! ### Packing -/

/-- Elements of `w` bits (4, 8, 16 or 32) as bytes; of two 4-bit elements the first is the low nibble (R151). -/
def packElems (w : Nat) (l : List Nat) : List Byte :=
  if w = 4 then (List.range (l.length / 2)).map (fun m => BitVec.ofNat 8 (l.getD (2 * m) 0 % 16 + l.getD (2 * m + 1) 0 % 16 * 16))
  else l.flatMap (natLE (w / 8))

/-- The `n` elements of `w` bits that a byte string starts with (R151). -/
def unpackElems (w n : Nat) (bs : List Byte) : List Nat :=
  if w = 4 then (List.range n).map (fun i => (bs.getD (i / 2) 0).toNat / (if i % 2 = 0 then 1 else 16) % 16)
  else (List.range n).map (fun i => leNat ((bs.drop (i * (w / 8))).take (w / 8)))

end Sys2Proof.Machine
end

