-- ==== Sys2Proof/Machine/Work.lean ====
section
/-! DEFINITION. Running work: placement records, the end of a waybill or task (R208, R228, R240, R241), aborts
(R249), and the berths that work occupies (R92–R94, R238). -/

namespace Sys2Proof.Machine

open Sys2Proof

/-! ### Completion statuses (R229) -/

def csOk : Nat := 0x0000
def csNotCommitted : Nat := 0x0001
def csLost : Nat := 0x0002
def csOverrun : Nat := 0x0003
def csDeadlineMissed : Nat := 0x0004
def csProgramError : Nat := 0x0005
def csNoPages : Nat := 0x0006
def csStepFormat : Nat := 0x0007
def csHandleBad : Nat := 0x0008
def csTooBig : Nat := 0x0009
def csFaultLost : Nat := 0x000A
def csCommittedLate : Nat := 0x000B
def csShed : Nat := 0x000C
def csServiceWrong : Nat := 0x0010
def csStepTooLong : Nat := 0x0011
def csRingFull : Nat := 0x0012
def csRingDisabled : Nat := 0x0013
def csNotOwner : Nat := 0x0014
def csBadField : Nat := 0x0015
def csSeqFull : Nat := 0x0016
def csApertureFull : Nat := 0x0017
def csReserve : Nat := 0x0018
def csFormat : Nat := 0x0019
def csFull : Nat := 0x001A
def csPinned : Nat := 0x001B
def csConvoyAbort : Nat := 0x000D
def csBankedOut : Nat := 0x000E
def csBankUnused : Nat := 0x000F
def csKeyBusy : Nat := 0x001C
def csSessionBad : Nat := 0x001D
def csHandleFull : Nat := 0x001E
def csNoSession : Nat := 0x001F
def csThrottled : Nat := 0x0024

namespace State

/-- Changes the dispatcher. -/
def updDisp (s : State) (f : Dispatcher → Dispatcher) : State := { s with disp := f s.disp }
/-- The placement record of a piece of work. -/
def placed (s : State) (wid : Nat) : Option Placement := s.disp.placements.find? (fun p => p.wid = wid)
/-- Changes a placement record. -/
def updPlaced (s : State) (wid : Nat) (f : Placement → Placement) : State :=
  s.updDisp (fun d => { d with placements := d.placements.map (fun p => if p.wid = wid then f p else p) })
/-- Removes a placement record. -/
def dropPlaced (s : State) (wid : Nat) : State :=
  s.updDisp (fun d => { d with placements := d.placements.filter (fun p => p.wid ≠ wid) })

/-- A ring descriptor (R224). -/
def ring (s : State) (r : Nat) : Ring :=
  smGet s.disp.rings { base := 0, sizeLog2 := 4, kind := 0, enable := false, head := 0, tail := 0, dbseq := 0, inflight := 0 } r
/-- The state with a ring descriptor replaced. -/
def setRing (s : State) (r : Nat) (R : Ring) : State := s.updDisp (fun d => { d with rings := smPut d.rings r R })

end State

/-- Logical tiles of a placement, in rank order; a pair is named by its leader and its follower follows it. -/
def Placement.tiles (p : Placement) : List Nat :=
  if p.pairs then p.units.flatMap (fun u => [2 * u, 2 * u + 1]) else p.units

/-- The tile of rank 0 (R207, R237). -/
def Placement.rank0 (p : Placement) : Nat := if p.pairs then 2 * p.units.headD 0 else p.units.headD 0

namespace State

/-! ### Berths -/

/-- The tile whose ingress checks a write to a tile: the leader of a pair (R101). -/
def ingressTile (s : State) (t : Nat) : Nat := if (s.tile t).coupled then t / 2 * 2 else t

/-- Accepted writes to a dock of a tile, or of the pair that it belongs to, wait to land. -/
def dockPending (s : State) (t k : Nat) : Bool := (s.tile (s.ingressTile t)).ingress.any (fun w => w.dock = k)

/-- Closes a dock (R98): OPEN becomes CLOSING behind the accepted writes, and CLOSED when none is left. -/
def closeDock (s : State) (t k : Nat) : State :=
  if s.fld (dockReg t k 0) 1 0 ≠ 1 then s
  else s.setFld (dockReg t k 0) 1 0 (if s.dockPending t k then 2 else 0)

/-- Closes every dock of a berth (R96, R240). -/
def closeDocks (s : State) (t n : Nat) : State :=
  forEach (List.range 16) s (fun s k => if s.fld (dockReg t k 0) 10 8 = n then s.closeDock t k else s)

/-- What the model keeps of a berth. -/
def berthInfo (s : State) (t n : Nat) : BerthInfo :=
  smGet (s.tile t).berths { zeroing := false, loading := false, lastRun := 0, emptying := false } n
/-- The state with a berth's record changed. -/
def updBerth (s : State) (t n : Nat) (f : BerthInfo → BerthInfo) : State :=
  s.updTile t (fun T => { T with berths := smPut T.berths n (f (s.berthInfo t n)) })

/-- A dock of a berth is CLOSING: it still lands accepted writes (R98). -/
def berthCloses (s : State) (t n : Nat) : Bool :=
  (List.range 16).any (fun k => s.fld (dockReg t k 0) 10 8 = n && s.fld (dockReg t k 0) 1 0 = 2)

/-- A berth is EMPTY: its shares are 0 (R92). -/
def finishEmpty (s : State) (t n : Nat) : State :=
  let s2 := s.setFld (berthReg t n 8) 17 16 0
  let s3 := (s2.setFld (berthReg t n 0) 6 0 0).setFld (berthReg t n 0) 22 16 0
  let s4 := (s3.setFld (berthReg t n 4) 4 0 0).setFld (berthReg t n 4) 21 16 0
  s4.updBerth t n (fun b => { b with zeroing := false, loading := false, emptying := false })

/-- A berth becomes EMPTY once its docks have closed (R92, R96). -/
def emptyBerth (s : State) (t n : Nat) : State :=
  let s1 := s.closeDocks t n
  if s1.berthCloses t n then s1.updBerth t n (fun b => { b with zeroing := false, loading := false, emptying := true })
  else s1.finishEmpty t n

/-- The berths of a tile that wait for their docks become EMPTY where the last one has closed (R96). -/
def settleBerths (s : State) (t : Nat) : State :=
  forEach ((List.range 8).filter (fun n => (s.berthInfo t n).emptying && !s.berthCloses t n)) s (fun s n => s.finishEmpty t n)

/-- Cycles charged to a tile so far: every tile cycle since its start, gated or not, up to its budget (R90, R240). -/
def cyclesCharged (s : State) (t : Nat) : Nat := min (s.tile t).budget ((s.clk - (s.tile t).beganClk) / 2)

/-- TILE_STATE.STATE of a tile (R105): 1 idle, 2 running, 3 gated, 4 isolated, 5 in self-test. -/
def setTileState (s : State) (t v : Nat) : State := s.setFld (pgTile t + 0x100) 2 0 v

/-- A tile leaves its ended work: its running berth becomes RESIDENT, one still loading EMPTY, and the tile idle (R93). -/
def freeTile (s : State) (t : Nat) : State :=
  let n := s.berth t
  let s1 := s.updTile t (fun T => { T with wid := none, stopped := false, moves := [], loops := [], events := 0, bundle := [] })
  let s2 := if s.berthState t n = 3 then (s1.setFld (berthReg t n 8) 17 16 2).updBerth t n (fun b => { b with lastRun := s.now, loading := false })
    else if s.berthState t n = 1 then s1.emptyBerth t n else s1
  if s.fld (pgTile t + 0x100) 2 0 = 2 then s2.setTileState t 1 else s2

/-- Every unit of a placement leaves it. -/
def freeUnits (s : State) (p : Placement) : State := forEach p.tiles s (fun s t => s.freeTile t)

/-! ### Completions -/

/-- A completion waits to be written to its ring (R228). -/
def pushCompletion (s : State) (c : Completion) : State := s.updDisp (fun d => { d with completions := d.completions ++ [c] })

/-- A waybill that was never placed completes with a status (R236, R206): it has no rank-0 tile, and VALUE is 0. -/
def completeUnrun (s : State) (wb : Waybill) (index status : Nat) : State :=
  s.pushCompletion { cring := wb.cring, ring := wb.ring, index := index, status := status, code := 0, tag := wb.tag, stlo := 0,
                     value := 0, wid := none }

/-- Placed work completes with a status, with the STLO and VALUE of its placement record; its units are held until the record is written (R228). -/
def completePlaced (s : State) (p : Placement) (status : Nat) : State :=
  s.pushCompletion { cring := p.wb.cring, ring := p.wb.ring, index := p.index, status := status, code := 0, tag := p.wb.tag, stlo := p.stlo,
                     value := p.value, wid := some p.wid }

/-- Work that had run and ends without its tiles completes with the STLO and VALUE that its placement record keeps (R228). -/
def completeRan (s : State) (p : Placement) (status : Nat) : State :=
  s.pushCompletion { cring := p.wb.cring, ring := p.wb.ring, index := p.index, status := status, code := 0, tag := p.wb.tag, stlo := p.stlo,
                     value := p.value, wid := none }

/-! ### Failed tasks -/

/-- A task is reported failed (R241): TT_FAILED, a fault notice, and the islands act as the safety table says. -/
def taskFailed (s : State) (entry : Nat) : State :=
  let rank := match s.disp.tt with
    | some t => ((t.entries[entry]?).map (·.rank)).getD 0
    | none => 0
  let s1 := s.setReg (pgTick + 0x130) (BitVec.ofNat 32 (entry % 4096 + 2 ^ 31))
  let s2 := (s1.recordErr pgDispatch 0x5A04).faultNotice 0x5A04
  s2.islandAct evTaskFailed 0x5A04 true (rank = 0xFF)

/-- Run state of a timetable entry. -/
def entryRun (s : State) (e : Nat) : EntryRun := smGet s.disp.runs { phase := .idle, overruns := 0 } e
/-- The state with an entry's run state replaced. -/
def setEntryRun (s : State) (e : Nat) (r : EntryRun) : State := s.updDisp (fun d => { d with runs := smPut d.runs e r })

/-- The count of consecutive overruns of a timetable entry after a run ended with a status (R241): a completed run resets it,
an overrun advances it, and the third in a row reports the task failed; any other end leaves it (log entry 24). -/
def countOverrun (s : State) (e status : Nat) : State :=
  let r := s.entryRun e
  if status = csOk then s.setEntryRun e { r with overruns := 0 }
  else if status = csOverrun then
    let s1 := s.setEntryRun e { r with overruns := r.overruns + 1 }
    if r.overruns + 1 = 3 then s1.taskFailed e else s1
  else s

/-! ### The end of work -/

/-- Every tile of a placement has stopped and its moves have completed. -/
def drained (s : State) (p : Placement) : Bool := p.tiles.all (fun t => (s.tile t).stopped && (s.tile t).moves.isEmpty)

/-- A timetable task ends: its pairs return to their pool at once (R247). A task of an earlier frame (R254) ends nothing in the running one. -/
def finishTask (s : State) (p : Placement) (e : Nat) : State :=
  let s1 := (s.freeUnits p).dropPlaced p.wid
  let s2 := if s1.disp.lastFrameAt ≤ p.releaseClk then s1.setEntryRun e { s1.entryRun e with phase := .ended } else s1
  s2.countOverrun e p.status

/-! ### Consists (R384, R391) -/

/-- A register of a consist slot (R393). -/
def consistReg (n o : Nat) : Nat := pgCvy + 0x400 + 0x40 * n + o
/-- STATE of a consist slot: 0 FREE, 1 ACTIVE, 2 ABORTED. -/
def consistState (s : State) (n : Nat) : Nat := s.fld (consistReg n 0) 29 28
/-- The active consist that a work ring feeds (R384). -/
def consistOf (s : State) (ring : Nat) : Option Nat :=
  (List.range 16).find? (fun n => s.consistState n = 1 && s.fld (consistReg n 4) 20 0 = ring)
/-- The active consist whose bank ring a ring is (R388). -/
def bankOf (s : State) (ring : Nat) : Option Nat :=
  (List.range 16).find? (fun n => s.consistState n = 1 && s.fld (consistReg n 8) 31 31 = 1 && s.fld (consistReg n 8) 20 0 = ring)

/-- A 64-bit counter in two registers. -/
def wide (s : State) (a : Nat) : Nat := (s.reg a).toNat + (s.reg (a + 4)).toNat * 2 ^ 32
/-- The state with a 64-bit counter advanced. -/
def addWide (s : State) (a n : Nat) : State :=
  (s.setReg a (BitVec.ofNat 32 (s.wide a + n))).setReg (a + 4) (BitVec.ofNat 32 ((s.wide a + n) / 2 ^ 32))

/-- A consist waybill ends on this seat: CS_STEP, and CVY_USEFUL for a step that completes OK with CMT_FAIL 0 (R388, R391). -/
def noteStep (s : State) (p : Placement) (st lo : Nat) : State :=
  match s.consistOf p.wb.ring with
  | none => s
  | some n =>
    if !p.serving then s
    else
      let s1 := s.setReg (consistReg n 0x30) (BitVec.ofNat 32 (s.srStep p.wb.arg0))
      if st = csOk ∧ !bitAt lo stCmtFail then
        s1.addWide (pgCvy + 0x130) (s.fld (consistReg n 0xC) 6 0 * (p.toTick / 2))
      else s1

/-- Status with which a waybill completes: a serving step is judged by its commit word (R208, R229, R240). -/
def finalStatus (serving committed : Bool) (status : Nat) : Nat :=
  if !serving then status
  else if committed then (if status = csOk then csOk else if status = csOverrun ∨ status = csProgramError ∨ status = csThrottled then csCommittedLate else status)
  else if status = csOk then csNotCommitted else status

/-- What the rank-0 tile reports at the end: ST, the cycles charged and its logical tile (R228). -/
def endReport (s : State) (p : Placement) : Nat × Nat :=
  ((s.tile p.rank0).st.toNat % 65536, s.cyclesCharged p.rank0 + p.rank0 * 2 ^ 32)

/-- A waybill ends: a committed step's record is applied unless the work is LOST (R49, R419), the sequences are unpinned, and its completion
waits for its ring; its tiles stay occupied until the completion is written (R208, R228). -/
def endWaybill (s : State) (p : Placement) : State :=
  let com := p.serving && p.status ≠ csLost && s.stepCommitted p.wb
  let st := finalStatus p.serving com p.status
  let lo := if p.started then (s.endReport p).1 else p.stlo
  let s1 := if com then s.applyRecord p.wb.arg0 else s
  let s2 := forEach p.pinned s1 (fun s n => s.unpin n)
  let s3 := s2.updPlaced p.wid (fun q => { q with ended := true, status := st, stlo := lo, pinned := [] })
  let s4 := (if p.status = csOverrun then s3.bump (pgDispatch + 0x178) else s3).noteStep p st lo
  s4.pushCompletion { cring := p.wb.cring, ring := p.wb.ring, index := p.index, status := st,
                      code := if st = csOk ∨ st = csProgramError ∨ st = csCommittedLate then p.code else 0,
                      tag := p.wb.tag, stlo := lo, value := p.value, wid := some p.wid }

/-- The end of a waybill, which for a serving step reads its commit word and its record (R208): from a stack in self-refresh it waits (R306), and a marked line
is a hardware fault, whose recovery takes the work (R294). -/
def finishWaybill (s : State) (p : Placement) : State :=
  if !p.serving || p.status = csLost then s.endWaybill p
  else if s.stepHeld p.wb then s
  else
    let s1 := s.stepPoison p.wb
    if s1.stepMarked p.wb then s1 else s1.endWaybill p

/-- The last unit of aborted work has come free: a waybill completes SHED, a task leaves nothing (R249). -/
def endShed (s : State) (p : Placement) : State :=
  let s1 := forEach p.pinned s (fun s n => s.unpin n)
  match p.entry with
  | some _ => s1.dropPlaced p.wid
  | none => (s1.updPlaced p.wid (fun q => { q with ended := true, units := [], pinned := [] })).completePlaced p csShed

/-- Finishes a placement whose tiles have all stopped and drained; the pairs of shed work are free with its last move (R249). -/
def finishWork (s : State) (wid : Nat) : State :=
  match s.placed wid with
  | none => s
  | some p =>
    if p.ended || !p.started || !s.drained p then s
    else if p.aborting && p.status = csShed then (s.freeUnits p).endShed p
    else match p.entry with
      | some e => s.finishTask p e
      | none => s.finishWaybill p

/-- Moves that an abort leaves in flight (R240): a COMMIT behind earlier moves has not left the tile (R131), and a dock write whose header has not reached
its ingress has not started (R97). Every other queued move has (log entry 26). -/
def startedMoves (l : List Move) : List Move :=
  (l.foldl (fun (acc : List Move × Bool) m =>
    match m.kind with
    | .commit _ _ _ _ _ => if acc.2 then (acc.1, true) else (acc.1 ++ [m], true)
    | .dockWrite _ _ _ _ _ _ => if m.sent || m.status.isSome then (acc.1 ++ [m], true) else acc
    | _ => (acc.1 ++ [m], true)) ([], false)).1

/-- Ends a waybill alone as an overrun does (R240): issue stops on all its tiles, moves not started are discarded, moves in flight
complete, the berths' docks close; the completion follows when the moves have drained. -/
def abortWork (s : State) (wid status code : Nat) : State :=
  match s.placed wid with
  | none => s
  | some p =>
    if p.ended || p.aborting then s
    else
      let rep := s.endReport p
      let s1 := forEach p.tiles s (fun s t =>
        (s.updTile t (fun T => { T with stopped := true, moves := startedMoves T.moves })).closeDocks t (s.berth t))
      let s2 := s1.updPlaced wid (fun q => { q with status := status, code := code, stlo := rep.1, value := rep.2, aborting := true })
      s2.finishWork wid

/-- Abandons a running waybill whose moves have been discarded (R49): it ends at once, also where an abort was still draining it; work of an aborted consist
keeps its CONVOY_ABORT (R386). -/
def abandonWork (s : State) (wid status : Nat) : State :=
  match s.placed wid with
  | none => s
  | some p =>
    if p.ended then s
    else
      let rep := s.endReport p
      let s1 := forEach p.tiles s (fun s t => (s.updTile t (fun T => { T with stopped := true, moves := [] })).closeDocks t (s.berth t))
      let s2 := s1.updPlaced wid (fun q => { q with status := if q.aborting && q.status = csConvoyAbort then q.status else status, code := 0, stlo := if q.aborting then q.stlo else rep.1,
                                                    value := if q.aborting then q.value else rep.2, aborting := true })
      s2.finishWork wid

/-- A piece of work as its record keeps it when it is lost: with ST and the cycles that its rank-0 tile reports (R228). -/
def lostRecord (s : State) (p : Placement) : Placement :=
  if p.started && !p.ended && !p.aborting then { p with stlo := (s.endReport p).1, value := (s.endReport p).2 } else p

/-- A program error ends the running waybill; it is entered in the tile's error record (R106). SEG_OFF is of level 1, the
others of level 2. -/
def programError (s : State) (t code : Nat) (unit : Nat := noUnit) : State :=
  let s1 := s.recordErr (pgTile t) code unit
  match (s.tile t).wid with
  | none => s1
  | some wid => s1.abortWork wid csProgramError code

/-- A tile executes END (R118): the waybill completes when all its tiles have ended. The rank-0 tile's CODE, ST and cycles are
the waybill's. -/
def endTile (s : State) (t code : Nat) : State :=
  match (s.tile t).wid with
  | none => s
  | some wid =>
    let s1 := s.stopTile t
    match s.placed wid with
    | none => s1
    | some p =>
      let s2 := if p.rank0 = t then
          let rep := s.endReport p
          s1.updPlaced wid (fun q => { q with code := code, stlo := rep.1, value := rep.2 })
        else s1
      s2.finishWork wid

/-- An abort of R249 or R250: issue stops at once, moves not started are discarded, and those in flight stop at their next row
boundary; ABORT_COMPLETE then frees the pairs. -/
def shedWork (s : State) (wid : Nat) : State :=
  match s.placed wid with
  | none => s
  | some p =>
    if p.ended || p.aborting then s
    else
      let rep := s.endReport p
      let s1 := forEach p.tiles s (fun s t =>
        (s.updTile t (fun T => { T with stopped := true, moves := startedMoves T.moves })).closeDocks t (s.berth t))
      s1.updPlaced wid (fun q => { q with status := csShed, code := 0, stlo := if p.started then rep.1 else p.stlo,
                                          value := if p.started then rep.2 else p.value, aborting := true })

end State

end Sys2Proof.Machine
end

