-- ==== Sys2Proof/Machine/Rings.lean ====
section
/-! DEFINITION. Rings (R223–R232), waybills and the checks of a submission (R226, R227), doorbells (R353–R356), and the writing
of completion records (R228). -/

namespace Sys2Proof.Machine

open Sys2Proof

/-! ### CRC-32C (R353) -/

/-- Eight shifts of the reflected Castagnoli polynomial. -/
def crcShift : Nat → Nat → Nat
  | 0, c => c
  | n + 1, c => crcShift n (if c % 2 = 1 then (c / 2) ^^^ 0x82F63B78 else c / 2)

/-- CRC-32C of a byte string: initial value and final XOR 0xFFFF_FFFF. -/
def crc32c (bs : List Byte) : Nat := (bs.foldl (fun c b => crcShift 8 (c ^^^ b.toNat)) 0xFFFFFFFF) ^^^ 0xFFFFFFFF

/-! ### Ring indices (R223) and waybills (R226) -/

/-- Priority class of a ring index. -/
def ringClass (r : Nat) : Nat := r / 2 ^ 19 % 4
/-- Tenant of a ring index. -/
def ringTenant (r : Nat) : Nat := r / 2 ^ 7 % 4096
/-- Entries of a ring. -/
def Ring.size (R : Ring) : Nat := 2 ^ R.sizeLog2
/-- Entries that a ring holds, counted modulo 2³². -/
def Ring.fill (R : Ring) : Nat := (R.tail - R.head).toNat
/-- Entry size of a ring: 32 B for a completion ring, 64 B otherwise (R224). -/
def Ring.entryBytes (R : Ring) : Nat := if R.kind = 1 then 32 else 64
/-- Address of an entry of a ring (R224). -/
def Ring.entryAddr (R : Ring) (n : Nat) : Nat := R.base + R.entryBytes * (n % R.size)

/-- Little-endian number at an offset of a byte string. -/
def bytesNat (bs : List Byte) (off n : Nat) : Nat := leNat ((bs.drop off).take n)

/-- The waybill that 64 bytes spell (R226). -/
def Waybill.of (bs : List Byte) : Waybill :=
  { ring := bytesNat bs 0 4 % 2 ^ 21, tenant := bytesNat bs 4 2 % 4096, store16 := bytesNat bs 6 1, ibuf64 := bytesNat bs 7 1,
    handle := bytesNat bs 8 4, tiles := bytesNat bs 0xC 1, tag := bytesNat bs 0xE 2, budget := bytesNat bs 0x10 4,
    seed := BitVec.ofNat 32 (bytesNat bs 0x14 4), deadline := bytesNat bs 0x18 8, cring := bytesNat bs 0x20 4 % 2 ^ 21,
    arg2 := BitVec.ofNat 32 (bytesNat bs 0x24 4), commit := bytesNat bs 0x28 8 % 2 ^ 40,
    arg0 := bytesNat bs 0x30 8 % 2 ^ 40, arg1 := bytesNat bs 0x38 8 % 2 ^ 40 }

/-- A field of a waybill lies outside its range, a reserved bit is set, or its RING is not the doorbell's (R227). `most` is the limit of
TILES: 64 in depot service, 32 otherwise. -/
def waybillBad (bs : List Byte) (ring most : Nat) : Bool :=
  let st := bytesNat bs 6 1
  let ib := bytesNat bs 7 1
  let ti := bytesNat bs 0xC 1
  bytesNat bs 0 4 ≠ ring || decide (4096 ≤ bytesNat bs 4 2) || st = 0 || decide (80 < st) || ib = 0 || decide (32 < ib)
    || ti = 0 || decide (most < ti) || bytesNat bs 0xD 1 ≠ 0 || bytesNat bs 0x10 4 = 0 || decide (2 ^ 21 ≤ bytesNat bs 0x20 4)
    || decide (2 ^ 40 ≤ bytesNat bs 0x28 8) || bytesNat bs 0x28 8 % 8 ≠ 0 || decide (2 ^ 40 ≤ bytesNat bs 0x30 8)
    || decide (2 ^ 40 ≤ bytesNat bs 0x38 8)

namespace State

/-- The bytes of an entry of a ring. -/
def ringEntry (s : State) (r n : Nat) : List Byte := s.devBytes ((s.ring r).entryAddr n) 64

/-- Whether a ring descriptor was written. -/
def ringKnown (s : State) (r : Nat) : Bool := (smFind s.disp.rings r).isSome

/-- Completion ring of a tenant (R227). -/
def cringOf (s : State) (r tenant : Nat) : Bool := s.ringKnown r && (s.ring r).kind = 1 && ringTenant r = tenant

/-! ### The doorbell bitmap (R231, R232) -/

/-- Base of each level of the bitmap in Platform SRAM P0. -/
def bitLeaf : Nat := 0x6001F00000
def bitL2 : Nat := 0x6001F40000
def bitL1 : Nat := 0x6001F41000

/-- A bit of a bitmap level. -/
def bitGet (s : State) (base i : Nat) : Bool := bitAt (s.nat (base + i / 8) 1) (i % 8)
/-- The state with a bit of a bitmap level changed. -/
def bitPut (s : State) (base i : Nat) (b : Bool) : State :=
  s.write (base + i / 8) [BitVec.ofNat 8 (putBit (s.nat (base + i / 8) 1) (i % 8) b)]
/-- A 64-bit word of a bitmap level is nonzero. -/
def wordSet (s : State) (base w : Nat) : Bool := s.nat (base + 8 * w) 8 ≠ 0

/-- A ring's doorbell bit. -/
def bellBit (s : State) (r : Nat) : Bool := s.bitGet bitLeaf r

/-- Sets a ring's doorbell bit: leaf, then L2, then L1. -/
def setBell (s : State) (r : Nat) : State := ((s.bitPut bitLeaf r true).bitPut bitL2 (r / 64) true).bitPut bitL1 (r / 4096) true

/-- Clears a ring's leaf bit, and above it every bit whose word below reads zero. -/
def clearBell (s : State) (r : Nat) : State :=
  let s1 := s.bitPut bitLeaf r false
  if s1.wordSet bitLeaf (r / 64) then s1
  else
    let s2 := s1.bitPut bitL2 (r / 64) false
    if s2.wordSet bitL2 (r / 4096) then s2 else s2.bitPut bitL1 (r / 4096) false

/-- The dispatcher found a ring empty: it clears the bit and, rereading TAIL, sets it again if an entry has come (R232). -/
def retireBell (s : State) (r : Nat) : State :=
  let s1 := s.clearBell r
  if (s1.ring r).head = (s1.ring r).tail then s1 else s1.setBell r

/-- Advances HEAD of a ring past an entry that the device has taken. -/
def takeHead (s : State) (r : Nat) : State := s.setRing r { s.ring r with head := (s.ring r).head + 1 }

/-! ### The checks of a submission (R227) -/

/-- A handle that is registered to its tenant (R410). -/
def handleOf (s : State) (h : Nat) : Option Handle := s.sec.handles.find? (fun x => x.handle = h)

/-- A live program-image handle of a tenant. -/
def programOf (s : State) (h tenant : Nat) : Option Handle :=
  if h / 2 ^ 20 = tenant ∧ h / 2 ^ 18 % 4 = 0 then s.handleOf h else none

/-- A waybill is a batch step: its program image is marked as a serving program (R192). -/
def servingStep (s : State) (wb : Waybill) : Bool := ((s.programOf wb.handle wb.tenant).map (·.serving)).getD false

/-- Depot service with DEPOT_READY set. -/
def depotOpen (s : State) : Bool := s.service = 2 && s.depotReady

/-- A page's owner map entry names a tenant (R296). -/
def pageOwned (s : State) (ppn tenant : Nat) : Bool := (s.owner ppn).assigned && (s.owner ppn).tenant = tenant

/-- `n` bytes at a DRAM address lie in pages of a tenant: stripes of 2 KiB never cross a page. -/
def inTenantPages (s : State) (a n tenant : Nat) : Bool :=
  ((List.range (n / 0x800 + 1)).map (fun i => a + min (i * 0x800) (n - 1)) ++ [a + (n - 1)]).all (fun x =>
    match s.rangeOf x with
    | .dram _ => s.pageOwned (s.devKey x / pageBytes) tenant
    | _ => false)

/-- A step record's header is refused (R196). -/
def stepBad (s : State) (wb : Waybill) : Bool :=
  let a := wb.arg0
  a % 512 ≠ 0 || !s.inTenantPages a recordBytes wb.tenant || s.srNseq a = 0 || decide (4096 < s.srNseq a)
    || decide (1 < s.srMode a) || (s.srMode a = 0 && decide (256 < s.srNseq a)) || s.devNat (a + 7) 9 ≠ 0
    || s.devNat (a + 0x50) 432 ≠ 0

/-- Cycles that the depot tick allows a batch step (R193). -/
def tickCycles (s : State) : Nat := s.disp.depotMs * 500000

/-- First cause of R227 for a waybill, `none` where it passes. SERVICE_WRONG comes first, as R42 forbids the whole submission. -/
def waybillCheck (s : State) (ring : Nat) (bs : List Byte) : Option Nat :=
  let R := s.ring ring
  let wb := Waybill.of bs
  let t := ringTenant ring
  if t ≠ 0 && !s.depotOpen then some csServiceWrong
  else if !R.enable || R.kind ≠ 0 then some csRingDisabled
  else if wb.tenant ≠ t || !s.cringOf wb.cring t then some csNotOwner
  else if ringClass ring < (smGet s.disp.tenants (0, 0, 0) t).2.1 then some csNotOwner
  else if waybillBad bs ring (if s.service = 2 then 64 else 32) then some csBadField
  else match s.programOf wb.handle t with
    | none => some csHandleBad
    | some h =>
      if h.serving && s.service = 2 && decide (s.tickCycles < wb.budget) then some csStepTooLong
      else if h.serving && s.stepBad wb then some csStepFormat
      else if R.fill = R.size then some csRingFull
      else none

/-- The same checks for an entry of a control ring (R230), as far as they concern it. -/
def controlCheck (s : State) (ring : Nat) (bs : List Byte) : Option Nat :=
  let R := s.ring ring
  let t := ringTenant ring
  if t ≠ 0 && !s.depotOpen then some csServiceWrong
  else if !R.enable then some csRingDisabled
  else if bytesNat bs 4 2 % 4096 ≠ t || !s.cringOf (bytesNat bs 8 4 % 2 ^ 21) t then some csNotOwner
  else if bytesNat bs 0 4 ≠ ring then some csBadField
  else if R.fill = R.size then some csRingFull
  else none

/-- Copies an entry to its ring at TAIL, advances TAIL and sets the doorbell bit (R225, R232). -/
def queueEntry (s : State) (ring : Nat) (bs : List Byte) : State :=
  let R := s.ring ring
  ((s.devWrite (R.entryAddr R.tail.toNat) bs).setRing ring { R with tail := R.tail + 1 }).setBell ring

/-- Queues the entries of a submission up to the first that fails a check (R227): the state, the entries queued and the status. -/
def queueEntries (ring : Nat) : List (List Byte) → Nat → State → State × Nat × Nat
  | [], n, s => (s, n, csOk)
  | e :: es, n, s =>
    match (if (s.ring ring).kind = 2 then s.controlCheck ring e else s.waybillCheck ring e) with
    | some st => (s, n, st)
    | none => queueEntries ring es (n + 1) (s.queueEntry ring e)

/-! ### Doorbells (R353–R356) -/

def csDoorbellCrc : Nat := 0x0020
def csDoorbellSeq : Nat := 0x0021
def csDoorbellDup : Nat := 0x0022
def csSealFail : Nat := 0x0023

/-- Address of a submission slot of a port (R350). -/
def slotAddr (p n : Nat) : Nat := psramBase p + 0x01E00000 + 0x1000 * n
/-- Address of a status word of a port (R350, R355). -/
def statusAddr (p n : Nat) : Nat := psramBase p + 0x01F80000 + 16 * n

/-- Writes a doorbell's status word and raises SUBMIT (R355, R360). -/
def bellStatus (s : State) (p : Nat) (b : Bell) (st acc : Nat) : State :=
  (s.write (statusAddr p b.slot) (natLE 4 b.seq.toNat ++ natLE 4 b.ring.toNat ++ natLE 2 st ++ natLE 2 acc ++ natLE 4 0)).irqCause p 2

/-- A seal goes with the entries of a ring of tenants 1–4,095 that is no completion ring (R353). -/
def bellSealed (s : State) (b : Bell) : Bool := ringTenant b.ring.toNat ≠ 0 && (s.ring b.ring.toNat).kind ≠ 1

/-- Staged bytes of a doorbell: none for a completion ring, otherwise the entries and the seal (R353). -/
def bellBytes (s : State) (p : Nat) (b : Bell) : List Byte :=
  if (s.ring b.ring.toNat).kind = 1 then []
  else s.bytes (slotAddr p b.slot) (64 * (b.count + b2n (s.bellSealed b)))

/-- Step 1 of R354: a reserved bit, or COUNT 0 or above its limit. -/
def bellBad (s : State) (b : Bell) : Bool :=
  decide (2 ^ 21 ≤ b.ring.toNat) || b.rsv ≠ 0 || b.count = 0
    || ((s.ring b.ring.toNat).kind ≠ 1 && decide (64 < b.count + b2n (s.bellSealed b)))

end State

/-- TAG of a session seal (R407) over the staged entries and the seal's first 0x30 bytes. -/
def SessionKeys.sealTag (k : SessionKeys) (ring seq : Nat) (aad : List Byte) : List Byte :=
  gcmTag (aesKeys k.kSeal) (k.saltSeal ++ natLE 4 ring ++ natLE 4 seq) aad []

/-- A session seal opens (R407): its TAG verifies, SEQ, RING and TENANT match, and the tenant has a session. -/
def State.sealOpens (s : State) (b : Bell) (bs : List Byte) : Bool :=
  let x := bs.drop (64 * b.count)
  match smFind s.sec.sessions (ringTenant b.ring.toNat) with
  | none => false
  | some k => bytesNat x 0 4 = b.seq.toNat && bytesNat x 4 4 = b.ring.toNat && bytesNat x 8 2 = ringTenant b.ring.toNat
    && (x.drop 0x30).take 16 = k.keys.sealTag b.ring.toNat b.seq.toNat (bs.take (64 * b.count + 0x30))

namespace State

/-- Splits staged bytes into entries of 64 bytes. -/
def bellEntries (n : Nat) (bs : List Byte) : List (List Byte) := (List.range n).map (fun i => (bs.drop (64 * i)).take 64)

/-- Steps 3 to 5 of R354, with bytes whose CRC matched; R356 for a completion ring. Outside depot service no tenant holds a session whose seal could be
checked: its entries meet SERVICE_WRONG (R42, R227). -/
def bellAccept (s : State) (p : Nat) (b : Bell) (bs : List Byte) : State :=
  let r := b.ring.toNat
  let R := s.ring r
  if b.seq = R.dbseq then s.bellStatus p b csDoorbellDup 0
  else if b.seq ≠ R.dbseq + 1 then s.bellStatus p b csDoorbellSeq 0
  else if R.kind = 1 then
    if R.fill < b.count then (s.setRing r { R with dbseq := b.seq }).bellStatus p b csBadField 0
    else (s.setRing r { R with dbseq := b.seq, head := R.head + BitVec.ofNat 32 b.count }).bellStatus p b csOk 0
  else if (ringTenant r = 0 || s.depotOpen) && s.bellSealed b && !s.sealOpens b bs then (s.bump (pgSec + 0x144)).bellStatus p b csSealFail 0
  else
    let s1 := s.setRing r { R with dbseq := b.seq }
    let q := queueEntries r (bellEntries b.count bs) 0 s1
    q.1.bellStatus p b q.2.2 q.2.1

/-- Removes a slot's doorbell from the ones in progress. -/
def dropBell (s : State) (p slot : Nat) : State := s.updPort p (fun P => { P with bells := P.bells.filter (fun b => b.slot ≠ slot) })

/-- The batch steps among the staged entries whose records the check of R227 reads: in pages of their tenant. -/
def bellSteps (s : State) (b : Bell) (bs : List Byte) : List Waybill :=
  if (s.ring b.ring.toNat).kind ≠ 0 then []
  else ((bellEntries b.count bs).map Waybill.of).filter (fun wb => s.servingStep wb && s.inTenantPages wb.arg0 recordBytes wb.tenant)

/-- A doorbell waits for a halted stack (R306): a batch step's record that its check reads, or an entry of the ring that it would fill, lies there. -/
def bellHeld (s : State) (b : Bell) (bs : List Byte) : Bool :=
  (s.bellSteps b bs).any (fun wb => s.devHeld wb.arg0 recordBytes)
    || ((s.ring b.ring.toNat).kind ≠ 1 && (List.range b.count).any (fun i =>
      s.devHeld ((s.ring b.ring.toNat).entryAddr ((s.ring b.ring.toNat).tail.toNat + i)) 64))

/-- Reads the staged bytes once; `true` when the doorbell is done with (R354, step 2). It stays in progress while it waits for a halted stack (R306), and where a
line of a batch step's record is marked, which is a hardware fault (R294). -/
def bellRead (s : State) (p : Nat) (b : Bell) : Bool × State :=
  let bs := s.bellBytes p b
  if crc32c bs = b.crc.toNat then
    if s.bellHeld b bs then (false, s)
    else if (s.bellSteps b bs).any (fun wb => s.devMarked wb.arg0 recordBytes) then
      (false, forEach ((s.bellSteps b bs).filter (fun wb => s.devMarked wb.arg0 recordBytes)) s (fun s wb => s.devPoison wb.arg0 recordBytes))
    else
    let s1 := if b.reads = 0 then s else s.bump (pgPlat p + 0x124)
    (true, s1.bellAccept p b bs)
  else if 8 ≤ b.reads then
    (true, ((s.bump (pgPlat p + 0x128)).recordErr (pgPlat p) 0x5C02).bellStatus p b csDoorbellCrc 0)
  else (false, s)

/-- A doorbell's turn: its fields, then the first read; it stays in progress when the CRC differs. -/
def bellTurn (s : State) (p : Nat) (b : Bell) : State :=
  if s.bellBad b then (s.bellStatus p b csBadField 0).dropBell p b.slot
  else
    let x := s.bellRead p b
    if x.1 then x.2.dropBell p b.slot
    else x.2.updPort p (fun P => { P with bells := P.bells.map (fun y => if y.slot = b.slot then { b with waiting := false } else y) })

/-- Every doorbell in progress, with its port. -/
def allBells (s : State) : List (Nat × Bell) := [0, 1].flatMap (fun p => (s.port p).bells.map (fun b => (p, b)))

/-- The waiting doorbell of a ring that came first. -/
def firstWaiting (s : State) (r : Word) : Option (Nat × Bell) :=
  if s.allBells.any (fun x => x.2.ring = r && !x.2.waiting) then none
  else (s.allBells.filter (fun x => x.2.ring = r && x.2.waiting)).foldl (fun best x =>
    match best with
    | none => some x
    | some y => if x.2.order < y.2.order then some x else some y) none

/-- Gives their turns to waiting doorbells of a ring; `fuel` bounds them. -/
def bellDrain (r : Word) : Nat → State → State
  | 0, s => s
  | fuel + 1, s =>
    match s.firstWaiting r with
    | none => s
    | some (p, b) => bellDrain r fuel (s.bellTurn p b)

/-- A doorbell record lands (R353): dropped while its slot's previous doorbell has not written its status word, otherwise taken in
order of arrival within its ring. -/
def bellArrive (s : State) (p : Nat) (b : Bell) : State :=
  let s0 := s.countEvent (pgHubCnt p) 3 p
  if (s.port p).bells.any (fun x => x.slot = b.slot) then s0.bump (pgPlat p + 0x12C)
  else
    let b' := { b with waiting := true, reads := 0, order := s.allBells.foldl (fun m x => max m (x.2.order + 1)) 0 }
    bellDrain b.ring 1 (s0.updPort p (fun P => { P with bells := P.bells ++ [b'] }))

/-- A port answers the host: the logic runs and the hub of the port is up (R342, R344). -/
def portUp (s : State) (p : Nat) : Bool := s.fld (pgPlat p + 0x100) 1 0 = 2 && !(s.port p).vacant

end State

/-- DOORBELL (R353, R354): a record for a work or control ring. `rsv` is the record's reserved half word. -/
def execDoorbell (port : Nat) (slot : Nat) (ring : Word) (count : BitVec 16) (rsv : BitVec 16) (seq : Word) (crc : Word)
    (s : State) : Res :=
  whenLive s (fun s =>
    if !s.portUp port then s
    else s.bellArrive port { slot := slot, ring := ring, count := count.toNat, rsv := rsv.toNat, seq := seq, crc := crc,
                             reads := 0, waiting := false, order := 0 })

/-- DOORBELL_REREAD (R354, step 2). -/
def execDoorbellReread (port : Nat) (slot : Nat) (s : State) : Res :=
  whenLive s (fun s =>
    match (s.port port).bells.find? (fun b => b.slot = slot && !b.waiting) with
    | none => s
    | some b =>
      let b' := { b with reads := b.reads + 1 }
      let x := (s.countEvent (pgHubCnt port) 4 port).bellRead port b'
      if x.1 then State.bellDrain b.ring ((x.2.dropBell port slot).allBells.length) (x.2.dropBell port slot)
      else x.2.updPort port (fun P => { P with bells := P.bells.map (fun y => if y.slot = slot then b' else y) }))

/-- COMPLETION_RING_DOORBELL (R356): HEAD of a completion ring advances by COUNT. -/
def execCompletionRingDoorbell (port : Nat) (slot : Nat) (ring : Word) (count : BitVec 16) (rsv : BitVec 16) (seq : Word) (crc : Word)
    (s : State) : Res :=
  whenLive s (fun s =>
    if !s.portUp port then s
    else s.bellArrive port { slot := slot, ring := ring, count := count.toNat, rsv := rsv.toNat, seq := seq, crc := crc,
                             reads := 0, waiting := false, order := 0 })

/-! ### Completion records (R228) -/

namespace State

/-- The Platform port in whose SRAM an address lies. -/
def portOfAddr (a : Nat) : Nat := if psramBase 1 ≤ a then 1 else 0

/-- The bytes of a completion record at TAIL of its ring. -/
def recordOf (s : State) (c : Completion) : List Byte :=
  let R := s.ring c.cring
  let phase := 1 - R.tail.toNat / R.size % 2
  natLE 4 (c.ring + phase * 2 ^ 31) ++ natLE 4 c.index ++ natLE 2 c.status ++ natLE 2 c.code ++ natLE 2 c.tag ++ natLE 2 c.stlo
    ++ natLE 8 s.now ++ natLE 8 c.value

/-- COMPLETION is raised at once without a holdoff; otherwise the first record not yet reported starts it (R360). -/
def completionIrq (s : State) (p : Nat) : State :=
  if s.fld (pgPlat p + 0x110) 15 0 = 0 then s.irqCause p 1 else s.updPort p (fun P => { P with unreported := true })

/-- A placed waybill whose completion is written leaves its tiles and its record, and its ring's INFLIGHT falls. -/
def releasePlaced (s : State) (wid : Nat) : State :=
  match s.placed wid with
  | none => s
  | some p =>
    let R := s.ring p.wb.ring
    (((s.freeUnits p).dropPlaced wid).setRing p.wb.ring { R with inflight := R.inflight - 1 })

/-- Writes a waiting completion record when its ring has room; a full ring's stall is counted (R228). -/
def writeCompletion (s : State) (idx : Nat) : State :=
  match s.disp.completions[idx]? with
  | none => s
  | some c =>
    let R := s.ring c.cring
    if R.fill = R.size then s.bump (pgDispatch + 0x180)
    else
      let a := R.entryAddr R.tail.toNat
      let s1 := (s.devWrite a (s.recordOf c)).setRing c.cring { R with tail := R.tail + 1 }
      let s2 := s1.updDisp (fun d => { d with completions := d.completions.eraseIdx idx })
      let s3 := s2.completionIrq (portOfAddr a)
      match c.wid with
      | some w => s3.releasePlaced w
      | none => s3

/-- A completion waits behind an earlier one of its ring: records of a ring are written in order. -/
def completionFirst (s : State) (idx : Nat) : Bool :=
  match s.disp.completions[idx]? with
  | none => false
  | some c => !((s.disp.completions.take idx).any (fun x => x.cring = c.cring))

end State

/-- COMPLETION_RECORD (R228): the waiting record at an index is written to its completion ring. -/
def execCompletionRecord (idx : Nat) (s : State) : Res :=
  whenLive s (fun s => if s.completionFirst idx then s.writeCompletion idx else s)

end Sys2Proof.Machine
end

