-- ==== Sys2Proof/Machine/IlkGeom.lean ====
section
/-! DEFINITION. The check of a segment against a world (R258–R262, R268–R273): hulls, boxes, the tree traversal and the test of a
primitive world. Lengths are millimetres in 32 fraction bits. -/

namespace Sys2Proof.Machine

open Sys2Proof

/-! ### Angles -/

/-- One in 32 fraction bits. -/
def fone : Int := 2 ^ 32

/-- Sum of the Taylor series of the sine (start with `x`, `k = 1`) or cosine (start with 1, `k = 0`) of an angle with square `x2`. -/
def trigSum (x2 : Int) : Nat → Int → Nat → Int → Int
  | 0, _, _, acc => acc
  | n + 1, term, k, acc => trigSum x2 n (-(term * x2 / 2 ^ 40 / (((k + 1) * (k + 2) : Nat) : Int))) (k + 2) (acc + term)

/-- Sine and cosine of an angle below a quarter turn, in units of 1/2,048 turn. -/
def quarterTrig (r : Nat) : Int × Int :=
  let x : Int := 6908435304715 * (r : Int) / 2048
  let x2 := x * x / 2 ^ 40
  (trigSum x2 12 x 1 0 / 2 ^ 8, trigSum x2 12 (2 ^ 40) 0 0 / 2 ^ 8)

/-- Cosine and sine of an angle in units of 1/2,048 turn; exact at the quarter turns. -/
def cosSin (h : Int) : Int × Int :=
  let k := (h % 2048).toNat
  let q := quarterTrig (k % 512)
  match k / 512 with
  | 0 => (q.2, q.1)
  | 1 => (-q.1, q.2)
  | 2 => (-q.2, -q.1)
  | _ => (q.1, -q.2)

/-- A difference of headings brought into [−512, 511] steps (R270). -/
def wrapHead (d : Int) : Int := (d + 512) % 1024 - 512

/-! ### Waypoints (R269) and footprint boxes (R268) -/

/-- A waypoint: X, Y, Z in mm, HEADING in 1/1,024 turn, T in 10 ms; `raw` is its 64-bit word. -/
structure Waypoint where
  x : Nat
  y : Nat
  z : Nat
  h : Nat
  t : Nat
  raw : Nat
deriving DecidableEq, Repr

/-- The waypoint that a 64-bit word spells. -/
def Waypoint.of (w : Nat) : Waypoint :=
  { x := w % 2 ^ 16 * 4, y := w / 2 ^ 16 % 2 ^ 16 * 4, z := w / 2 ^ 32 % 2 ^ 12 * 16, h := w / 2 ^ 44 % 2 ^ 10, t := w / 2 ^ 54 % 2 ^ 10, raw := w }

/-- A footprint box in the vehicle frame, in mm. -/
structure FootBox where
  cx : Int
  cy : Int
  cz : Int
  hx : Nat
  hy : Nat
  hz : Nat
deriving DecidableEq, Repr

/-- A rectangle in the plane with a z range: its axis, its extents along the axis and across it, and its z range. -/
structure Prism where
  c : Int
  s : Int
  a0 : Int
  a1 : Int
  b0 : Int
  b1 : Int
  z0 : Int
  z1 : Int
deriving DecidableEq, Repr

/-- Least and greatest of a nonempty list. -/
def extent (l : List Int) : Int × Int := (l.foldl min (l.headD 0), l.foldl max (l.headD 0))

/-- A prism grown by `g` on every face. -/
def Prism.grow (p : Prism) (g : Int) : Prism :=
  { p with a0 := p.a0 - g, a1 := p.a1 + g, b0 := p.b0 - g, b1 := p.b1 + g, z0 := p.z0 - g, z1 := p.z1 + g }

/-- Projections of the four corners of a box at a pose on the axes of a frame at `mean` half steps (R270). -/
def cornersAt (w : Waypoint) (b : FootBox) (mean : Int) : List (Int × Int) :=
  let u := cosSin mean
  let d := cosSin (2 * (w.h : Int) - mean)
  let pu := (w.x : Int) * u.1 + (w.y : Int) * u.2
  let pv := (w.y : Int) * u.1 - (w.x : Int) * u.2
  ([(b.cx + b.hx, b.cy + b.hy), (b.cx + b.hx, b.cy - b.hy), (b.cx - b.hx, b.cy + b.hy), (b.cx - b.hx, b.cy - b.hy)] : List (Int × Int)).map
    (fun (k : Int × Int) => (pu + k.1 * d.1 - k.2 * d.2, pv + k.1 * d.2 + k.2 * d.1))

/-- The uninflated hull of a box over a segment (R270). -/
def hullOf (w0 w1 : Waypoint) (b : FootBox) : Prism :=
  let mean := 2 * (w0.h : Int) + wrapHead ((w1.h : Int) - w0.h)
  let u := cosSin mean
  let pts := cornersAt w0 b mean ++ cornersAt w1 b mean
  let a := extent (pts.map (·.1))
  let v := extent (pts.map (·.2))
  { c := u.1, s := u.2, a0 := a.1, a1 := a.2, b0 := v.1, b1 := v.2,
    z0 := ((min w0.z w1.z : Nat) + b.cz - b.hz) * fone, z1 := ((max w0.z w1.z : Nat) + b.cz + b.hz) * fone }

/-- A box along the world's axes. -/
def axisPrism (x0 x1 y0 y1 z0 z1 : Int) : Prism :=
  { c := fone, s := 0, a0 := x0 * fone, a1 := x1 * fone, b0 := y0 * fone, b1 := y1 * fone, z0 := z0 * fone, z1 := z1 * fone }

/-! ### Overlap (R270) -/

/-- Two ranges meet within a tolerance; touching counts. -/
def rangesMeet (lo1 hi1 lo2 hi2 tol : Int) : Bool := decide (lo2 ≤ hi1 + tol) && decide (lo1 ≤ hi2 + tol)

/-- Ranges of a prism along the axes of another at (c, s). -/
def Prism.along (p : Prism) (c s : Int) : (Int × Int) × (Int × Int) :=
  let dot := (p.c * c + p.s * s) / fone
  let crs := (c * p.s - s * p.c) / fone
  let pts := ([(p.a0, p.b0), (p.a0, p.b1), (p.a1, p.b0), (p.a1, p.b1)] : List (Int × Int)).map
    (fun (k : Int × Int) => ((k.1 * dot - k.2 * crs) / fone, (k.1 * crs + k.2 * dot) / fone))
  (extent (pts.map (·.1)), extent (pts.map (·.2)))

/-- No axis of either prism separates them by more than a tolerance, and their z ranges overlap. -/
def meetTol (p q : Prism) (tol : Int) : Bool :=
  let q1 := q.along p.c p.s
  let p1 := p.along q.c q.s
  rangesMeet p.z0 p.z1 q.z0 q.z1 tol
    && rangesMeet p.a0 p.a1 q1.1.1 q1.1.2 tol && rangesMeet p.b0 p.b1 q1.2.1 q1.2.2 tol
    && rangesMeet q.a0 q.a1 p1.1.1 p1.1.2 tol && rangesMeet q.b0 q.b1 p1.2.1 p1.2.2 tol

/-- A code of a prism, for the free value of the outward rounding. -/
def Prism.code (p : Prism) : Nat :=
  [p.c, p.s, p.a0, p.a1, p.b0, p.b1, p.z0, p.z1].foldl (fun (n : Nat) (i : Int) => n * 2 ^ 64 + twos 64 i) 0

/-- Least outward rounding: what separates by less certainly overlaps. Log entry 38. -/
def roundLeast : Int := 2 ^ 24
/-- Greatest outward rounding: 2 mm. Log entry 38. -/
def roundMost : Int := 2 ^ 33

/-- A hull overlaps a box (R270): the engine rounds outward, so an overlap is never missed; within the rounding the answer is free
(log entry 38). -/
def overlaps (hull box : Prism) : Bool :=
  meetTol hull box roundLeast || (meetTol hull box roundMost && Config.hullTouch box.code hull.code)

/-- A hull lies wholly inside a box (R271), as the engine's outward rounding sees it. -/
def insideTol (hull box : Prism) (tol : Int) : Bool :=
  let h := hull.along box.c box.s
  decide (box.a0 ≤ h.1.1 - tol) && decide (h.1.2 + tol ≤ box.a1) && decide (box.b0 ≤ h.2.1 - tol) && decide (h.2.2 + tol ≤ box.b1)
    && decide (box.z0 ≤ hull.z0 - tol) && decide (hull.z1 + tol ≤ box.z1)

def insideBox (hull box : Prism) : Bool :=
  insideTol hull box roundMost || (insideTol hull box 0 && !Config.hullTouch box.code hull.code)

/-! ### One segment's test -/

/-- What a check takes from its request (R267). -/
structure CheckReq where
  boxes : List FootBox
  margin : Nat
  tmargin : Nat
  tref : Nat
  confMin : Nat
  ignore : List Byte
deriving DecidableEq, Repr

/-- Hulls of a segment at the three inflation levels, one list of boxes' hulls for each (R270). -/
def levelHulls (c : CheckReq) (w0 w1 : Waypoint) : List (List Prism) :=
  let hs := c.boxes.map (hullOf w0 w1)
  [hs, hs.map (fun h => h.grow ((c.margin : Int) * fone / 2)), hs.map (fun h => h.grow ((c.margin : Int) * fone))]

/-- Some hull of a level overlaps a box. -/
def levelHits (hulls : List (List Prism)) (lvl : Nat) (box : Prism) : Bool := (hulls.getD lvl []).any (fun h => overlaps h box)

/-- Object class `c` never hits (R267). -/
def CheckReq.ignores (c : CheckReq) (cls : Nat) : Bool := bitAt (c.ignore.getD (cls / 8) 0).toNat (cls % 8)

/-- The bins of a segment from its start to its end time in 10 ms (R271). -/
def segMask (w : World) (c : CheckReq) (t0 t1 : Nat) : Nat :=
  let bin (t : Int) : Nat := (clampI 0 15 (Int.fdiv (t - w.t0) ((w.binMs * 1000000 : Nat) : Int))).toNat
  let lo := bin ((c.tref + t0 * 10000000 : Nat) - ((c.tmargin * 1000000 : Nat) : Int))
  let hi := bin ((c.tref + t1 * 10000000 + c.tmargin * 1000000 : Nat) : Int)
  listMask ((List.range 16).filter (fun j => lo ≤ j && j ≤ hi))

/-- What a test of a segment has found so far: lane cycles, and the nearest hit's bucket and class (R272). -/
structure SegHit where
  cycles : Nat
  hit : Option (Nat × Nat)
deriving DecidableEq, Repr

/-- A leaf or primitive that overlaps hits at the nearest level (R272). -/
def SegHit.add (r : SegHit) (hulls : List (List Prism)) (box : Prism) (cls : Nat) : SegHit :=
  let lvl := if levelHits hulls 0 box then 0 else if levelHits hulls 1 box then 1 else 2
  match r.hit with
  | none => { r with hit := some (lvl, cls) }
  | some (l, _) => if lvl < l then { r with hit := some (lvl, cls) } else r

/-- The hit lies in bucket 0, so that no nearer one exists. -/
def SegHit.final (r : SegHit) : Bool :=
  match r.hit with
  | some (0, _) => true
  | _ => false

/-- Address of a world buffer. -/
def worldBase (buf : Nat) : Nat := ilkBase + buf * 0x800000

/-- Side of the cube of a node at a depth, in mm (R260). -/
def World.side (w : World) (d : Nat) : Nat := w.leafMm * 2 ^ (w.depth - d)

/-- The world's root cube (R260). -/
def World.root (w : World) : Prism :=
  axisPrism w.ox (w.ox + w.side 0) w.oy (w.oy + w.side 0) w.oz (w.oz + w.side 0)

/-- A node on the traversal stack: index, depth, and its cube's corner in mm. -/
structure NodeAt where
  idx : Nat
  d : Nat
  x : Nat
  y : Nat
  z : Nat
deriving DecidableEq, Repr

/-- The children of an internal node in ascending octant order (R259). -/
def childrenOf (w : World) (n : NodeAt) (word : Nat) : List NodeAt :=
  let half := w.side (n.d + 1)
  let octs := maskList 8 (word / 2 ^ 48 % 256)
  (List.range octs.length).map (fun k =>
    let o := octs.getD k 0
    { idx := word / 2 ^ 24 % 2 ^ 20 + k, d := n.d + 1, x := n.x + o % 2 * half, y := n.y + o / 2 % 2 * half, z := n.z + o / 4 % 2 * half })

/-- Depth-first traversal of R272; `fuel` bounds the nodes tested. -/
def traverse (m : SMap Byte) (base : Nat) (w : World) (c : CheckReq) (hulls : List (List Prism)) (mask : Nat) :
    Nat → List NodeAt → SegHit → SegHit
  | 0, _, r => r
  | _, [], r => r
  | fuel + 1, n :: st, r =>
    let word := memNat m (base + 8 * n.idx) 8
    let sd := w.side n.d
    let box := axisPrism n.x (n.x + sd) n.y (n.y + sd) n.z (n.z + sd)
    let r1 := { r with cycles := r.cycles + 1 }
    if !levelHits hulls 2 box || (word % 65536) &&& mask = 0 then traverse m base w c hulls mask fuel st r1
    else if word / 2 ^ 63 = 0 then traverse m base w c hulls mask fuel (childrenOf w n word ++ st) r1
    else if c.ignores (word / 2 ^ 16 % 256) || decide (word / 2 ^ 24 % 256 < c.confMin) then traverse m base w c hulls mask fuel st r1
    else
      let r2 := r1.add hulls box (word / 2 ^ 16 % 256)
      if r2.final then r2 else traverse m base w c hulls mask fuel st r2

/-! ### Primitive worlds (R262) -/

/-- X, Y, Z of a vertex in mm. -/
def vertexMm (bs : List Byte) (off : Nat) : Nat × Nat × Nat := (bytesNat bs off 2 * 4, bytesNat bs (off + 2) 2 * 4, bytesNat bs (off + 4) 2 * 16)

/-- The box that stands for a primitive: a box with its YAW, a sphere's cube, a capsule's box along P0–P1. -/
def primPrism (bs : List Byte) : Prism :=
  let ty := bytesNat bs 0 1
  let p0 := vertexMm bs 8
  let p1 := vertexMm bs 14
  let hx : Int := bytesNat bs 20 2
  let hy : Int := bytesNat bs 22 2
  let hz : Int := bytesNat bs 24 2
  if ty = 1 then
    let u := cosSin (2 * (bytesNat bs 6 2 : Nat))
    let a : Int := p0.1 * u.1 + p0.2.1 * u.2
    let b : Int := p0.2.1 * u.1 - p0.1 * u.2
    { c := u.1, s := u.2, a0 := a - hx * fone, a1 := a + hx * fone, b0 := b - hy * fone, b1 := b + hy * fone,
      z0 := (p0.2.2 - hz) * fone, z1 := (p0.2.2 + hz) * fone }
  else if ty = 2 then axisPrism (p0.1 - hx) (p0.1 + hx) (p0.2.1 - hx) (p0.2.1 + hx) (p0.2.2 - hx) (p0.2.2 + hx)
  else
    let dx : Int := (p1.1 : Int) - p0.1
    let dy : Int := (p1.2.1 : Int) - p0.2.1
    let len : Int := isqrt ((dx * dx + dy * dy).toNat * 2 ^ 64)
    let c := if len = 0 then fone else dx * 2 ^ 64 / len
    let s := if len = 0 then 0 else dy * 2 ^ 64 / len
    let a := extent [p0.1 * c + p0.2.1 * s, p1.1 * c + p1.2.1 * s]
    let b := extent [p0.2.1 * c - p0.1 * s, p1.2.1 * c - p1.1 * s]
    { c := c, s := s, a0 := a.1 - hx * fone, a1 := a.2 + hx * fone, b0 := b.1 - hx * fone, b1 := b.2 + hx * fone,
      z0 := ((min p0.2.2 p1.2.2 : Nat) - hx) * fone, z1 := ((max p0.2.2 p1.2.2 : Nat) + hx) * fone }

/-- The world-axis bounding box of vertices. -/
def boundOf (vs : List (Nat × Nat × Nat)) : Prism :=
  let x := extent (vs.map (fun v => (v.1 : Int)))
  let y := extent (vs.map (fun v => (v.2.1 : Int)))
  let z := extent (vs.map (fun v => (v.2.2 : Int)))
  axisPrism x.1 x.2 y.1 y.2 z.1 z.2

/-- Vertices of triangle `k`. -/
def triVerts (m : SMap Byte) (base k : Nat) : List (Nat × Nat × Nat) :=
  let bs := memBytes m (base + 0x8400 + 24 * k) 24
  [vertexMm bs 0, vertexMm bs 6, vertexMm bs 12]

/-- One primitive or triangle: its box, class, confidence and bins. -/
def primTest (c : CheckReq) (hulls : List (List Prism)) (mask : Nat) (box : Prism) (cls conf tmask cost : Nat) (r : SegHit) : SegHit :=
  let r1 := { r with cycles := r.cycles + cost }
  if !levelHits hulls 2 box || tmask &&& mask = 0 || c.ignores cls || decide (conf < c.confMin) then r1 else r1.add hulls box cls

/-- Every primitive, every mesh bound, and the triangles of the meshes whose bound the hull overlaps (R262). -/
def primWorld (m : SMap Byte) (base : Nat) (w : World) (c : CheckReq) (hulls : List (List Prism)) (mask : Nat) : SegHit :=
  let r0 := (List.range w.nprim).foldl (fun r k =>
    let bs := memBytes m (base + 32 * k) 32
    primTest c hulls mask (primPrism bs) (bytesNat bs 1 1) (bytesNat bs 2 1) (bytesNat bs 4 2) 1 r) { cycles := 0, hit := none }
  (List.range w.nmesh).foldl (fun r k =>
    let bs := memBytes m (base + 0x8000 + 16 * k) 16
    let tris := (List.range (bytesNat bs 4 2)).map (bytesNat bs 0 4 + ·)
    let r1 := { r with cycles := r.cycles + 1 }
    if !levelHits hulls 2 (boundOf (tris.flatMap (triVerts m base))) then r1
    else tris.foldl (fun r t =>
      primTest c hulls mask (boundOf (triVerts m base t)) (bytesNat bs 8 1) (bytesNat bs 9 1) (bytesNat bs 6 2) 4 r) r1) r0

/-! ### Segments and candidates (R271–R273) -/

/-- Outcome of a segment: not tested, or tested with its cycles and its hit. -/
inductive SegRes where
  | unchecked
  | tested (r : SegHit)
deriving DecidableEq, Repr

/-- The test of one segment (R271, R272). `w` is the world the request is bound to, if any. The root cube belongs to a tree. -/
def segTest (m : SMap Byte) (base : Nat) (w : Option World) (c : CheckReq) (w0 w1 : Waypoint) : SegRes :=
  match w with
  | none => .unchecked
  | some w =>
    let hulls := levelHulls c w0 w1
    let mask := segMask w c w0.t w1.t
    if w.t0 + 16 * w.binMs * 1000000 ≤ c.tref + w0.t * 10000000 then .unchecked
    else if w.prim then .tested (primWorld m base w c hulls mask)
    else if !(hulls.getD 2 []).all (fun h => insideBox h w.root) then .unchecked
    else .tested (traverse m base w c hulls mask w.nodes [{ idx := 0, d := 0, x := w.ox, y := w.oy, z := w.oz }] { cycles := 0, hit := none })

/-- Segments of a path in order, up to and with the first that hits. -/
def pathTrace (m : SMap Byte) (base : Nat) (w : Option World) (c : CheckReq) : List Waypoint → List SegRes
  | w0 :: w1 :: ws =>
    match segTest m base w c w0 w1 with
    | .tested r => if r.hit.isSome then [.tested r] else .tested r :: pathTrace m base w c (w1 :: ws)
    | .unchecked => .unchecked :: pathTrace m base w c (w1 :: ws)
  | _ => []

/-- Lane cycles of a segment. -/
def SegRes.cycles : SegRes → Nat
  | .unchecked => 0
  | .tested r => r.cycles

/-- Lane cycles of a trace. -/
def traceCycles (t : List SegRes) : Nat := t.foldl (fun n r => n + r.cycles) 0

/-- First segment of a trace that was not tested. -/
def firstUnchecked (t : List SegRes) : Option Nat := (List.range t.length).find? (fun i => t.getD i .unchecked = .unchecked)

/-- A candidate's result when the first `k` of its `n` segments have been tested (R273, R276). -/
def candOf (n : Nat) (t : List SegRes) (k cycles : Nat) : CandResult :=
  let seen := t.take k
  match seen.getLast? with
  | some (.tested { cycles := _, hit := some (lvl, cls) }) => { status := 2, wp := seen.length - 1, bucket := lvl, cls := cls, cycles := cycles }
  | _ =>
    match firstUnchecked seen with
    | some i => { status := 0, wp := i, bucket := 0, cls := 0, cycles := cycles }
    | none => if k < n then { status := 0, wp := k, bucket := 0, cls := 0, cycles := cycles }
      else { status := 1, wp := 0, bucket := 0, cls := 0, cycles := cycles }

/-- T never falls from one waypoint to the next (R269). -/
def timesRise : List Waypoint → Bool
  | w0 :: w1 :: ws => decide (w0.t ≤ w1.t) && timesRise (w1 :: ws)
  | _ => true

/-- A candidate's trace; one whose times fall is not tested at all (R269). -/
def candTrace (m : SMap Byte) (base : Nat) (w : Option World) (c : CheckReq) (ws : List Waypoint) : List SegRes :=
  if timesRise ws then pathTrace m base w c ws else List.replicate (ws.length - 1) .unchecked

/-! ### Lanes (R273) -/

/-- The lane that is free first; the lowest among equal ones. -/
def freeLane (l : List Nat) : Nat := (List.range l.length).foldl (fun b i => if l.getD i 0 < l.getD b 0 then i else b) 0

/-- Cycle at which each candidate starts when every lane takes the next one as it becomes free. -/
def laneStarts : List Nat → List Nat → List Nat
  | _, [] => []
  | lanes, c :: cs =>
    let i := freeLane lanes
    let b := lanes.getD i 0
    b :: laneStarts (lanes.set i (b + c)) cs

/-- STOP_FIRST (R273): the cycle at which some candidate is CLEAR and every lower one has its final status. -/
def stopFirstAt (res : List CandResult) (ends : List Nat) : Option Nat :=
  ((List.range res.length).filter (fun i => (res.getD i { status := 0, wp := 0, bucket := 0, cls := 0, cycles := 0 }).status = 1)).foldl
    (fun best i =>
      let t := (ends.take (i + 1)).foldl max 0
      match best with
      | none => some t
      | some b => some (min b t)) none

/-- Segments of a trace that are done within `c` cycles. -/
def segsWithin (c : Nat) : List SegRes → Nat
  | [] => 0
  | r :: rs => if r.cycles ≤ c then 1 + segsWithin (c - r.cycles) rs else 0

/-- Results of a whole check of candidates with `n` segments each on `lanes` lanes (R273). -/
def checkAll (n lanes : Nat) (stopFirst : Bool) (ts : List (List SegRes)) : List CandResult :=
  let full := ts.map (fun t => candOf n t n (traceCycles t))
  if !stopFirst then full
  else
    let cyc := ts.map traceCycles
    let st := laneStarts (List.replicate (max lanes 1) 0) cyc
    match stopFirstAt full (st.zipWith (· + ·) cyc) with
    | none => full
    | some e => (List.range ts.length).map (fun i =>
        let t := ts.getD i []
        let b := st.getD i 0
        if e < b then candOf n t 0 0
        else if b + traceCycles t ≤ e then candOf n t n (traceCycles t)
        else candOf n t (segsWithin (e - b) t) (e - b))

/-- Results of a check that stopped with so many segments of each candidate tested (R278). -/
def checkSome (n : Nat) (tested : List Nat) (ts : List (List SegRes)) : List CandResult :=
  (List.range ts.length).map (fun i =>
    let t := ts.getD i []
    let k := min n (tested.getD i 0)
    candOf n t k (traceCycles (t.take k)))

end Sys2Proof.Machine
end

