-- ==== Sys2Proof/Machine/IlkPlan.lean ====
section
/-! DEFINITION. The Timetabling stage (R277, R279) and the buffer-stop trajectory (R283), in Q16.16. Only square roots and divisions
truncate; the width of intermediate values is not limited (log entry 39). -/

namespace Sys2Proof.Machine

open Sys2Proof

/-- One in Q16.16. -/
def qone : Nat := 65536

/-- One plan sample (R277): its pose word, arc length, speed and signed acceleration. -/
structure PlanSample where
  pose : Nat
  s : Nat
  v : Nat
  a : Int
deriving DecidableEq, Repr

/-- A truncated quotient in Q16.16; the spec gives no quotient by zero (log entry 39). -/
def qdiv (a b : Nat) : Nat := if b = 0 then Config.openQuotient a else a * qone / b

/-- A truncated square root of a value with 32 fraction bits. -/
def qsqrt (x : Nat) : Nat := isqrt x

/-- A coordinate in mm as metres. -/
def metres (mm : Nat) : Int := ((mm * qone / 1000 : Nat) : Int)

/-- Distance of two waypoints (R279). -/
def wayDist (p q : Waypoint) : Nat :=
  let dx := metres q.x - metres p.x
  let dy := metres q.y - metres p.y
  let dz := metres q.z - metres p.z
  qsqrt (dx * dx + dy * dy + dz * dz).toNat

/-- Speeds and accelerations of a request (R267). -/
structure Limits where
  v0 : Nat
  vMax : Nat
  vEnd : Nat
  aLat : Nat
  aAcc : Nat
  aDec : Nat
  aEmerg : Nat
deriving DecidableEq, Repr

/-- Curvature of a path at waypoint `i` (step 1 of R279). -/
def curvature (ws : List Waypoint) (d : List Nat) (i : Nat) : Nat :=
  if i = 0 ∨ i + 1 = ws.length then 0
  else
    let h0 := (ws.map (·.h)).getD (i - 1) 0
    let h1 := (ws.map (·.h)).getD (i + 1) 0
    let rad := (wrapHead ((h1 : Int) - h0)).natAbs * 6908435304715 / 2 ^ 34
    if rad = 0 then 0 else qdiv rad (d.getD i 0 + d.getD (i + 1) 0)

/-- Speed limit at a waypoint from the curvature (step 1). -/
def curveLimit (l : Limits) (k : Nat) : Nat := if k = 0 then l.vMax else min l.vMax (qsqrt (qdiv l.aLat k * qone))

/-- The forward pass (step 2) over the speeds after the first; `d` starts with the distance to the next waypoint. -/
def forwardPass (acc prev : Nat) : List Nat → List Nat → List Nat
  | v :: vs, d :: ds =>
    let v' := min v (qsqrt (prev * prev + 2 * acc * d))
    v' :: forwardPass acc v' vs ds
  | vs, _ => vs

/-- The backward pass (step 3) over speeds and distances in reverse order. -/
def backwardPass (dec next : Nat) : List Nat → List Nat → List Nat
  | v :: vs, d :: ds =>
    let v' := min v (qsqrt (next * next + 2 * dec * d))
    v' :: backwardPass dec v' vs ds
  | vs, _ => vs

/-- One round of smoothing (step 4), from a copy. -/
def smooth (w : List Nat) : List Nat :=
  (List.range w.length).map (fun i =>
    if i = 0 ∨ i + 1 = w.length then w.getD i 0
    else min (w.getD i 0) ((w.getD (i - 1) 0 + 2 * w.getD i 0 + w.getD (i + 1) 0) / 4))

/-- Times along the path (step 5), `none` for INF. -/
def pathTimes : Option Nat → List Nat → List Nat → List (Option Nat)
  | t, v0 :: v1 :: vs, d :: ds =>
    let t' := if v0 + v1 = 0 then none else t.map (· + qdiv (2 * d) (v0 + v1))
    t' :: pathTimes t' (v1 :: vs) ds
  | _, _, _ => []

/-- Arc lengths from the first waypoint on. -/
def arcLengths (acc : Nat) : List Nat → List Nat
  | [] => [acc]
  | d :: ds => acc :: arcLengths (acc + d) ds

/-- A path after steps 1 to 5 of R279. -/
structure TimedPath where
  ws : List Waypoint
  d : List Nat
  s : List Nat
  v : List Nat
  t : List (Option Nat)
deriving DecidableEq, Repr

/-- Steps 1 to 5 of R279. `d` and the passes hold the distance to waypoint `i` at index `i`. -/
def timePath (l : Limits) (ws : List Waypoint) : TimedPath :=
  let n := ws.length
  let gaps := ws.zipWith wayDist (ws.drop 1)
  let d := 0 :: gaps
  let v1 := (List.range n).map (fun i => curveLimit l (curvature ws d i))
  let v2 := l.v0 :: forwardPass l.aAcc l.v0 (v1.drop 1) gaps
  let last := min (v2.getLastD 0) l.vEnd
  let v3 := (last :: backwardPass l.aDec last ((v2.dropLast.drop 1).reverse) gaps.reverse).reverse
  let v4 := if n ≤ 1 then v2 else l.v0 :: v3
  let v5 := smooth (smooth (smooth (smooth v4)))
  { ws := ws, d := d, s := arcLengths 0 gaps, v := v5, t := some 0 :: pathTimes (some 0) v5 gaps }

/-- A pose word from its fields. -/
def poseWord (x y z h t : Nat) : Nat := x % 2 ^ 16 + y % 2 ^ 16 * 2 ^ 16 + z % 2 ^ 12 * 2 ^ 32 + h % 2 ^ 10 * 2 ^ 44 + t % 2 ^ 10 * 2 ^ 54

/-- Fields of a pose between two waypoint words at a fraction `num / den` of the way: position, Z and heading run linearly (R279). -/
def poseBetween (p q : Nat) (num den t : Nat) : Nat :=
  let lin (a b : Nat) : Nat := ((a : Int) + Int.tdiv (((b : Int) - a) * num) den).toNat
  let f (w lo n : Nat) : Nat := w / 2 ^ lo % 2 ^ n
  let dh := wrapHead ((f q 44 10 : Nat) - (f p 44 10 : Nat))
  poseWord (lin (f p 0 16) (f q 0 16)) (lin (f p 16 16) (f q 16 16)) (lin (f p 32 12) (f q 32 12))
    (twos 10 ((f p 44 10 : Nat) + Int.tdiv (dh * num) den)) t

/-- sample(k, τ) of R279. -/
def sampleAt (p : TimedPath) (k : Nat) : PlanSample :=
  let tau := k * qone / 50
  let n := p.ws.length
  let seg := (List.range n).find? (fun i =>
    0 < i && (match p.t.getD (i - 1) none, p.t.getD i none with
      | some a, some b => decide (a ≤ tau) && decide (tau < b)
      | some a, none => decide (a ≤ tau)
      | none, _ => false))
  match seg with
  | none => { pose := poseBetween ((p.ws.map (·.raw)).getLastD 0) ((p.ws.map (·.raw)).getLastD 0) 0 1 (2 * k), s := p.s.getLastD 0,
              v := p.v.getLastD 0, a := 0 }
  | some i =>
    let v0 := p.v.getD (i - 1) 0
    let v1 := p.v.getD i 0
    let d := p.d.getD i 0
    let dt := tau - (p.t.getD (i - 1) none).getD 0
    let a : Int := if d = 0 then (Config.openQuotient (v0 + v1) : Int) else Int.tdiv ((v1 : Int) * v1 - (v0 : Int) * v0) (2 * d)
    let run : Int := ((v0 * dt : Nat) : Int) / qone + a * dt * dt / (2 * qone * qone)
    let num := if d = 0 then Config.openQuotient run.toNat else run.toNat
    { pose := poseBetween ((p.ws.map (·.raw)).getD (i - 1) 0) ((p.ws.map (·.raw)).getD i 0) num (if d = 0 then qone else d) (2 * k),
      s := p.s.getD (i - 1) 0 + run.toNat, v := ((v0 : Int) + a * dt / qone).toNat, a := a }

/-- Some step needs more deceleration than A_DEC (R279). -/
def overDecel (l : Limits) (p : TimedPath) : Bool :=
  (List.range p.ws.length).any (fun i =>
    0 < i && decide (p.v.getD i 0 * p.v.getD i 0 + 2 * l.aDec * p.d.getD i 0 < p.v.getD (i - 1) 0 * p.v.getD (i - 1) 0))

/-- The path ends within the 200 samples while the vehicle still moves: SHORT (R279). -/
def shortPath (p : TimedPath) : Bool :=
  decide (0 < p.v.getLastD 0) && (match p.t.getLastD none with
    | some t => decide (t ≤ 199 * qone / 50)
    | none => false)

/-- The 200 samples of a timed path. -/
def planSamples (p : TimedPath) : List PlanSample := (List.range 200).map (sampleAt p)

/-- Bytes of a sample (R277). -/
def PlanSample.bytes (p : PlanSample) : List Byte := natLE 8 p.pose ++ natLE 4 p.s ++ natLE 4 p.v ++ natLE 4 (twos 32 p.a) ++ natLE 4 0

/-- The sample that 24 bytes spell. -/
def PlanSample.of (bs : List Byte) : PlanSample :=
  { pose := bytesNat bs 0 8, s := bytesNat bs 8 4, v := bytesNat bs 12 4, a := sext 32 (bytesNat bs 16 4) }

/-! ### The buffer-stop (R283) -/

/-- Pose on the plan's path at an arc length, from sample `j` on; past the last sample straight along its heading. -/
def pathPose (plan : List PlanSample) (j s t : Nat) : Nat :=
  match ((List.range (plan.length - 1)).drop j).find? (fun i =>
      decide ((plan.map (·.s)).getD i 0 ≤ s) && decide (s < (plan.map (·.s)).getD (i + 1) 0)) with
  | some i =>
    let s0 := (plan.map (·.s)).getD i 0
    poseBetween ((plan.map (·.pose)).getD i 0) ((plan.map (·.pose)).getD (i + 1) 0) (s - s0) ((plan.map (·.s)).getD (i + 1) 0 - s0) t
  | none =>
    let w := (plan.map (·.pose)).getLastD 0
    let mm : Int := ((s - (plan.map (·.s)).getLastD 0) * 1000 / qone : Nat)
    let u := cosSin (2 * (w / 2 ^ 44 % 2 ^ 10 : Nat))
    poseWord (twos 16 ((w % 2 ^ 16 : Nat) + Int.tdiv (mm * u.1) (4 * fone))) (twos 16 ((w / 2 ^ 16 % 2 ^ 16 : Nat) + Int.tdiv (mm * u.2) (4 * fone)))
      (w / 2 ^ 32 % 2 ^ 12) (w / 2 ^ 44 % 2 ^ 10) t

/-- Sample `k` of the buffer-stop from plan sample `j`: deceleration at A_EMERG along the plan's path, then standstill. -/
def stopSample (l : Limits) (plan : List PlanSample) (j k : Nat) : PlanSample :=
  let p := plan.getD j { pose := 0, s := 0, v := 0, a := 0 }
  let tau := k * qone / 50
  let moving := l.aEmerg = 0 || decide (l.aEmerg * tau < p.v * qone)
  let dist := if moving then p.v * tau / qone - l.aEmerg * tau * tau / (2 * qone * qone) else p.v * p.v / (2 * l.aEmerg)
  { pose := pathPose plan j (p.s + dist) (2 * k), s := dist,
    v := if moving then p.v - l.aEmerg * tau / qone else 0, a := if moving then -(l.aEmerg : Int) else 0 }

/-- The buffer-stop's 200 samples from plan sample `j`. -/
def stopSamples (l : Limits) (plan : List PlanSample) (j : Nat) : List PlanSample := (List.range 200).map (stopSample l plan j)

end Sys2Proof.Machine
end

