-- ==== Sys2Proof/Machine/RegWrite.lean ====
section
/-! DEFINITION. What every register write goes through (R11–R13, R26, R396, R459): who may write, and the fields that a
write replaces or clears. -/

namespace Sys2Proof.Machine

open Sys2Proof

/-- Page that records a writer's refused access (R26). -/
def writerPage : Writer → Nat
  | .stationmaster h => pgHub (match h with
    | .a => 0
    | .b => 1)
  | .host p => pgPlat p
  | .proxy p => pgPlat p
  | .monitor => pgMon

/-- A block accepts writes of a register from a writer (R459); the monitor has the Stationmaster's permissions (R475). Nobody writes an island's page, and SEC accepts SEC_CMD
alone: "host direct" takes in the Stationmaster and the monitor, and the header follows its page's row (R462). -/
def writerMay (who : Writer) (b : Blk) (off : Nat) : Bool :=
  if b = .sec then hostReg b off
  else match who with
    | .stationmaster _ => b ≠ .isl
    | .monitor => b ≠ .isl
    | _ => hostReg b off

/-- RWL fields are writable in Manufacturing, Vendor-test and Provisioned (R396). -/
def State.rwlOpen (s : State) : Bool := s.sec.life ≤ 2

/-- A value is an encoding that a field's description lists (R13). -/
def Legal.ok (l : Legal) (v : Nat) : Bool :=
  match l with
  | .any => true
  | .range lo hi => lo ≤ v && v ≤ hi
  | .oneOf l => l.contains v

/-- A field's value in a written word. -/
def Fld.of (f : Fld) (w : Word) : Nat := bitsOf w f.hi f.lo

/-- A written field's encoding is unlisted (R13). -/
def Fld.refuses (f : Fld) (rwl : Bool) (w : Word) : Bool :=
  match f.acc with
  | .rw => !f.legal.ok (f.of w)
  | .rwl => rwl && !f.legal.ok (f.of w)
  | _ => false

/-- A field after a write: replaced, cleared bit by bit, or kept (R11, R13). -/
def Fld.apply (f : Fld) (rwl : Bool) (w old : Word) : Word :=
  match f.acc with
  | .rw => if f.legal.ok (f.of w) then setBits old f.hi f.lo (f.of w) else old
  | .rwl => if rwl && f.legal.ok (f.of w) then setBits old f.hi f.lo (f.of w) else old
  | .w1c => setBits old f.hi f.lo (bitsOf (old &&& ~~~w) f.hi f.lo)
  | _ => old

namespace State

/-- A write replaces a register's writable fields; an unlisted encoding keeps its field and is recorded (R13). -/
def writeFields (s : State) (a : Nat) (w : Word) : State :=
  match s.regAt a with
  | none => s
  | some r =>
    let s1 := s.setReg a (r.fields.foldl (fun old f => f.apply s.rwlOpen w old) (s.reg a))
    if r.fields.any (fun f => f.refuses s.rwlOpen w) then s1.regAccess (a / 0x1000 * 0x1000) else s1

/-- A write to a register: an unmapped address is refused to its writer, a writer outside R459's column is recorded by the block,
and `f` is the write's effect. -/
def regWrite (s : State) (who : Writer) (a : Nat) (f : State → State) : State :=
  match s.block (a / 0x1000 * 0x1000) with
  | none => s.recordErr (writerPage who) 0x5101
  | some (b, i) =>
    match regDef b i (a % 0x1000) s.fuses.size with
    | none => s.recordErr (writerPage who) 0x5101
    | some _ => if writerMay who b (a % 0x1000) then f s else s.regAccess (a / 0x1000 * 0x1000)

end State

end Sys2Proof.Machine
end

