-- ==== Sys2Proof/Machine/Interlock.lean ====
section
/-! DEFINITION. The Interlocking engine's commands (R263–R267, R274–R288): requests, loads, epochs, checks, attempts, the plan
watch and the buffer-stop. -/

namespace Sys2Proof.Machine

open Sys2Proof

/-! ### Request rows (R267) -/

/-- A field of a request row. -/
def IlkRun.n (r : IlkRun) (off len : Nat) : Nat := bytesNat r.row off len
def IlkRun.seq (r : IlkRun) : Nat := r.n 0 4
def IlkRun.kind (r : IlkRun) : Nat := r.n 4 1
def IlkRun.event (r : IlkRun) : Nat := r.n 5 1 % 16
def IlkRun.tenant (r : IlkRun) : Nat := r.n 6 2 % 4096
def IlkRun.nwp (r : IlkRun) : Nat := r.n 0xA 1
def IlkRun.ncand (r : IlkRun) : Nat := r.n 0xC 2
def IlkRun.recheck (r : IlkRun) : Nat := r.n 0x14 4
def IlkRun.cand (r : IlkRun) : Nat := r.n 0x18 8
def IlkRun.result (r : IlkRun) : Nat := r.n 0x20 8
def IlkRun.tref (r : IlkRun) : Nat := r.n 0x28 8
def IlkRun.deadline (r : IlkRun) : Nat := r.n 0x30 8
def IlkRun.stopFirst (r : IlkRun) : Bool := r.n 8 1 % 2 = 1
def IlkRun.candBytes (r : IlkRun) : Nat := r.ncand * (8 + 8 * r.nwp)

/-- Bytes of a load's image (R259, R262). -/
def IlkRun.imageBytes (r : IlkRun) : Nat := if r.n 0x11B 1 = 1 then 0x8400 + 24 * r.n 0x10C 4 else 8 * r.n 0x108 4

/-- Footprint box `i` of a row (R268). -/
def footBox (row : List Byte) (i : Nat) : FootBox :=
  let b := 0x58 + 16 * i
  { cx := sext 16 (bytesNat row b 2), cy := sext 16 (bytesNat row (b + 2) 2), cz := sext 16 (bytesNat row (b + 4) 2),
    hx := bytesNat row (b + 6) 2, hy := bytesNat row (b + 8) 2, hz := bytesNat row (b + 10) 2 }

/-- The check that a row asks for, for waypoint times from `tref` on. -/
def checkReqOf (row : List Byte) (tref : Nat) : CheckReq :=
  { boxes := (List.range (bytesNat row 9 1)).map (footBox row), margin := bytesNat row 0xE 2, tmargin := bytesNat row 0x10 2, tref := tref,
    confMin := bytesNat row 0xB 1, ignore := (row.drop 0x38).take 32 }

/-- Speed and acceleration limits of a row. -/
def limitsOf (row : List Byte) : Limits :=
  { v0 := bytesNat row 0xD8 4, vMax := bytesNat row 0xDC 4, vEnd := bytesNat row 0xE0 4, aLat := bytesNat row 0xE4 4,
    aAcc := bytesNat row 0xE8 4, aDec := bytesNat row 0xEC 4, aEmerg := bytesNat row 0xF0 4 }

/-- The geometry and sizes that a load request gives (R260–R262). -/
def worldOf (r : IlkRun) : World :=
  { prim := r.n 0x11B 1 = 1, nodes := r.n 0x108 4, nprim := r.n 0x108 4 % 2 ^ 11, nmesh := r.n 0x108 4 / 2 ^ 16 % 2 ^ 7, ntri := r.n 0x10C 4,
    leafMm := r.n 0x118 2, depth := r.n 0x11A 1, binMs := r.n 0x11C 2, t0 := r.n 0x110 8, ox := 4 * r.n 0x11E 2, oy := 4 * r.n 0x120 2,
    oz := 16 * r.n 0x122 2 }

/-- Reserved fields that every kind of request holds at 0. -/
def IlkRun.reservedBad (r : IlkRun) : Bool :=
  r.n 5 1 / 16 ≠ 0 || r.n 6 2 / 4096 ≠ 0 || r.n 0x12 2 ≠ 0 || r.n 0xF4 12 ≠ 0 || r.n 0x124 220 ≠ 0

/-- RESULT is a usable address. -/
def IlkRun.resultBad (r : IlkRun) : Bool := decide (2 ^ 40 ≤ r.result) || r.result % 64 ≠ 0

/-- A field of a PLAN or CHECK request fails its check (R267). -/
def IlkRun.checkBad (r : IlkRun) : Bool :=
  r.reservedBad || r.resultBad || decide (1 < r.n 8 1) || r.n 9 1 = 0 || decide (8 < r.n 9 1) || decide (r.nwp < 2) || decide (128 < r.nwp)
    || r.ncand = 0 || decide (8192 < r.ncand) || decide (2000 < r.n 0xE 2) || decide (1000 < r.n 0x10 2) || decide (r.recheck < 199)
    || decide (2 ^ 24 < r.recheck) || decide (2 ^ 40 ≤ r.cand) || r.cand % 8 ≠ 0
    || (List.range (r.n 9 1)).any (fun i => r.n (0x58 + 16 * i + 12) 4 ≠ 0)

/-- A field of a LOAD request fails its check (R267); the sizes of a tree are judged by its load (R261). -/
def IlkRun.loadBad (r : IlkRun) : Bool :=
  r.reservedBad || r.resultBad || decide (2 ^ 40 ≤ r.n 0x100 8) || r.n 0x100 8 % 8 ≠ 0 || decide (1 < r.n 0x11B 1)
    || (r.n 0x11B 1 = 1 && (r.n 0x108 4 / 2 ^ 11 % 2 ^ 5 ≠ 0 || decide (2 ^ 23 ≤ r.n 0x108 4) || decide (1024 < r.n 0x108 4 % 2 ^ 11)
        || decide (64 < r.n 0x108 4 / 2 ^ 16) || decide (262144 < r.n 0x10C 4)))

/-! ### Plan area (R258, R274, R277) -/

/-- The current plan and the buffer-stop in the store. -/
def planArea : Nat := ilkBase + 0x1008000
def stopArea : Nat := planArea + 0x2000

namespace State

/-- Changes the engine. -/
def updIlk (s : State) (f : Ilk → Ilk) : State := { s with ilk := f s.ilk }

/-- The 200 samples that a plan area holds. -/
def areaSamples (s : State) (area : Nat) : List PlanSample :=
  (List.range 200).map (fun k => PlanSample.of (s.bytes (area + 0x40 + 24 * k) 24))
/-- PLAN_REF of a plan area. -/
def areaRef (s : State) (area : Nat) : Nat := s.nat (area + 0x30) 8

/-- A lane pair that the monitor tests is out once the request that ran at its command has ended (R478). -/
def laneTested (s : State) : Bool :=
  match s.mon.testing with
  | some (.lane j) => !s.ilk.lanesOut.contains j && (match s.ilk.running with
    | some r => decide (s.mon.testAt ≤ r.start)
    | none => true)
  | _ => false

/-- Lanes in service, L of R278: pairs in drive service, single lanes in depot service. -/
def lanes (s : State) : Nat := (16 - s.ilk.lanesOut.length - b2n s.laneTested) * (if s.ilk.coupled then 1 else 2)

/-- The attempt time of a request in ns, `none` while no lane is in service (R278). -/
def attemptTime (s : State) (r : IlkRun) : Option Nat :=
  if s.lanes = 0 then none else some (2 * (16384 + (r.recheck + s.lanes - 1) / s.lanes))

/-- A further attempt, or a check, still ends by DEADLINE (R278). -/
def inTime (s : State) (r : IlkRun) : Bool :=
  match s.attemptTime r with
  | none => false
  | some a => decide (s.now + a ≤ r.deadline)

/-- ILK_EPOCH: the current epoch, 0 where there is none (R263). -/
def ilkEpoch (s : State) : Nat := if s.ilk.current then s.ilk.epochCount else 0
/-- The other world buffer. -/
def inactive (s : State) : Nat := 1 - s.ilk.active
/-- The world that a request is bound to. -/
def boundWorld (s : State) (epoch buf : Nat) : Option World := if epoch = 0 then none else smFind s.ilk.worlds buf

/-- The engine is not stopped by a recovery (R318), nor in depot service by kc = 0 (R445). -/
def ilkRuns (s : State) : Bool := s.live && s.safety.phase = .none && !(s.service = 2 && s.power.kc = 0)

/-- The Timetabling comparator is out: faulty, under its self-test, or still under test after a first failed injection (R316). -/
def timetablingOut (s : State) : Bool := s.ilk.timetablingFault || s.safety.injFailed.contains .timetabling

/-- In drive service the engine reports to both islands (R284). No error code is given for it: the code is free. -/
def ilkReport (s : State) : State :=
  if s.service = 1 then let x := s.fresh; x.2.islandAct evPlan (x.1 % 65536) else s

/-- The plan becomes FAILED, and the change is reported (R263, R284). -/
def failPlan (s : State) : State :=
  if s.ilk.planStatus = .none ∨ s.ilk.planStatus = .failed then s
  else (s.updIlk (fun i => { i with planStatus := .failed })).ilkReport

/-- What an uncorrectable word of an area does (R258, R263, R317): a world buffer that holds the current epoch loses it and the plan fails; any other area
is rewritten by the engine; the recovery runs. -/
def ilkLost (s : State) (area : Nat) : State :=
  let s1 := if s.ilk.current && s.ilk.active = area then
      (s.updIlk (fun i => { i with current := false, watch := false })).failPlan
    else s
  s1.hwFault .none

/-- What reads of the store found; `true` where the engine goes on. An uncorrectable word is a level-4 fault of Hub B (R258). -/
def ilkEcc (s : State) (f : IlkFinding) : Bool × State :=
  match f.found with
  | .clean => (true, s)
  | .corrected => (true, (s.bump (pgIlk + 0x130)).countErr pgIlk 0x4304)
  | _ => (false, (s.recordErr pgIlk 0x4305).ilkLost f.area)

/-! ### Results (R274–R276) -/

/-- Number of results with a status. -/
def countStatus (l : List CandResult) (st : Nat) : Nat := (l.filter (fun c => c.status = st)).length

/-- The bytes of a candidate result. -/
def candBytesOf (c : CandResult) : List Byte :=
  natLE 8 (c.status + c.wp % 128 * 4 + c.bucket % 4 * 512 + c.cls % 256 * 65536 + c.cycles % 2 ^ 32 * 2 ^ 32)

/-- A summary after REQ_SEQ (R275). -/
def summaryRest (r : IlkRun) (epoch outcome flags chosen start done planRef : Nat) : List Byte :=
  natLE 4 epoch ++ natLE 1 outcome ++ natLE 1 flags ++ natLE 2 chosen ++ natLE 2 (countStatus r.results 1) ++ natLE 2 (countStatus r.results 2)
    ++ natLE 2 (countStatus r.results 0) ++ natLE 2 r.tried ++ natLE 4 0 ++ natLE 8 r.tests ++ natLE 8 start ++ natLE 8 done ++ natLE 8 planRef
    ++ natLE 8 0

/-- The result area lies in the tenant's pages, as far as the summary reaches. -/
def resultOk (s : State) (r : IlkRun) : Bool := !r.resultBad && s.inTenantPages r.result 64 r.tenant

/-- The engine writes bytes of a result: the lines are counted, and their flits travel from Hub B (R38, R472). -/
def ilkWrite (s : State) (a : Nat) (bs : List Byte) : State :=
  (s.devWrite a bs).countLines sourceIlk 3 ((List.range bs.length).map (fun i => s.devKey (a + i)))

/-- The engine has read bytes of DRAM. -/
def ilkRead (s : State) (a n : Nat) : State := s.countLines sourceIlk 2 ((List.range n).map (fun i => s.devKey (a + i)))

/-- Writes a summary, REQ_SEQ last, raises the event, and counts the request (R274). -/
def ilkSummary (s : State) (r : IlkRun) (epoch outcome flags chosen planRef : Nat) : State :=
  let s1 := if s.resultOk r then
      (s.ilkWrite (r.result + 4) (summaryRest r epoch outcome flags chosen r.start s.now planRef)).ilkWrite r.result (natLE 4 r.seq)
    else s
  let s2 : State := { s1 with signals := s1.signals ++ [(r.slot, r.event, r.tenant)] }
  s2.bump (pgIlk + 0x114)

/-- A result without a plan's reference time: the spec names none (log entry 40). -/
def ilkSummaryOpen (s : State) (r : IlkRun) (epoch outcome flags : Nat) : State :=
  let x := s.fresh
  x.2.ilkSummary r epoch outcome flags 0xFFFF (x.1 % 2 ^ 64)

/-- Writes the candidate results. -/
def writeCands (s : State) (r : IlkRun) : State := s.ilkWrite (r.result + 0x1400) (r.results.flatMap candBytesOf)

/-- Copies the samples of a plan area to a result (R284). -/
def copySamples (s : State) (r : IlkRun) (area : Nat) : State := s.ilkWrite (r.result + 0x40) (s.bytes (area + 0x40) 4800)

/-- A request is refused (R267). -/
def refuseIlk (s : State) (r : IlkRun) : State :=
  let r1 := { r with start := s.now, results := [], tried := 0, tests := 0 }
  (s.ilkSummaryOpen r1 (if r.kind = 3 then 0 else s.ilkEpoch) 8 0).bump (pgIlk + 0x12C)

/-- FLAGS that a request carries to its end: LATE, FAULT, NO_WORLD (R275). -/
def baseFlags (r : IlkRun) : Nat := b2n r.late + 16 * b2n r.fault + 32 * b2n (r.epoch = 0)

/-! ### Loads (R261–R265) -/

/-- A request is bound to a buffer. -/
def bufBound (s : State) (buf : Nat) : Bool :=
  match s.ilk.running with
  | some r => r.epoch ≠ 0 && r.buf = buf
  | none => false

/-- A load's fields and its source range hold (R267). -/
def loadOk (s : State) (r : IlkRun) : Bool :=
  !r.loadBad && s.inTenantPages r.result 64 r.tenant && (r.imageBytes = 0 || s.inTenantPages (r.n 0x100 8) r.imageBytes r.tenant)

/-- The writer's running waybill is the tenant's, and the tenant owns the engine (R267, R286). -/
def ilkTenantOk (s : State) (r : IlkRun) : Bool :=
  r.writer = some r.tenant && r.tenant = (if s.service = 2 then s.fld (pgIlk + 0x110) 11 0 else 0)

/-- A range outside the tenant's DRAM pages is refused the engine, as an unmapped access of it (R26, R267; log entry 125). -/
def ilkDenied (s : State) (inside : Bool) : State := if inside then s else s.recordErr pgIlk 0x5101

/-- A load starts once its fields hold; otherwise it is refused. -/
def startLoad (s : State) (r : IlkRun) : State :=
  if s.ilkTenantOk r && s.loadOk r then s.updIlk (fun i => { i with loading := some { r with start := s.now } })
  else (s.ilkDenied (!s.ilkTenantOk r || r.loadBad || s.loadOk r)).refuseIlk r

/-- The pending load starts when nothing is loading and no request is bound to the inactive buffer (R265). -/
def pendingStarts (s : State) : State :=
  match s.ilk.pendingLoad with
  | none => s
  | some r =>
    if s.ilk.loading.isSome || s.bufBound s.inactive then s
    else (s.updIlk (fun i => { i with pendingLoad := none })).startLoad r

/-- The running request is done: the engine is free for the next one. -/
def ilkDone (s : State) : State := (s.updIlk (fun i => { i with running := none })).pendingStarts

/-- A PLAN request ends without an adopted plan (R284). -/
def endNoPlan (s : State) (r : IlkRun) : State :=
  let s1 := s.writeCands r
  match s.ilk.planStatus with
  | .clear | .watching =>
    (((s1.copySamples r planArea).ilkSummary r r.epoch 2 (baseFlags r) 0xFFFF (s.areaRef planArea)).bump (pgIlk + 0x118)).ilkDone
  | .failed =>
    ((((s1.copySamples r stopArea).ilkSummary r r.epoch 3 (baseFlags r + 8 * b2n s.ilk.bsHit) 0xFFFF (s.areaRef stopArea)).bump (pgIlk + 0x11C)).ilkReport).ilkDone
  | .none => (((s1.ilkSummaryOpen r r.epoch 3 (baseFlags r + 64)).bump (pgIlk + 0x11C)).ilkReport).ilkDone

/-- The same, but the decision waits for a running plan watch (R284). -/
def fallBack (s : State) (r : IlkRun) : State :=
  let r1 := { r with todo := [], checked := true }
  if s.ilk.watch then s.updIlk (fun i => { i with running := some r1 }) else s.endNoPlan r1

/-- Starts the next attempt if it ends by DEADLINE (R278); with none the request ends under R284. -/
def nextAttempt (s : State) (r : IlkRun) : State :=
  if r.todo ≠ [] ∧ s.inTime r ∧ !s.timetablingOut then s.updIlk (fun i => { i with running := some { r with checked := true } })
  else s.fallBack r

/-- Waypoints of candidate `c` (R269). -/
def candWays (s : State) (r : IlkRun) (c : Nat) : List Waypoint :=
  (List.range r.nwp).map (fun k => Waypoint.of (s.devNat (r.cand + c * (8 + 8 * r.nwp) + 8 + 8 * k) 8))
/-- COST of candidate `c`. -/
def candCost (s : State) (r : IlkRun) (c : Nat) : Nat := s.devNat (r.cand + c * (8 + 8 * r.nwp)) 4

/-- Traces of all candidates of a request. -/
def candTraces (s : State) (r : IlkRun) : List (List SegRes) :=
  (List.range r.ncand).map (fun c =>
    candTrace s.mem (worldBase r.buf) (s.boundWorld r.epoch r.buf) (checkReqOf r.row r.tref) (s.candWays r c))

/-- Inserts a candidate by ascending COST, then index. -/
def insertCost (s : State) (r : IlkRun) (c : Nat) : List Nat → List Nat
  | [] => [c]
  | d :: ds => if s.candCost r c < s.candCost r d then c :: d :: ds else d :: s.insertCost r c ds

/-- The CLEAR candidates in the order of R278. -/
def clearByCost (s : State) (r : IlkRun) : List Nat :=
  ((List.range r.results.length).filter (fun i => (r.results.map (·.status)).getD i 0 = 1)).foldl (fun l c => s.insertCost r c l) []

/-- Node tests that a stage spent are counted (R472). -/
def countTests (s : State) (n : Nat) : State := if n = 0 then s else s.countEvent (pgHubCnt 1) 0x0E 0 n

/-- The check of a request ends with its results (R273, R278, R284). -/
def endCheck (s : State) (r : IlkRun) (res : List CandResult) : State :=
  let n := res.foldl (fun n c => n + c.cycles) 0
  let r1 := { r with results := res, checked := true, tests := n }
  let s := s.countTests n
  if r.kind = 2 then ((s.writeCands r1).ilkSummaryOpen r1 r1.epoch 4 (baseFlags r1)).ilkDone
  else
    let r2 := { r1 with todo := s.clearByCost r1 }
    s.nextAttempt r2

/-- A result for every candidate when nothing was checked. -/
def nothingChecked (r : IlkRun) : List CandResult := List.replicate r.ncand { status := 0, wp := 0, bucket := 0, cls := 0, cycles := 0 }

/-- What a request has decided: nothing of any candidate until its check has ended. -/
def resultsSoFar (r : IlkRun) : List CandResult := if r.results = [] then nothingChecked r else r.results

/-- The head of the queue that is no load. -/
def nextCheck (s : State) : Option IlkRun := s.ilk.queue.find? (fun r => r.kind ≠ 3)
/-- The oldest accepted load that has not come to the loader. -/
def nextLoad (s : State) : Option IlkRun := s.ilk.queue.find? (fun r => r.kind = 3)
/-- Takes an accepted request out of the queue. -/
def takeIlk (s : State) (r : IlkRun) : State := s.updIlk (fun i => { i with queue := i.queue.erase r })

/-- A request binds to the current epoch and starts (R264): a check that starts after its check stop is LATE and checks nothing (R284). -/
def bindIlk (s : State) (r : IlkRun) : State :=
  let r1 := { r with epoch := s.ilkEpoch, buf := s.ilk.active, start := s.now, checked := false, late := !s.inTime r, results := [], todo := [],
                     tried := 0, tests := 0 }
  if r1.late then s.endCheck r1 (nothingChecked r1) else s.updIlk (fun i => { i with running := some r1 })

/-- The ranges that a check request names lie in the tenant's pages (R267). -/
def checkRanges (s : State) (r : IlkRun) : Bool :=
  s.inTenantPages r.cand r.candBytes r.tenant && s.inTenantPages r.result (0x1400 + 8 * r.ncand) r.tenant

/-- Starts the next check request if it is of the command's kind (R266, R267). -/
def startCheck (s : State) (kind : Nat) (found : IlkFinding) : State :=
  match s.ilk.running, s.nextCheck with
  | none, some r =>
    if r.kind ≠ kind then s
    else
      let e := s.ilkEcc found
      if !e.1 then e.2
      else
        let s1 := e.2.takeIlk r
        if s.ilkTenantOk r && !r.checkBad && s.checkRanges r then s1.bindIlk r
        else (s1.ilkDenied (!s.ilkTenantOk r || r.checkBad || s.checkRanges r)).refuseIlk r
  | _, _ => s

/-- The request whose check runs. -/
def checking (s : State) : Option IlkRun := match s.ilk.running with
  | some r => if r.checked then none else some r
  | none => none

/-! ### Validation of worlds (R261, R262) -/

/-- A node of a tree in index order: `next` runs through the children, `deps` holds the depths of the nodes not yet reached. -/
def treeWalk (s : State) (src : Nat) (depth : Nat) : Nat → Nat → Nat → List (Nat × Nat) → Bool × Nat
  | 0, _, next, _ => (true, next)
  | fuel + 1, i, next, deps =>
    match deps with
    | [] => (false, next)
    | (d, need) :: ds =>
      let w := s.devNat (src + 8 * i) 8
      let tm := w % 65536
      let kids := maskList 8 (w / 2 ^ 48 % 256)
      if need ≠ 0 && (need / 65536 = 1) && (tm ||| need % 65536) ≠ need % 65536 then (false, next)
      else if w / 2 ^ 63 = 1 then
        if w / 2 ^ 32 % 2 ^ 31 ≠ 0 then (false, next) else s.treeWalk src depth fuel (i + 1) next ds
      else if w / 2 ^ 56 % 2 ^ 7 ≠ 0 ∨ w / 2 ^ 44 % 2 ^ 4 ≠ 0 ∨ w / 2 ^ 16 % 2 ^ 8 ≠ 0 ∨ kids = [] ∨ d = depth ∨ w / 2 ^ 24 % 2 ^ 20 ≠ next then (false, next)
      else s.treeWalk src depth fuel (i + 1) (next + kids.length) (ds ++ kids.map (fun _ => (d + 1, 65536 + tm)))

/-- A tree image is valid (R261). -/
def treeOk (s : State) (r : IlkRun) : Bool :=
  let w := worldOf r
  1 ≤ w.nodes && w.nodes ≤ 1048576 && 50 ≤ w.leafMm && w.leafMm ≤ 400 && 1 ≤ w.depth && w.depth ≤ 14 && 50 ≤ w.binMs && w.binMs ≤ 500
    && w.ox + w.side 0 ≤ 262144 && w.oy + w.side 0 ≤ 262144
    && (let t := s.treeWalk (r.n 0x100 8) w.depth w.nodes 0 1 [(0, 0)]
        t.1 && t.2 = w.nodes)

/-- A primitive image is valid (R262); its bins are those of R261. -/
def primOk (s : State) (r : IlkRun) : Bool :=
  let w := worldOf r
  let src := r.n 0x100 8
  50 ≤ w.binMs && w.binMs ≤ 500
    && (List.range w.nprim).all (fun k =>
        let b := s.devBytes (src + 32 * k) 32
        let ty := bytesNat b 0 1
        1 ≤ ty && ty ≤ 3 && bytesNat b 3 1 = 0 && bytesNat b 26 6 = 0 && (ty = 1 || bytesNat b 22 4 = 0) && (ty = 3 || bytesNat b 14 6 = 0)
          && (ty = 1 || bytesNat b 6 2 = 0))
    && (List.range w.nmesh).all (fun k =>
        let b := s.devBytes (src + 0x8000 + 16 * k) 16
        1 ≤ bytesNat b 4 2 && bytesNat b 4 2 ≤ 4096 && bytesNat b 0 4 + bytesNat b 4 2 ≤ w.ntri && bytesNat b 10 6 = 0)
    && (List.range w.ntri).all (fun k => s.devNat (src + 0x8400 + 24 * k + 18) 6 = 0)

/-- A plan watch starts (R282): every segment of the plan that ends after now is checked against the current epoch. -/
def startWatch (s : State) : State :=
  if s.ilk.planStatus = .none ∨ !s.ilk.current then s else s.updIlk (fun i => { i with watch := true, watchFrom := s.now })

/-- The epoch boundary (R263): the buffers exchange roles and the plan is watched anew. -/
def epochBoundary (s : State) (r : IlkRun) : State :=
  let b := s.inactive
  (s.updIlk (fun i => { i with epochCount := (i.epochCount + 1) % 2 ^ 32, current := true, active := b, worlds := smPut i.worlds b (worldOf r),
                               loading := none })).startWatch

/-- A load ends (R261, R263, R265). -/
def endLoad (s : State) (r : IlkRun) : State :=
  let ok := if (worldOf r).prim then s.primOk r else s.treeOk r
  let s1 := (s.ilkRead (r.n 0x100 8) r.imageBytes).write (worldBase s.inactive) (s.devBytes (r.n 0x100 8) (min r.imageBytes 0x800000))
  if ok then
    let s2 := s1.epochBoundary r
    (s2.ilkSummaryOpen r s2.ilkEpoch 5 0).pendingStarts
  else (((s1.updIlk (fun i => { i with loading := none })).ilkSummaryOpen r 0 6 0).bump (pgIlk + 0x120)).pendingStarts

/-! ### Attempts and the plan (R280–R284) -/

/-- Waypoints of samples. -/
def sampleWays (l : List PlanSample) : List Waypoint := l.map (fun p => Waypoint.of p.pose)

/-- The plan is adopted (R281): it is written to the plan area and to the result, and is watched. -/
def adopt (s : State) (r : IlkRun) (c : Nat) (p : TimedPath) : State :=
  let sm := (planSamples p).flatMap (·.bytes)
  let flags := baseFlags r + 2 * b2n (shortPath p) + 4 * b2n (overDecel (limitsOf r.row) p)
  let sum := natLE 4 r.seq ++ summaryRest r r.epoch 1 flags c r.start s.now r.tref
  let s1 := ((s.writeCands r).ilkWrite (r.result + 0x40) sm).write planArea (sum ++ sm)
  let s2 := s1.updIlk (fun i => { i with planStatus := if s.ilkEpoch = r.epoch then .clear else .watching, planRow := r.row })
  let s3 := s2.setReg (pgIlk + 0x10C) (BitVec.ofNat 32 r.epoch)
  (s3.startWatch.ilkSummary r r.epoch 1 flags c r.tref).ilkDone

/-- One attempt ends (R279, R280). -/
def endAttempt (s : State) (r : IlkRun) (c : Nat) (rest : List Nat) : State :=
  let p := timePath (limitsOf r.row) (s.candWays r c)
  let tr := pathTrace s.mem (worldBase r.buf) (s.boundWorld r.epoch r.buf) (checkReqOf r.row r.tref) (sampleWays (planSamples p))
  let res := candOf 199 tr 199 (traceCycles tr)
  let n := min r.recheck (traceCycles tr)
  let r1 := { r with todo := rest, tried := r.tried + 1, tests := r.tests + n }
  let s := s.countTests n
  if res.status = 1 ∧ traceCycles tr ≤ r.recheck then s.adopt r1 c p else s.nextAttempt r1

/-- Check of a plan area against the current epoch, with the plan's footprint and margins (R282): every segment that ends after a time. -/
def areaTrace (s : State) (area from_ : Nat) : List SegRes :=
  let ref := s.areaRef area
  let ws := (sampleWays (s.areaSamples area)).drop (((List.range 199).filter (fun k => decide (ref + 20000000 * (k + 1) ≤ from_))).length)
  pathTrace s.mem (worldBase s.ilk.active) (s.boundWorld s.ilkEpoch s.ilk.active) (checkReqOf s.ilk.planRow ref) ws

/-- A trace holds a hit. -/
def traceHits (t : List SegRes) : Bool := t.any (fun r => match r with
  | .tested h => h.hit.isSome
  | .unchecked => false)

/-- The buffer-stop has been checked (R282, R283): BS_HIT, and a hit is reported. -/
def checkStopArea (s : State) : State :=
  let h := traceHits (s.areaTrace stopArea 0)
  let s1 := s.updIlk (fun i => { i with bsHit := h })
  if h then s1.ilkReport else s1

/-- A NOPLAN request that waited for the boundary watch ends with it (R282). -/
def endWaiting (s : State) : State :=
  match s.ilk.running with
  | some r => if r.checked && r.kind = 1 && r.todo = [] then s.endNoPlan r else s
  | none => s

/-- A plan watch ends (R282). A segment that cannot be tested fails the plan. -/
def endWatch (s : State) : State :=
  let t := s.areaTrace planArea s.ilk.watchFrom
  let ok := !traceHits t && !t.any (fun r => r = .unchecked)
  let s1 := s.updIlk (fun i => { i with watch := false })
  let s2 := if ok then s1.updIlk (fun i => { i with planStatus := .clear }) else s1.failPlan
  (s2.setReg (pgIlk + 0x10C) (BitVec.ofNat 32 s.ilkEpoch)).checkStopArea.endWaiting

/-- A new buffer-stop replaces the previous one (R283): from the first plan sample at least 20 ms ahead. -/
def newStop (s : State) : State :=
  let plan := s.areaSamples planArea
  let ref := s.areaRef planArea
  let j := ((List.range 200).find? (fun k => decide (s.now + 20000000 ≤ ref + 20000000 * k))).getD 199
  let sm := (stopSamples (limitsOf s.ilk.planRow) plan j).flatMap (·.bytes)
  let s1 := s.write stopArea (List.replicate 48 0 ++ natLE 8 (ref + 20000000 * j) ++ List.replicate 8 0 ++ sm)
  s1.checkStopArea

/-! ### Services, ownership, faults (R285–R287) -/

/-- Requests that are accepted and not yet complete. -/
def ilkOutstanding (s : State) : List IlkRun :=
  s.ilk.queue ++ s.ilk.running.toList ++ s.ilk.loading.toList ++ s.ilk.pendingLoad.toList

/-- Every outstanding request ends LOST (R49, step 1): the running one with what it has decided so far (R275). -/
def loseIlk (s : State) : State :=
  let rs := s.ilkOutstanding
  let s1 := s.updIlk (fun i => { i with queue := [], running := none, loading := none, pendingLoad := none, watch := false })
  let run := match s.ilk.running with
    | some r => s1.ilkSummaryOpen { r with results := resultsSoFar r } r.epoch 9 (baseFlags r)
    | none => s1
  forEach (rs.filter (fun r => s.ilk.running ≠ some r)) run (fun s r => s.ilkSummaryOpen r 0 9 0)

/-- Service entry (R263, R285); drive service has no owner (R288). -/
def ilkEnter (s : State) (coupled : Bool) : State :=
  let s1 := if coupled then s.setFld (pgIlk + 0x110) 11 0 0 else s
  (s1.updIlk (fun i => { i with epochCount := 0, current := false, worlds := [], lastSeq := [], queue := [], running := none, loading := none,
                                pendingLoad := none, planStatus := .none, planRow := [], bsHit := false, watch := false, coupled := coupled })).setReg
    (pgIlk + 0x10C) 0

/-- The owner changes (R286): the store is scrubbed and the epoch counter restarts. -/
def changeOwner (s : State) (tenant : Nat) : State :=
  let s1 := (s.zero ilkBase ilkBytes).setFld (pgIlk + 0x110) 11 0 tenant
  s1.updIlk (fun i => { i with epochCount := 0, current := false, worlds := [], planStatus := .none, planRow := [], bsHit := false, watch := false })

/-- After a recovery the running request starts again from candidate 0, bound to the then-current epoch, unless its check stop has passed: then it completes
under R284 as it stands, bound as before. The load starts again from its first node (R287). -/
def restartIlk (s : State) : State :=
  match s.ilk.running with
  | none => s
  | some r =>
    let s1 := s.updIlk (fun i => { i with running := none })
    if s.inTime r then s1.bindIlk { r with fault := true }
    else
      let r1 := { r with fault := true, results := resultsSoFar r }
      if r.kind = 2 then ((s1.writeCands r1).ilkSummaryOpen r1 r1.epoch 4 (baseFlags r1)).ilkDone else s1.fallBack r1

end State

/-- ILK_REQUEST: a row has landed in a slot (R266). -/
def execIlkRequest (slot : Nat) (found : IlkFinding) (s0 : State) : Res :=
  whenLive s0 (fun s0 =>
    let e := s0.ilkEcc found
    let s := e.2
    if !e.1 then s else
    let row := s.bytes (ilkBase + 0x1000000 + 0x200 * slot) 512
    let seq := bytesNat row 0 4
    if seq = 0 ∨ seq = smGet s.ilk.lastSeq 0 slot then s
    else if s.ilkOutstanding.any (fun r => r.slot = slot) then s.bump (pgIlk + 0x128)
    else
      let T := s.tile slot
      let r : IlkRun := { slot := slot, row := row, writer := if T.wid.isSome then some (s.berthTenant slot (s.berth slot)) else none, epoch := 0,
                          buf := 2, start := 0, checked := false, late := false, fault := false, results := [], todo := [], tried := 0, tests := 0 }
      let s1 := s.updIlk (fun i => { i with lastSeq := smPut i.lastSeq slot seq })
      if 1 ≤ r.kind ∧ r.kind ≤ 3 then s1.updIlk (fun i => { i with queue := i.queue ++ [r] }) else s1.refuseIlk r)

/-- PLAN: the oldest accepted check request starts, where it is a PLAN (R264, R267, R278). -/
def execPlan (found : IlkFinding) (s : State) : Res := .next (if s.ilkRuns then s.startCheck 1 found else s)

/-- CHECK: the same for a CHECK request (R273). -/
def execCheck (found : IlkFinding) (s : State) : Res := .next (if s.ilkRuns then s.startCheck 2 found else s)

/-- ILK_LOAD: the oldest accepted load starts, or becomes pending and supersedes an older pending one (R265). -/
def execIlkLoad (s : State) : Res :=
  .next (if !s.ilkRuns then s else
    match s.nextLoad with
    | none => s
    | some r =>
      let s1 := s.takeIlk r
      match s1.ilk.pendingLoad with
      | some old =>
        ((s1.updIlk (fun i => { i with pendingLoad := some r })).ilkSummaryOpen { old with start := s.now } 0 7 0).bump (pgIlk + 0x124)
      | none =>
        if s1.ilk.loading.isSome || s1.bufBound s1.inactive then s1.updIlk (fun i => { i with pendingLoad := some r }) else s1.startLoad r)

/-- LOAD_COMPLETE (R263, R265). -/
def execLoadComplete (found : IlkFinding) (lines : List LineFinding) (s : State) : Res :=
  .next (if !s.ilkRuns then s else
    match s.ilk.loading with
    | none => s
    | some r =>
      let src := r.n 0x100 8
      if s.devHeld src r.imageBytes then s
      else
        let e := s.ilkEcc found
        let s1 := forEach (lines.filter (fun f => (List.range r.imageBytes).any (fun i => e.2.devKey (src + i) / 64 = f.line))) e.2 State.lineRead
        if !e.1 then e.2 else if s1.devMarked src r.imageBytes then s1.devPoison src r.imageBytes else s1.endLoad r)

/-- CHECK_COMPLETE: every candidate has its final status, or STOP_FIRST ends the check (R273), before the check stop. -/
def execCheckComplete (found : IlkFinding) (s : State) : Res :=
  .next (if !s.ilkRuns then s else
    match s.checking with
    | none => s
    | some r =>
      let e := s.ilkEcc found
      if !e.1 || !s.inTime r || e.2.devHeld r.cand r.candBytes then e.2
      else if e.2.devMarked r.cand r.candBytes then e.2.devPoison r.cand r.candBytes else (e.2.ilkRead r.cand r.candBytes).endCheck r (checkAll (r.nwp - 1) s.lanes r.stopFirst (s.candTraces r)))

/-- CHECK_STOP: the check ends at the check stop with the given segments of each candidate tested (R278). -/
def execCheckStop (tested : List Nat) (found : IlkFinding) (s : State) : Res :=
  .next (if !s.ilkRuns then s else
    match s.checking with
    | none => s
    | some r =>
      let e := s.ilkEcc found
      let due := match s.attemptTime r with
        | none => true
        | some a => decide (r.deadline ≤ s.now + a)
      if !e.1 || !due then e.2 else (e.2.ilkRead r.cand r.candBytes).endCheck r (checkSome (r.nwp - 1) tested (s.candTraces r)))

/-- TIMETABLING_ATTEMPT: the running attempt's timing and re-check end (R279–R281). -/
def execTimetablingAttempt (found : IlkFinding) (s : State) : Res :=
  .next (if !s.ilkRuns then s else
    match s.ilk.running with
    | none => s
    | some r =>
      match r.checked, r.todo with
      | true, c :: rest =>
        let e := s.ilkEcc found
        if e.1 then e.2.endAttempt r c rest else e.2
      | _, _ => s)

/-- PLAN_WATCH: the plan watch ends (R282). -/
def execPlanWatch (found : IlkFinding) (s : State) : Res :=
  .next (if !s.ilkRuns || !s.ilk.watch then s else
    let e := s.ilkEcc found
    if e.1 then e.2.endWatch else e.2)

/-- BUFFER_STOP_COMPUTED (R283). -/
def execBufferStopComputed (found : IlkFinding) (s : State) : Res :=
  .next (if !s.ilkRuns || s.ilk.planStatus = .none then s else
    let e := s.ilkEcc found
    if e.1 then e.2.newStop else e.2)

/-- A write of ILK_OWNER (R286): it is changed in depot service while no request is outstanding. -/
def State.writeIlkOwner (s : State) (w : Word) : State :=
  if s.service ≠ 2 ∨ s.ilkOutstanding ≠ [] ∨ bitsOf w 11 0 = s.fld (pgIlk + 0x110) 11 0 then s else s.changeOwner (bitsOf w 11 0)

/-- ILK_OWNER: the Stationmaster changes the owner (R286, R288). -/
def execIlkOwner (who : Writer) (w : Word) (s : State) : Res :=
  whenLive s (fun s => s.regWrite who (pgIlk + 0x110) (fun s => s.writeIlkOwner w))

end Sys2Proof.Machine
end

