-- ==== Sys2Proof/Machine/Issue.lean ====
section
/-! DEFINITION. The issue of a bundle: the checks of R109 in their order over its slots, the hazards that hold it (R82–R87),
the corrector's findings (R70, R71), and the walk of the bundle address. -/

namespace Sys2Proof.Machine

open Sys2Proof

/-- The four slots of a bundle (R80), in the order in which R109 takes them. -/
inductive SlotPos where
  | ctl
  | mov
  | mat
  | vec
deriving DecidableEq, Repr

/-- What a slot's instruction needs before its bundle issues. `op`, `field`, `depth`, `bounds`, `mode` and `span` are its errors of R109; `noVec` asks for a
NOP in the VEC slot (R119); `sync` marks a synchronous store access (R75); `hold` a condition that holds the bundle. -/
structure SlotPlan where
  op : Bool
  field : Bool
  depth : Bool
  bounds : Bool
  mode : Bool
  span : Bool
  noVec : Bool
  sync : Bool
  ranges : List RowRange
  hold : Bool
deriving DecidableEq, Repr

/-- A slot that asks for nothing. -/
def SlotPlan.free : SlotPlan :=
  { op := false, field := false, depth := false, bounds := false, mode := false, span := false, noVec := false, sync := false, ranges := [], hold := false }

/-- A slot of a bundle: its position, what it needs, and its effect on a tile. The effect of a CTL slot walks the bundle address. -/
structure Slot where
  pos : SlotPos
  plan : State → Nat → SlotPlan
  eff : State → Nat → State

/-- A slot from its parts. -/
def mkSlot (pos : SlotPos) (plan : State → Nat → SlotPlan) (eff : State → Nat → State) : Slot := { pos := pos, plan := plan, eff := eff }

/-- A store range of `n` rows from `r` on. -/
def rdRows (r n : Nat) : RowRange := { acc := false, write := false, first := r, last := r + n - 1 }
def wrRows (r n : Nat) : RowRange := { acc := false, write := true, first := r, last := r + n - 1 }
/-- An accumulator range of `n` rows from `r` on. -/
def rdAcc (r n : Nat) : RowRange := { acc := true, write := false, first := r, last := r + n - 1 }
def wrAcc (r n : Nat) : RowRange := { acc := true, write := true, first := r, last := r + n - 1 }

/-- Two ranges of one space share a row. -/
def rangesOverlap (a b : RowRange) : Bool := a.acc = b.acc && a.first ≤ b.last && b.first ≤ a.last
/-- Two overlapping ranges conflict when one of them writes (R84, R86). -/
def rangesConflict (a b : RowRange) : Bool := rangesOverlap a b && (a.write || b.write)

namespace State

/-- Rows of a slot's store ranges, absolute. -/
def planRows (s : State) (t : Nat) (p : SlotPlan) : List Nat :=
  (p.ranges.filter (fun r => !r.acc)).flatMap (fun r => (List.range (r.last + 1 - r.first)).map (fun i => s.absRow t (r.first + i)))

/-- The first segment not ready among the rows that a synchronous slot declares, also where it would leave such a row alone (R75; DESIGN CHOICE, log entry 141). -/
def planSegOff (s : State) (t : Nat) (p : SlotPlan) : Option Nat :=
  if p.sync then ((s.planRows t p).find? (fun r => !s.segReady t (r / 160))).map (· / 160) else none

/-- The error of rank `k` that a slot meets, in the order of R109; `vec`: the bundle's VEC slot is no NOP. -/
def planError (s : State) (t : Nat) (vec : Bool) (p : SlotPlan) (k : Nat) : Option (Nat × Nat) :=
  match k with
  | 0 => if p.op then some (eIllegalOp, noUnit) else none
  | 1 => if p.field || (p.noVec && vec) then some (eIllegalField, noUnit) else none
  | 2 => if p.depth then some (eLoopDepth, noUnit) else none
  | 3 => if p.bounds || p.ranges.any (fun r => !r.acc && s.shareRows t (s.berth t) ≤ r.last) then some (eBerthBounds, noUnit) else none
  | 4 => if p.ranges.any (fun r => r.acc && 256 ≤ r.last) then some (eAccBounds, noUnit) else none
  | 5 => if p.mode then some (eModeMismatch, noUnit) else none
  | 6 => if p.span then some (eConvSpan, noUnit) else none
  | 7 => (s.planSegOff t p).map (fun g => (eSegOff, g))
  | _ => none

/-- A write range of one slot overlaps a range of another (R84). -/
def bundleHazard : List SlotPlan → Bool
  | [] => false
  | p :: ps => p.ranges.any (fun r => ps.any (fun q => q.ranges.any (rangesConflict r))) || bundleHazard ps

/-- The first error of a bundle: by rank, and within a rank in slot order (R109). -/
def bundleError (s : State) (t : Nat) (vec : Bool) (ps : List SlotPlan) : Option (Nat × Nat) :=
  match (List.range 8).findSome? (fun k => ps.findSome? (fun p => s.planError t vec p k)) with
  | some e => some e
  | none => if bundleHazard ps then some (eBundleHazard, noUnit) else none

/-- Ranges that the queued moves of a tile hold (R77, R87). -/
def heldRanges (s : State) (t : Nat) : List RowRange := (s.tile t).moves.flatMap (·.ranges)

/-- The running tile cycle of a tile is gated (R89): position `p` of the 20-cycle window of station time, by the allowance in force at the window's start. The
follower of a pair is 2 cycles behind. -/
def gated (s : State) (t : Nat) : Bool :=
  let n := if s.follows t then s.now - 4 else s.now
  let k := if (s.tile t).kWas.2 = n / 40 then (s.tile t).kWas.1 else s.fld (pgTile t + 0x108) 4 0
  let p := n / 2 % 20
  (p + 1) * k / 20 = p * k / 20

/-- Store rows that ranges declare as read, absolute. -/
def readRows (s : State) (t : Nat) (rs : List RowRange) : List Nat :=
  (rs.filter (fun r => !r.acc && !r.write)).flatMap (fun r => (List.range (r.last + 1 - r.first)).map (fun i => s.absRow t (r.first + i)))

/-- The bundle is held: a gated cycle, a condition of a slot, a hazard with a move in flight, or no room in the range table for all its ranges
(R82, R86, R87). -/
def bundleHeld (s : State) (t : Nat) (ps : List SlotPlan) : Bool :=
  s.gated t || ps.any (·.hold) || ps.any (fun p => p.ranges.any (fun r => (s.heldRanges t).any (rangesConflict r)))
    || decide (24 < (s.heldRanges t).length + (ps.flatMap (·.ranges)).length)

/-! ### Poison (R71) -/

/-- Marks of accumulator row `r`, vector register `v`, the two weight buffers and function table `n` in a tile's poison list; a store row is its own mark. -/
def markAcc (r : Nat) : Nat := 2000 + r
def markVreg (v : Nat) : Nat := 3000 + v
def markWeights (b : Bool) : Nat := 4000 + b2n b
def markTab (n : Nat) : Nat := 4010 + n

/-- Each written mark of `deps` with the marks that its data came from: what was written from poisoned data carries the mark, and what was written from
clean data loses it (R71). -/
def movePoison (s : State) (t : Nat) (deps : List (Nat × List Nat)) : State :=
  s.updTile t (fun T =>
    if T.poison = [] then T
    else { T with poison := (deps.filter (fun d => d.2.any T.poison.contains)).map (·.1)
      ++ T.poison.filter (fun w => !(deps.map (·.1)).contains w) })

/-! ### The corrector -/

/-- A row that needs correction again and again is recorded, and a cold start repairs it (R73). -/
def recordWeak (s : State) (t row : Nat) : State :=
  let k := s.unitKey t
  let l := smGet s.flash.weakRows [] k
  if l.contains row then s
  else ({ s with flash := { s.flash with weakRows := smPut s.flash.weakRows k (row :: l) } } : State).recordErr (pgTile t) eStoreRowWeak (row / 160)

/-- A corrected store word: counted, queued for the scrubber, and a row that needs correction 16 times within a second is
recorded (R70, R72, R73). -/
def storeCorrected (s : State) (t row : Nat) : State :=
  let T := s.tile t
  let l := (row, s.now) :: T.corrected.filter (fun e => s.now < e.2 + 1000000000)
  let q := if T.scrubQueue.contains row || 8 ≤ T.scrubQueue.length then T.scrubQueue else T.scrubQueue ++ [row]
  let s1 := ((s.setTile t { T with scrubQueue := q, corrected := l }).bump (pgTile t + 0x110)).countErr (pgTile t) eStoreCe
  let s2 := s1.countEvent (pgTileCnt t) 0x11
  if 16 ≤ (l.filter (fun e => e.1 = row)).length then s2.recordWeak t row else s2

/-- An uncorrectable store word: the row is marked, and this is a level-1 hardware fault of the tile (R71). -/
def storeUncorrectable (s : State) (t row : Nat) : State :=
  let s1 := s.updTile t (fun T => { T with poison := if T.poison.contains row then T.poison else row :: T.poison })
  (s1.recordErr (pgTile t) eStoreUe (row / 160)).hwFault (tileSuspect t)

/-- Marks the rows that a slot's reads find uncorrectable, before the slot's data moves. -/
def markEcc (s : State) (t : Nat) (l : List (Nat × Bool)) : State :=
  forEach l s (fun s e => if e.2 then s.updTile t (fun T => { T with poison := if T.poison.contains e.1 then T.poison else e.1 :: T.poison }) else s)

/-- The corrector's findings of reads take their effect. -/
def applyEcc (s : State) (t : Nat) (l : List (Nat × Bool)) : State :=
  forEach l s (fun s e => if e.1 < 1280 then (if e.2 then s.storeUncorrectable t e.1 else s.storeCorrected t e.1) else s)

/-! ### The bundle address -/

/-- The next bundle is fetched; outside the instruction share it is a program error (R92). -/
def fetchAt (s : State) (t : Nat) (pc : Int) : State :=
  if 0 ≤ pc ∧ pc.toNat < s.ibufSize t (s.berth t) then s.updTile t (fun T => { T with pc := pc.toNat })
  else s.programError t eBerthBounds

/-- A bundle without a CTL instruction has issued: the sequencer goes on to the next one (R80). -/
def advance (s : State) (t : Nat) : State := s.fetchAt t ((s.tile t).pc + 1)

/-- The slots of a bundle but the CTL slot in the order in which they act: a SWAPW exchanges the buffers before an LDW of its bundle, which takes the buffer that is
then inactive (R63; log entry 139). The other slots meet in nothing that a bundle without hazard lets them share. -/
def effectOrder (slots : List Slot) : List Slot := slots.filter (·.pos = .mat) ++ slots.filter (fun x => x.pos = .mov || x.pos = .vec)

/-- An issued bundle on one tile: every slot reads its registers as they stand before the bundle (R108). -/
def runSlots (s : State) (slots : List Slot) (ecc : List (Nat × Bool)) (t : Nat) : State :=
  forEach (effectOrder slots) ((s.markEcc t ecc).updTile t (fun T => { T.snap with bundle := [] })) (fun s x => x.eff s t)

/-- The control effect of the CTL slot comes last (R108; DESIGN CHOICE, log entry 140: also where it is a SETS to ST beside a slot that sets a flag), and the findings of
the reads follow. -/
def runNext (s : State) (slots : List Slot) (ecc : List (Nat × Bool)) (t : Nat) : State :=
  let s1 := match slots.find? (·.pos = .ctl) with
    | some c => c.eff s t
    | none => s.advance t
  (s1.applyEcc t ecc).countEvent (pgTileCnt t) 3

/-- An issued bundle on a tile of its own. -/
def runBundle (s : State) (slots : List Slot) (ecc : List (Nat × Bool)) (t : Nat) : State := (s.runSlots slots ecc t).runNext slots ecc t

/-- An issued bundle on a coupled pair (R101): the follower does as its leader, and a bundle address that goes wrong ends the work on both. -/
def runPair (s : State) (slots : List Slot) (ecc eccF : List (Nat × Bool)) (t : Nat) : State :=
  let s1 := ((s.runSlots slots ecc t).runSlots slots eccF (t + 1)).runNext slots ecc t
  if (s1.tile (t + 1)).stopped then s1 else s1.runNext slots eccF (t + 1)

/-- Issues a bundle: in a gated cycle the sequencer stands still (R90); then errors first, then the conditions that hold it, then its effects. A bundle that
is held leaves the state `s0` as it was. -/
def issueSlots (s0 s : State) (i : Issue) (slots : List Slot) : State :=
  let t := i.tile
  let ps := slots.map (fun x => x.plan s t)
  if s.gated t then s0
  else match s.bundleError t (slots.any (·.pos = .vec)) ps with
  | some (code, unit) => (s.updTile t (fun T => { T with bundle := [] })).programError t code unit
  | none =>
    if s.bundleHeld t ps then s0
    else
      let rows := s.readRows t ((slots.filter (·.pos ≠ .mov)).flatMap (fun x => (x.plan s t).ranges))
      let own := fun (l : List (Nat × Bool)) => l.filter (fun e => rows.contains e.1)
      if (s.tile t).coupled then s.runPair slots (own i.ecc) (own i.eccF) t else s.runBundle slots (own i.ecc) t

end State

end Sys2Proof.Machine
end

