-- ==== Sys2Proof/Machine/Manifest.lean ====
section
/-! DEFINITION. The Manifest (R411): what it holds, and its signature under the attestation key. -/

namespace Sys2Proof.Machine

open Sys2Proof

/-- A byte string cut or padded with zeros to `n` bytes. -/
def fitBytes (n : Nat) (bs : List Byte) : List Byte := (bs ++ List.replicate (n - bs.length) 0).take n

namespace State

/-- Changes the security engines. -/
def updSec (s : State) (f : Security → Security) : State := { s with sec := f s.sec }
/-- A tenant's session. -/
def session (s : State) (t : Nat) : Option Session := smFind s.sec.sessions t
/-- The state with a session replaced. -/
def setSession (s : State) (t : Nat) (x : Session) : State := s.updSec (fun c => { c with sessions := smPut c.sessions t x })

/-! ### Manifests (R411) -/

/-- SEC_FUSE (R423). -/
def fuseWord (s : State) : Nat :=
  listMask s.fuses.ownerSet + 16 * listMask s.fuses.ownerRevoked + 256 * s.fuses.rollback + 65536 * b2n s.fuses.seed.isSome

/-- Live handles of a tenant and kind in ascending order. -/
def liveHandles (s : State) (t kind : Nat) : List Handle :=
  (s.sec.handles.filter (fun h => h.handle / 2 ^ 20 = t && h.handle / 2 ^ 18 % 4 = kind)).foldl (fun l h =>
    l.takeWhile (fun x => x.handle < h.handle) ++ [h] ++ l.dropWhile (fun x => x.handle < h.handle)) []

/-- SESSION_PUB of a Manifest. -/
def manifestPub (s : State) (t : Nat) : List Byte :=
  if t = 0 then (if s.service = 1 then [] else s.sec.devicePub) else ((s.session t).map (·.pubKey)).getD []

/-- A handle's entry of a Manifest. -/
def Handle.entry (h : Handle) : List Byte := natLE 4 h.handle ++ natLE 4 0 ++ fitBytes 64 h.digest

/-- The signed bytes of the `n`-th Manifest of this boot, over a tenant and a nonce. -/
def manifestBody (s : State) (t n : Nat) (nonce : List Byte) : List Byte :=
  let ps := s.liveHandles t 0
  let ws := s.liveHandles t 1
  let dig := fun k => fitBytes 64 (s.sec.components.getD k [])
  natLE 4 0x5453464D ++ natLE 2 1 ++ natLE 2 0 ++ natLE 4 (852 + 72 * (ps.length + ws.length)) ++ natLE 4 0 ++ fitBytes 16 s.fuses.serial
    ++ natLE 1 s.sec.life ++ natLE 1 s.service
    ++ natLE 1 (b2n (s.allTiles.any (fun t => (s.tile t).coupled)) + 2 * b2n s.ilk.coupled + 4 * s.fld (pgService + 0x104) 10 10)
    ++ natLE 1 0 ++ natLE 4 s.fuseWord ++ natLE 8 0 ++ fitBytes 64 s.sec.firstStage ++ dig 0 ++ dig 1 ++ dig 2 ++ dig 3
    ++ fitBytes 64 s.sec.ttDigest ++ fitBytes 64 s.sec.tableDigest
    ++ natLE 2 t ++ natLE 2 ps.length ++ natLE 2 ws.length ++ natLE 2 0 ++ natLE 8 (s.sec.bootId * 2 ^ 32 + n % 2 ^ 32) ++ natLE 8 s.now
    ++ fitBytes 133 (s.manifestPub t) ++ natLE 3 0 ++ fitBytes 64 nonce ++ ps.flatMap Handle.entry ++ ws.flatMap Handle.entry

/-- Signs a Manifest with the attestation key. -/
def signManifest (s : State) (t : Nat) (nonce : List Byte) : List Byte × State :=
  let n := s.sec.manifests + 1
  let x := s.drbgBytes 66
  let body := s.manifestBody t n nonce
  (body ++ ecdsaSign s.sec.attestKey (ecKey x.1) body, x.2.updSec (fun c => { c with manifests := n }))

end State

end Sys2Proof.Machine
end

