-- ==== Sys2Proof/Machine/TileCtl.lean ====
section
/-! DEFINITION. The CTL slot (R117–R122). -/

namespace Sys2Proof.Machine

open Sys2Proof

/-- Bundle address of a signed bundle offset from the running bundle (R117). -/
def Tile.target (T : Tile) (off : BitVec 16) : Int := (T.pc : Int) + off.toInt

/-- LOOP's count (R118). -/
def loopCount (T : Tile) (creg : BitVec 6) (cimm : BitVec 20) : Nat := if creg.toNat = 63 then cimm.toNat else T.s creg.toNat

/-- What LOOP needs: CREG 0–31 or 63, CIMM 0 beside a register, and a free level when the count is not 0 (R109, R118). -/
def loopPlan (creg : BitVec 6) (cimm : BitVec 20) (s : State) (t : Nat) : SlotPlan :=
  let T := s.tile t
  { SlotPlan.free with
    field := (32 ≤ creg.toNat && creg.toNat ≠ 63) || (creg.toNat ≠ 63 && cimm.toNat ≠ 0)
    depth := loopCount T creg cimm ≠ 0 && 4 ≤ T.loops.length }

/-- LOOP opens a level whose body starts at the next bundle, or goes to SKIP when the count is 0 (R118). -/
def loopEff (creg : BitVec 6) (cimm : BitVec 20) (skip : BitVec 16) (s : State) (t : Nat) : State :=
  let T := s.tile t
  let n := loopCount T creg cimm
  if n = 0 then s.fetchAt t (T.target skip)
  else (s.setTile t { T with loops := { count := n, index := 0, body := T.pc + 1, roster := none } :: T.loops }).fetchAt t (T.pc + 1)

/-- LOOP (R118). -/
def slotLoop (creg : BitVec 6) (cimm : BitVec 20) (skip : BitVec 16) : Slot :=
  mkSlot .ctl (loopPlan creg cimm) (loopEff creg cimm skip)

/-- From table position `j`, token `t`, the next iteration that a ROSTER runs (R119): a sequence with tokens left. -/
def rosterNext (lens : List Nat) : Nat → Nat → Nat → Option (Nat × Nat)
  | 0, _, _ => none
  | fuel + 1, j, t =>
    if lens.length ≤ j then none
    else if t < lens.getD j 0 then some (j, t)
    else rosterNext lens fuel (j + 1) 0

/-- The registers s[SB] to s[SB+2] of an iteration (R119). -/
def Tile.rosterRegs (T : Tile) (w : RosterWalk) : Tile :=
  ((T.setS w.sb w.j).setS (w.sb + 1) w.t).setS (w.sb + 2) (min w.chunk (w.lens.getD w.j 0 - w.t))

/-- ENDLOOP of a level: back to the body, or closed (R118, R119). -/
def endloopEff (s : State) (t : Nat) : State :=
  let T := s.tile t
  match T.loops with
  | [] => s
  | l :: ls =>
    match l.roster with
    | none =>
      if l.index + 1 < l.count then
        (s.setTile t { T with loops := { l with index := l.index + 1 } :: ls }).fetchAt t l.body
      else (s.setTile t { T with loops := ls }).fetchAt t (T.pc + 1)
    | some w =>
      match rosterNext w.lens (w.lens.length + 1) w.j (w.t + w.chunk) with
      | some (j, tk) =>
        let w' := { w with j := j, t := tk }
        (s.setTile t ({ T with loops := { l with index := l.index + 1, roster := some w' } :: ls }.rosterRegs w')).fetchAt t l.body
      | none => (s.setTile t { T with loops := ls }).fetchAt t (T.pc + 1)

/-- ENDLOOP (R118): with no open level it is LOOP_DEPTH (R109). -/
def slotEndloop : Slot :=
  mkSlot .ctl (fun s t => { SlotPlan.free with depth := (s.tile t).loops.isEmpty }) endloopEff

/-- A branch: pops levels and continues at an offset (R118). -/
def branchTo (pop : BitVec 2) (off : BitVec 16) (s : State) (t : Nat) : State :=
  let T := s.tile t
  (s.setTile t { T with loops := T.loops.drop pop.toNat }).fetchAt t (T.target off)

/-- BR (R118). -/
def slotBr (pop : BitVec 2) (off : BitVec 16) : Slot :=
  mkSlot .ctl (fun s t => { SlotPlan.free with depth := decide ((s.tile t).loops.length < pop.toNat) }) (branchTo pop off)

/-- The test of BRC (R118): signed tests use bit 31, or bit 39 of an address register. -/
def brcTest (T : Tile) (reg : BitVec 6) (cond : BitVec 3) (bit : BitVec 6) : Bool :=
  let v := T.readCode reg.toNat
  let sign := bitAt v (if codeIsA reg.toNat then 39 else 31)
  match cond.toNat with
  | 0 => v = 0
  | 1 => v ≠ 0
  | 2 => sign
  | 3 => !sign
  | 4 => bitAt v bit.toNat
  | 5 => !(bitAt v bit.toNat)
  | _ => false

/-- What BRC needs (R110, R118). Levels are counted only for a branch that is taken (log entry 31). -/
def brcPlan (reg : BitVec 6) (cond : BitVec 3) (bit : BitVec 6) (pop : BitVec 2) (s : State) (t : Nat) : SlotPlan :=
  { SlotPlan.free with
    field := !codeReads reg.toNat || 6 ≤ cond.toNat || 39 < bit.toNat || (31 < bit.toNat && !codeIsA reg.toNat)
    depth := brcTest (s.tile t).snap reg cond bit && decide ((s.tile t).loops.length < pop.toNat) }

/-- BRC (R118). -/
def slotBrc (reg : BitVec 6) (cond : BitVec 3) (bit : BitVec 6) (pop : BitVec 2) (off : BitVec 16) : Slot :=
  mkSlot .ctl (brcPlan reg cond bit pop)
    (fun s t => if brcTest (s.tile t) reg cond bit then branchTo pop off s t else s.advance t)

/-- WAIT EVENT (R120): held until every named bit is set; the bits are cleared at issue. -/
def slotWaitEvent (imm : Word) : Slot :=
  mkSlot .ctl
    (fun s t => { SlotPlan.free with
      field := bitsOf imm 15 0 = 0
      hold := (s.tile t).events &&& BitVec.ofNat 16 (bitsOf imm 15 0) ≠ BitVec.ofNat 16 (bitsOf imm 15 0) })
    (fun s t => (s.updTile t (fun T => { T with events := T.events &&& ~~~(BitVec.ofNat 16 (bitsOf imm 15 0)) })).advance t)

/-- A dock belongs to the running berth (R120, R122). -/
def State.dockOwn (s : State) (t : Nat) (k : BitVec 4) : Bool := s.fld (State.dockReg t k.toNat 0) 10 8 = s.berth t

/-- WAIT DOCK (R120): held until the dock's arrival count reaches the operand. -/
def slotWaitDock (dock : BitVec 4) (rf : Bool) (sreg : BitVec 5) (imm : Word) : Slot :=
  mkSlot .ctl
    (fun s t => { SlotPlan.free with
      bounds := !s.dockOwn t dock
      hold := decide ((s.reg (State.dockReg t dock.toNat 8)).toNat < if rf then (s.tile t).s sreg.toNat else imm.toNat) })
    (fun s t => s.advance t)

/-- WAIT TIME (R120): held until station time reaches the value in an even register pair. -/
def slotWaitTime (sreg : BitVec 5) : Slot :=
  mkSlot .ctl
    (fun s t => { SlotPlan.free with
      field := sreg.toNat % 2 = 1
      hold := decide (s.now < (s.tile t).pair sreg.toNat) })
    (fun s t => s.advance t)

/-- WAIT TAGS (R120): held while a move with a named tag is queued or in flight. -/
def slotWaitTags (imm : Word) : Slot :=
  mkSlot .ctl
    (fun s t => { SlotPlan.free with hold := (s.tile t).moves.any (fun m => bitAt imm.toNat m.tag) })
    (fun s t => s.advance t)

/-- The event of a SIGNAL leaves for its tile; only the leader of a pair sends it (R121, R133). It arrives by EVENT_ARRIVAL. -/
def signalEff (rf : Bool) (sreg : BitVec 5) (tile : BitVec 6) (num : BitVec 4) (s : State) (t : Nat) : State :=
  let dst := if rf then (s.tile t).s sreg.toNat % 64 else tile.toNat
  let s1 := if s.follows t then s else { s with signals := s.signals ++ [(dst, num.toNat, s.berthTenant t (s.berth t))] }
  s1.advance t

/-- SIGNAL EVENT (R121). -/
def slotSignalEvent (rf : Bool) (sreg : BitVec 5) (tile : BitVec 6) (num : BitVec 4) : Slot :=
  mkSlot .ctl (fun _ _ => SlotPlan.free) (signalEff rf sreg tile num)

/-! ### Docks: the opening rule of R96 -/

/-- Rows of a dock, absolute: first and count. -/
def State.dockRows (s : State) (t k : Nat) : Nat × Nat :=
  (s.shareBase t (s.fld (State.dockReg t k 0) 10 8) + s.fld (State.dockReg t k 4) 10 0, s.fld (State.dockReg t k 4) 26 16)

/-- The conditions under which a dock opens (R96): CLOSED, rows inside its berth's share, segments ready, and no overlap with a
dock that is OPEN or CLOSING. A row count of 0 was never a listed value. -/
def State.dockOpenOk (s : State) (t k : Nat) : Bool :=
  let n := s.fld (State.dockReg t k 0) 10 8
  let base := s.fld (State.dockReg t k 4) 10 0
  let (first, rows) := s.dockRows t k
  s.fld (State.dockReg t k 0) 1 0 = 0 && 1 ≤ rows && base + rows ≤ s.shareRows t n
    && (List.range rows).all (fun i => s.segReady t ((first + i) / 160))
    && (List.range 16).all (fun j =>
      let o := s.dockRows t j
      j = k || s.fld (State.dockReg t j 0) 1 0 = 0 || o.1 + o.2 ≤ first || first + rows ≤ o.1)

/-- Opens a dock: OPEN, ARRIVED 0 (R96). -/
def State.openDock (s : State) (t k : Nat) : State := (s.setFld (State.dockReg t k 0) 1 0 1).setReg (State.dockReg t k 8) 0

/-- SIGNAL DOCK OPEN (R122): a refused open sets DOCK_OPFAIL and leaves the dock. -/
def slotSignalDockOpen (num : BitVec 4) : Slot :=
  mkSlot .ctl (fun s t => { SlotPlan.free with bounds := !s.dockOwn t num })
    (fun s t =>
      let s1 := if s.dockOpenOk t num.toNat then s.openDock t num.toNat
        else s.updTile t (fun T => { T with st := stPut T.st stDockOpfail true })
      s1.advance t)

/-- SIGNAL DOCK CLOSE (R122): a close of a dock that is not OPEN does nothing. -/
def slotSignalDockClose (num : BitVec 4) : Slot :=
  mkSlot .ctl (fun s t => { SlotPlan.free with bounds := !s.dockOwn t num })
    (fun s t => (s.closeDock t num.toNat).advance t)

/-- SETS writes an immediate (R116, R118). -/
def slotSets (dst : BitVec 6) (imm : Addr) : Slot :=
  mkSlot .ctl
    (fun _ _ => { SlotPlan.free with
      field := !(dst.toNat < 48 || dst.toNat = 52) || (dst.toNat < 32 && 2 ^ 32 ≤ imm.toNat) || (dst.toNat = 52 && 2 ^ 8 ≤ imm.toNat) })
    (fun s t => (s.updTile t (fun T =>
      if dst.toNat = 52 then { T with st := stSets T.st imm.toNat } else T.writeCode dst.toNat imm.toNat)).advance t)

/-- ADDS writes the sum of two registers and a signed immediate (R111, R118). -/
def slotAdds (dst : BitVec 6) (srca : BitVec 6) (srcb : BitVec 6) (imm : Word) : Slot :=
  mkSlot .ctl
    (fun _ _ => { SlotPlan.free with field := !(dst.toNat < 48) || !codeReads srca.toNat || !codeReads srcb.toNat })
    (fun s t => (s.updTile t (fun T =>
      T.writeCode dst.toNat (twos 40 ((T.readCode srca.toNat + T.readCode srcb.toNat : Nat) + imm.toInt)))).advance t)

/-- ROSTER opens a level over a length table (R119), or goes to SKIP when no sequence has a token. -/
def rosterEff (sb : BitVec 5) (table : RowOp) (n1 : BitVec 8) (chunk : BitVec 13) (skip : BitVec 16) (s : State) (t : Nat) : State :=
  let T := s.tile t
  let row := s.rowBytes t (s.absRow t (T.row table))
  let lens := (List.range (n1.toNat + 1)).map (fun j => leNat ((row.drop (2 * j)).take 2))
  match rosterNext lens (lens.length + 1) 0 0 with
  | none => s.fetchAt t (T.target skip)
  | some (j, tk) =>
    let w : RosterWalk := { sb := sb.toNat, chunk := chunk.toNat, lens := lens, j := j, t := tk }
    (s.setTile t ({ T with loops := { count := 0, index := 0, body := T.pc + 1, roster := some w } :: T.loops }.rosterRegs w)).fetchAt t (T.pc + 1)

/-- ROSTER (R118, R119): SB 0–29, CHUNK 1–8,191, a NOP in the VEC slot, a free loop level. -/
def slotRoster (sb : BitVec 5) (table : RowOp) (n1 : BitVec 8) (chunk : BitVec 13) (skip : BitVec 16) : Slot :=
  mkSlot .ctl
    (fun s t => { SlotPlan.free with
      field := 29 < sb.toNat || chunk.toNat = 0
      noVec := true
      depth := 4 ≤ (s.tile t).loops.length
      sync := true
      ranges := [rdRows ((s.tile t).row table) 1] })
    (rosterEff sb table n1 chunk skip)

/-- Cycles left of a tile's running budget, 0 to 0xFFFF_FFFF (R118, R240). -/
def State.budgetLeft (s : State) (t : Nat) : Nat := min 0xFFFFFFFF ((s.tile t).budget - s.cyclesCharged t)

/-- BUDGET (R118). -/
def slotBudget (sd : BitVec 5) (thresh : Word) : Slot :=
  mkSlot .ctl (fun _ _ => SlotPlan.free)
    (fun s t =>
      let left := s.budgetLeft t
      (s.updTile t (fun T => { T.setS sd.toNat left with st := stBudget T.st (left < thresh.toNat) })).advance t)

/-- FENCE (R118): MAT and VEC instructions have performed their writes when the next command comes; only moves can hold it. -/
def slotFence (mask : BitVec 3) : Slot :=
  mkSlot .ctl
    (fun s t => { SlotPlan.free with
      field := mask.toNat = 0
      hold := mask.toNat % 2 = 1 && !(s.tile t).moves.isEmpty })
    (fun s t => s.advance t)

/-- MARK (R118, R470): value, bundle address in the instruction buffer, berth and station time; one MARK event. -/
def slotMark (value : BitVec 16) : Slot :=
  mkSlot .ctl (fun _ _ => SlotPlan.free)
    (fun s t =>
      let p := pgTileCnt t
      let b := s.ibufBase t (s.berth t) + (s.tile t).pc
      let s1 := (s.setReg (p + 0x108) (BitVec.ofNat 32 value.toNat)).setReg (p + 0x10C) (BitVec.ofNat 32 (b % 2048 + s.berth t * 4096))
      let s2 := (s1.setReg (p + 0x110) (BitVec.ofNat 32 s.now)).setReg (p + 0x114) (BitVec.ofNat 32 (s.now / 2 ^ 32))
      (s2.countEvent p 0x13).advance t)

/-- END (R118): held until every move has completed; then the tile has ended with user code CODE. -/
def slotEndWaybill (code : BitVec 16) : Slot :=
  mkSlot .ctl (fun s t => { SlotPlan.free with hold := !(s.tile t).moves.isEmpty }) (fun s t => s.endTile t code.toNat)

end Sys2Proof.Machine
end

