-- ==== Sys2Proof/Machine/Window.lean ====
section
/-! DEFINITION. The window descriptor of CONV, DCONV and VPOOL (R137, R173–R187): its fields, its checks, the output
size and the vectors that the window generator forms. -/

namespace Sys2Proof.Machine

open Sys2Proof

/-- The fields of descriptor words 0–7 (R137, R176). Kernel, stride and dilation are held as values, not less one. -/
structure Window where
  first : Nat
  p : Nat
  span : Nat
  inH : Nat
  inW : Nat
  kh : Nat
  kw : Nat
  tapH : Nat
  tapW : Nat
  sh : Nat
  sw : Nat
  dh : Nat
  dw : Nat
  padT : Nat
  padB : Nat
  padL : Nat
  padR : Nat
  pb : Nat
  slab : Nat
  zf : Bool
  dwise : Bool
  lpitch : Nat
  padv : Nat
  rsv : Bool
deriving DecidableEq, Repr

/-- The descriptor in s[n] to s[n+7] (R137, R176). DESIGN CHOICE (log entry 149): bits [31:25] of word 0, to which no rule gives a use, are ignored. -/
def Tile.window (T : Tile) (n : Nat) : Window :=
  let w := fun k => smGet T.sregs 0 (n + k)
  { first := bitsOf (w 0) 15 0, p := bitsOf (w 0) 24 16, span := bitsOf (w 1) 10 0,
    inH := bitsOf (w 2) 11 0, inW := bitsOf (w 2) 27 16,
    kh := bitsOf (w 3) 3 0 + 1, kw := bitsOf (w 3) 7 4 + 1, tapH := bitsOf (w 3) 11 8, tapW := bitsOf (w 3) 15 12,
    sh := bitsOf (w 3) 19 16 + 1, sw := bitsOf (w 3) 23 20 + 1, dh := bitsOf (w 3) 27 24 + 1, dw := bitsOf (w 3) 31 28 + 1,
    padT := bitsOf (w 4) 3 0, padB := bitsOf (w 4) 7 4, padL := bitsOf (w 4) 11 8, padR := bitsOf (w 4) 15 12,
    pb := bitsOf (w 4) 18 16, slab := bitsOf (w 4) 20 19, zf := bitsOf (w 4) 21 21 = 1, dwise := bitsOf (w 4) 22 22 = 1,
    lpitch := bitsOf (w 5) 10 0, padv := (w 6).toNat,
    rsv := bitsOf (w 1) 31 11 ≠ 0 || bitsOf (w 2) 15 12 ≠ 0 || bitsOf (w 2) 31 28 ≠ 0 || bitsOf (w 4) 31 23 ≠ 0
      || bitsOf (w 5) 31 11 ≠ 0 || w 7 ≠ 0 }

/-- Bits of a pixel block for elements of `ew` bits (R176). -/
def Window.pbBits (w : Window) (ew : Nat) : Nat := if w.pb = 0 then ew else 64 * 2 ^ w.pb

/-- The checks of R137 and R177 that every user of the descriptor shares; `pbs` are the pixel blocks of R174 for the format and
`ew` its element width. PADV's bits above the element must be 0, and an LPITCH above the 1,280 of R176's list is an unlisted encoding (R109). -/
def Window.bad (w : Window) (ew : Nat) (pbs : List Nat) : Bool :=
  w.p = 0 || decide (256 < w.p) || w.span = 0 || decide (1280 < w.span) || w.rsv || w.inH = 0 || w.inW = 0 || decide (w.kh ≤ w.tapH) || decide (w.kw ≤ w.tapW)
    || !pbs.contains w.pb
    || (if 4 ≤ w.pb then decide (w.pbBits ew / 1024 ≤ w.slab) else w.slab ≠ 0)
    || decide (w.lpitch < (w.inW * w.pbBits ew + 4095) / 4096) || decide (1280 < w.lpitch)
    || decide (2 ^ ew ≤ w.padv)

/-- Output size of one axis (R178). -/
def outSize (inp lo hi dil k stride : Nat) : Int :=
  Int.fdiv ((inp : Int) + lo + hi - dil * ((k : Int) - 1) - 1) stride + 1

def Window.ho (w : Window) : Int := outSize w.inH w.padT w.padB w.dh w.kh w.sh
def Window.wo (w : Window) : Int := outSize w.inW w.padL w.padR w.dw w.kw w.sw

/-- The descriptor is empty (R178). -/
def Window.empty (w : Window) : Bool := w.ho ≤ 0 || w.wo ≤ 0

/-- Input line of kernel row `kr` and input column of kernel column `kc` for an output position (R179). -/
def Window.ih (w : Window) (oh kr : Nat) : Int := (oh * w.sh : Nat) - (w.padT : Int) + (kr * w.dh : Nat)
def Window.iw (w : Window) (ow kc : Nat) : Int := (ow * w.sw : Nat) - (w.padL : Int) + (kc * w.dw : Nat)
/-- A line and a column of the input are real (R179). -/
def Window.realH (w : Window) (ih : Int) : Bool := 0 ≤ ih && ih < w.inH
def Window.realW (w : Window) (iw : Int) : Bool := 0 ≤ iw && iw < w.inW

/-- What a position of the window generator takes: nothing (beyond the extent), the pad vector, or a row (relative to the plane's
first row) from a byte on. -/
inductive Fetch where
  | beyond
  | pad
  | real (row byte : Nat)
deriving DecidableEq, Repr

/-- Position `p` of CONV and of DCONV without DWISE, for one kernel tap (R179). -/
def Window.fetch (w : Window) (ew p kr kc : Nat) : Fetch :=
  let q := w.first + p
  if w.empty ∨ w.ho.toNat * w.wo.toNat ≤ q then .beyond
  else
    let ih := w.ih (q / w.wo.toNat) kr
    let iw := w.iw (q % w.wo.toNat) kc
    if w.realH ih && w.realW iw then
      let byte := iw.toNat * (w.pbBits ew / 8) + w.slab * 128
      .real (ih.toNat * w.lpitch + byte / 512) (byte % 512)
    else .pad

/-! ### Diagonal mode (R183–R186) -/

/-- Dimensions of the array modes (R60): K, N and element width for mode 0 (8-bit), 1 (4-bit) and 2 (16-bit). -/
def arrK (mode : Nat) : Nat := if mode = 0 then 128 else if mode = 1 then 256 else 64
def arrN (mode : Nat) : Nat := if mode = 2 then 128 else 256
def arrW (mode : Nat) : Nat := if mode = 0 then 8 else if mode = 1 then 4 else 16

/-- Outputs per block of depthwise mode (R185). -/
def Window.q (w : Window) (mode g : Nat) : Int :=
  min (arrN mode / g : Nat) (Int.fdiv ((arrK mode / g : Nat) - (w.dw : Int) * ((w.kw : Int) - 1) - 1) w.sw + 1)

/-- The depthwise conditions of R186. -/
def Window.dwBad (w : Window) (mode g : Nat) : Bool :=
  w.tapW ≠ 0 || w.pb ≠ 0 || w.slab ≠ 0 || decide (4096 < w.inW * arrW mode) || w.q mode g < 1

/-- Positions per output line of depthwise mode (R185). -/
def Window.ppl (w : Window) (mode g : Nat) : Nat :=
  let gq := g * (w.q mode g).toNat
  (w.wo.toNat + gq - 1) / gq

/-- Position `p` of DCONV with DWISE: the line it reads (R185). -/
def Window.dwFetch (w : Window) (mode g p : Nat) : Fetch :=
  let q := w.first + p
  let ppl := w.ppl mode g
  if w.empty ∨ w.ho.toNat * ppl ≤ q then .beyond
  else
    let ih := w.ih (q / ppl) w.tapH
    if w.realH ih then .real (ih.toNat * w.lpitch) 0 else .pad

/-- Elements of a depthwise position's vector, taken from its line (R185). -/
def Window.dwVector (w : Window) (mode g p : Nat) (line : List Byte) : List Nat :=
  let px := unpackElems (arrW mode) w.inW line
  let e := arrK mode / g
  let qn := (w.q mode g).toNat
  let x0 : Int := ((w.first + p) % w.ppl mode g * g * qn * w.sw : Nat) - (w.padL : Int)
  (List.range (arrK mode)).map (fun k =>
    let x : Int := x0 + (k / e * qn * w.sw + k % e : Nat)
    if w.realW x then px.getD x.toNat 0 else w.padv)

/-- Elements of a real position's vector: its pixel block, and 0 above it (R179). -/
def Window.realVector (w : Window) (mode byte : Nat) (row : List Byte) : List Nat :=
  let n := min 128 (w.pbBits (arrW mode) / 8)
  unpackElems (arrW mode) (arrK mode) ((row.drop byte).take n ++ List.replicate (128 - n) 0)

/-- Elements of the pad vector (R180); in depthwise mode every element is one that a line could fill. -/
def Window.padVector (w : Window) (mode : Nat) : List Nat :=
  let n := if w.dwise then arrK mode else min 128 (w.pbBits (arrW mode) / 8) * 8 / arrW mode
  List.replicate n w.padv ++ List.replicate (arrK mode - n) 0

/-- Some real position's row lies outside the declared input span (R181). -/
def spanBad (span : Nat) (l : List Fetch) : Bool :=
  l.any (fun f => match f with
    | .real r _ => decide (span ≤ r)
    | _ => false)

end Sys2Proof.Machine
end

