-- ==== Sys2Proof/Machine/TileMat.lean ====
section
/-! DEFINITION. The MAT slot (R134–R139) and the arithmetic of the array (R60–R65, R150–R160). -/

namespace Sys2Proof.Machine

open Sys2Proof

/-! ### Formats (R135) -/

/-- FMT names a format. -/
def fmtListed (c : Nat) : Bool := c ≤ 13
/-- Array mode of a format (R135). -/
def fmtMode (c : Nat) : Nat := if c ≤ 8 then 0 else if c ≤ 11 then 1 else 2
/-- Activation scale bytes per vector; 0 for a format that is not MX (R135). -/
def fmtScales (c : Nat) : Nat := if 4 ≤ c ∧ c ≤ 8 then 4 else if c = 11 then 8 else 0
/-- The formats that accumulate in INT32 (R62). -/
def fmtInt (c : Nat) : Bool := c = 0 || c = 1 || c = 9 || c = 10
/-- Pixel blocks of R174 for the mode of a format, CB1 included. -/
def fmtPbs (c : Nat) : List Nat :=
  if fmtMode c = 0 then [0, 2, 4, 5] else if fmtMode c = 1 then [0, 1, 4] else [0, 2, 3, 6]

/-- A BF16 subnormal enters the array as a zero of its sign (R158). -/
def flushBf16 (p : Nat) : Num := if p / 2 ^ 7 % 2 ^ 8 = 0 then .fin (bitAt p 15) 0 0 else fBf16.decode p

/-- Value of an element of a format; `act` tells activations from weights (R135, R148–R151, R158). -/
def fmtElem (c : Nat) (act : Bool) (p : Nat) : Num :=
  match c with
  | 0 => Num.ofInt (sext 8 p) 0
  | 1 => if act then Num.ofInt (p % 256 : Nat) 0 else Num.ofInt (sext 8 p) 0
  | 2 => fE4M3.decode p
  | 3 => fE5M2.decode p
  | 4 => Num.ofInt (sext 8 p) (-6)
  | 5 => fE4M3.decode p
  | 6 => fE5M2.decode p
  | 7 => fE2M3.decode (p % 64)
  | 8 => fE3M2.decode (p % 64)
  | 9 => Num.ofInt (sext 4 p) 0
  | 10 => if act then Num.ofInt (p % 16 : Nat) 0 else Num.ofInt (sext 4 p) 0
  | 11 => fE2M1.decode (p % 16)
  | 12 => flushBf16 p
  | _ => fFp16.decode p

/-! ### Weights (R130) -/

/-- Pattern of the weight of K row `k` and column `n`; a K row that was not loaded reads 0. -/
def WeightBuffer.weight (b : WeightBuffer) (mode k n : Nat) : Nat :=
  if b.krows ≤ k then 0
  else if mode = 0 then (smGet b.bytes 0 (k * 256 + n)).toNat
  else if mode = 1 then (smGet b.bytes 0 (k * 256 + n / 2)).toNat / (if n % 2 = 0 then 1 else 16) % 16
  else (smGet b.bytes 0 (k * 256 + 2 * n)).toNat + 256 * (smGet b.bytes 0 (k * 256 + 2 * n + 1)).toNat

/-- Weight scale byte of column `n` for block `b` (R130). -/
def WeightBuffer.scale (w : WeightBuffer) (b n : Nat) : Nat := (smGet w.scales 0 (256 * b + n)).toNat

/-! ### Accumulation -/

/-- Value of an E8M0 scale (R150). -/
def e8m0 (x : Nat) : Num := if x = 255 then .nan else .fin false 1 ((x : Int) - 127)

/-- Exponent of a finite value that is not 0. -/
def Num.exponent : Num → Option Int
  | .fin _ m e => if m = 0 then none else some (e + (Nat.log2 m : Int))
  | _ => none

/-- A value truncated toward zero to a multiple of `2^q` (R157). -/
def Num.truncTo (q : Int) : Num → Num
  | .fin a m e => if q ≤ e then .fin a m e else .fin a (m / 2 ^ (q - e).toNat) q
  | v => v

/-- Products truncated to a multiple of `2^(E - 55)`, E the exponent of the largest one (R157). -/
def truncProducts (l : List Num) : List Num :=
  match l.filterMap Num.exponent with
  | [] => l
  | x :: xs => l.map (Num.truncTo (xs.foldl max x - 55))

/-- Exact sum of a block's products (R156, R157, R159). -/
def exactSum (l : List Num) : Num := l.foldl Num.add (.fin false 0 0)

/-- A sum that is zero rounds to +0. -/
def Num.posZero : Num → Num
  | .fin a m e => if m = 0 then .fin false 0 0 else .fin a m e
  | v => v

/-- One accumulator update of a floating-point format (R156, R159): one rounding to FP32. -/
def accUpdate (acc : Nat) (sa sw s : Num) : Nat := fFp32.round (((n32 acc).add ((sa.mul sw).mul s)).posZero)

/-- Elements of column `n`'s diagonal block: all of K outside DCONV (R183). -/
def diagOk (mode g k n : Nat) : Bool := g = 1 || k / (arrK mode / g) = n / (arrN mode / g)

/-- Accumulator word of column `n` after one vector `x` (R136, R155–R159, R183). A block all of whose cells are gated for the column contributes
nothing, its scales neither. -/
def columnWord (c g : Nat) (b : WeightBuffer) (x sa : List Nat) (old : Word) (n : Nat) : Word :=
  let mode := fmtMode c
  let ks := (List.range (arrK mode)).filter (fun k => diagOk mode g k n)
  let prod := fun k => (fmtElem c true (x.getD k 0)).mul (fmtElem c false (b.weight mode k n))
  if fmtInt c then
    let sum := ks.foldl (fun (i : Int) k => match prod k with
      | .fin a m _ => i + signedMant a m
      | _ => i) 0
    old + BitVec.ofInt 32 sum
  else if fmtScales c = 0 then
    let ps := ks.map prod
    BitVec.ofNat 32 (accUpdate old.toNat (.fin false 1 0) (.fin false 1 0) (exactSum (if mode = 2 then truncProducts ps else ps)))
  else
    ((List.range (arrK mode / 32)).filter (fun blk => ks.any (fun k => k / 32 = blk))).foldl (fun (w : Word) blk =>
      BitVec.ofNat 32 (accUpdate w.toNat (e8m0 (sa.getD blk 0)) (e8m0 (b.scale blk n))
        (exactSum ((ks.filter (fun k => k / 32 = blk)).map prod)))) old

/-- One vector accumulates into row `r` (R62, R136); `zero`: as though the row had held zero. -/
def Tile.macRow (T : Tile) (c g : Nat) (x sa : List Nat) (zero : Bool) (r : Nat) : Tile :=
  T.setAccRow r (!fmtInt c) ((List.range (arrN (fmtMode c))).map (fun n =>
    columnWord c g T.active x sa (if zero then 0 else T.accWord r n) n))

/-! ### MMA and MMAZ -/

/-- What MMA and MMAZ need (R64, R65, R135, R136, R147). -/
def mmaPlan (act : RowOp) (acc : AccOp) (m1 : BitVec 8) (fmt : BitVec 4) (scl : RowOp) (s : State) (t : Nat) : SlotPlan :=
  let T := s.tile t
  let c := fmt.toNat
  let m := m1.toNat + 1
  { SlotPlan.free with
    field := !fmtListed c || (fmtScales c = 0 && scl ≠ { r := false, a := 0, off := 0 })
    mode := T.active.mode ≠ fmtMode c
    sync := true
    ranges := [rdRows (T.row act) ((m + 3) / 4), wrAcc (T.accRow acc) m]
      ++ (if fmtScales c = 0 then [] else [rdRows (T.row scl) ((m * fmtScales c + 511) / 512)]) }

/-- MMA and MMAZ (R136). -/
def mmaEff (zero : Bool) (act : RowOp) (acc : AccOp) (m1 : BitVec 8) (fmt : BitVec 4) (scl : RowOp) (s : State) (t : Nat) : State :=
  let T := s.tile t
  let c := fmt.toNat
  let m := m1.toNat + 1
  let w := arrW (fmtMode c)
  let a0 := s.absRow t (T.row act)
  let s0 := s.absRow t (T.row scl)
  let nscl := if fmtScales c = 0 then 0 else (m * fmtScales c + 511) / 512
  let stream := (List.range nscl).flatMap (fun j => s.rowBytes t (s0 + j))
  let r0 := T.accRow acc
  let s1 := s.updTile t (fun T => (List.range m).foldl (fun T i =>
    let x := unpackElems w (arrK (fmtMode c)) (((s.rowBytes t (a0 + i / 4)).drop (128 * (i % 4))).take 128)
    let sa := ((stream.drop (i * fmtScales c)).take (fmtScales c)).map (·.toNat)
    T.macRow c 1 x sa zero (r0 + i)) T)
  (s1.movePoison t ((List.range m).map (fun i => (State.markAcc (r0 + i),
    [a0 + i / 4, State.markWeights T.activeB] ++ (if zero then [] else [State.markAcc (r0 + i)])
      ++ (if fmtScales c = 0 then [] else [s0 + i * fmtScales c / 512]))))).countEvent (pgTileCnt t) 0x08 0 m

/-- MMA (R136). -/
def slotMma (act : RowOp) (acc : AccOp) (m1 : BitVec 8) (fmt : BitVec 4) (scl : RowOp) : Slot :=
  mkSlot .mat (mmaPlan act acc m1 fmt scl) (mmaEff false act acc m1 fmt scl)

/-- MMAZ (R136). -/
def slotMmaz (act : RowOp) (acc : AccOp) (m1 : BitVec 8) (fmt : BitVec 4) (scl : RowOp) : Slot :=
  mkSlot .mat (mmaPlan act acc m1 fmt scl) (mmaEff true act acc m1 fmt scl)

/-! ### CONV and DCONV -/

/-- Number of diagonal blocks that G names (R134): 1 for CONV. -/
def convBlocks (g : BitVec 3) : Nat := 2 ^ g.toNat

/-- Fetches of the P positions (R179, R185). -/
def convFetches (w : Window) (mode g : Nat) : List Fetch :=
  (List.range w.p).map (fun p => if w.dwise then w.dwFetch mode g p else w.fetch (arrW mode) p w.tapH w.tapW)

/-- What CONV (`g` = 0) and DCONV need (R137, R177, R181, R186). -/
def convPlan (g : BitVec 3) (act : RowOp) (acc : AccOp) (sd : BitVec 5) (fmt : BitVec 4) (scl : RowOp) (s : State) (t : Nat) : SlotPlan :=
  let T := s.tile t
  let c := fmt.toNat
  let w := T.window sd.toNat
  let mode := fmtMode c
  let blocks := convBlocks g
  { SlotPlan.free with
    field := decide (24 < sd.toNat) || decide (5 < g.toNat) || !fmtListed c
      || (fmtScales c = 0 && scl ≠ { r := false, a := 0, off := 0 })
      || w.bad (arrW mode) (fmtPbs c) || (g = 0 && w.dwise) || w.dwise ≠ decide (w.pb = 0) || (w.dwise && w.dwBad mode blocks)
    mode := T.active.mode ≠ mode
    span := spanBad w.span (convFetches w mode blocks)
    sync := true
    ranges := (if w.span = 0 then [] else [rdRows (T.row act) w.span]) ++ [wrAcc (T.accRow acc) w.p]
      ++ (if fmtScales c = 0 then [] else [rdRows (T.row scl) 1]) }

/-- CONV and DCONV (R137, R179–R185): an empty descriptor sets CONV_EMPTY and writes nothing. -/
def convEff (g : BitVec 3) (act : RowOp) (acc : AccOp) (sd : BitVec 5) (fmt : BitVec 4) (scl : RowOp) (s : State) (t : Nat) : State :=
  let T := s.tile t
  let c := fmt.toNat
  let w := T.window sd.toNat
  let mode := fmtMode c
  let blocks := convBlocks g
  if w.empty then s.updTile t (fun T => { T with st := stPut T.st stConvEmpty true })
  else
    let a0 := s.absRow t (T.row act)
    let s0 := s.absRow t (T.row scl)
    let r0 := T.accRow acc
    let sa := ((s.rowBytes t s0).take (fmtScales c)).map (·.toNat)
    let fs := (convFetches w mode blocks).zipIdx
    let s1 := s.updTile t (fun T => fs.foldl (fun T f =>
      match f.1 with
      | .beyond => T
      | .pad => T.macRow c blocks (w.padVector mode) sa w.zf (r0 + f.2)
      | .real row byte =>
        let line := s.rowBytes t (a0 + row)
        T.macRow c blocks (if w.dwise then w.dwVector mode blocks f.2 line else w.realVector mode byte line) sa w.zf (r0 + f.2)) T)
    let deps := fs.filterMap (fun f =>
      let own := [State.markWeights T.activeB] ++ (if fmtScales c = 0 then [] else [s0]) ++ (if w.zf then [] else [State.markAcc (r0 + f.2)])
      match f.1 with
      | .beyond => none
      | .pad => some (State.markAcc (r0 + f.2), own)
      | .real row _ => some (State.markAcc (r0 + f.2), (a0 + row) :: own))
    (s1.movePoison t deps).countEvent (pgTileCnt t) 0x08 0 deps.length

/-- CONV (R137). -/
def slotConv (act : RowOp) (acc : AccOp) (sd : BitVec 5) (fmt : BitVec 4) (scl : RowOp) : Slot :=
  mkSlot .mat (convPlan 0 act acc sd fmt scl) (convEff 0 act acc sd fmt scl)

/-- DCONV (R137, R183): G names 2 to 32 blocks. -/
def slotDconv (act : RowOp) (acc : AccOp) (sd : BitVec 5) (fmt : BitVec 4) (scl : RowOp) (g : BitVec 3) : Slot :=
  mkSlot .mat
    (fun s t =>
      let p := convPlan g act acc sd fmt scl s t
      { p with field := p.field || g = 0 })
    (convEff g act acc sd fmt scl)

/-! ### SWAPW -/

/-- A queued move is an LDW (R63). -/
def Move.isLdw (m : Move) : Bool :=
  match m.kind with
  | .weights _ _ _ _ _ => true
  | _ => false

/-- SWAPW exchanges the weight buffers once no LDW is in flight (R63). -/
def slotSwapw : Slot :=
  mkSlot .mat (fun s t => { SlotPlan.free with hold := (s.tile t).moves.any Move.isLdw })
    (fun s t => s.updTile t (fun T => { T with activeB := !T.activeB }))

/-! ### ACCRD -/

/-- Columns that an OFMT converts (R138). -/
def ofmtCols (c : Nat) : List Nat :=
  if c = 0x9 ∨ c = 0xB then List.range 128
  else if c = 0xA ∨ c = 0xC then (List.range 128).map (128 + ·)
  else List.range 256

/-- Bytes per accumulator row of an OFMT (R138). -/
def ofmtBytes (c : Nat) : Nat := if c ≤ 1 then 256 else if c ≤ 3 then 128 else if c ≤ 5 then 256 else 512

/-- The EPI operand that means no epilogue (R138). -/
def noEpi : RowOp := { r := false, a := 0, off := 0x7FF }

/-- RELU of a value (R160): a negative one becomes +0, a NaN passes; the sign of a −0 is left open (log entry 32). -/
def reluNum : Num → Num
  | .nan => .nan
  | .inf a => if a then .fin false 0 0 else .inf false
  | .fin a m e => if a then (if m = 0 then .fin (Config.zeroPick 1 0) 0 e else .fin false 0 0) else .fin false m e

/-- RELU of a copied word (R138): a word whose sign bit is set and that is no FP32 NaN becomes 0. -/
def reluCopy (w : Nat) : Nat := if bitAt w 31 && !(n32 w).isNan then 0 else w

/-- One element of ACCRD (R138, R160): its conversion. `sb` is the epilogue's scale and bias, where there is one. DESIGN CHOICE (log entry 151): a word that OFMT 0xB or 0xC
copies without an epilogue sets no flag, be it a NaN of FP32. -/
def accElem (c : Nat) (flt : Bool) (w : Nat) (sb : Option (Nat × Nat)) (relu : Bool) (rnd : Rnd) : Conv :=
  match sb with
  | none =>
    if c = 0xB ∨ c = 0xC then { bits := if relu then reluCopy w else w, sat := false, nan := false }
    else
      let y := if flt then n32 w else Num.ofInt (sext 32 w) 0
      ((ofmtOf c).getD (.flt fFp32)).fromAcc rnd (if relu then reluNum y else y)
  | some (sc, bi) =>
    let y := n32 (fma32 (if flt then w else fFp32.round (Num.ofInt (sext 32 w) 0)) sc bi)
    ((ofmtOf c).getD (.flt fFp32)).fromAcc rnd (if relu then reluNum y else y)

/-- The elements of one accumulator row, in ascending columns, each drawing once when SR is set (R138, R164). -/
def Tile.accOut (T : Tile) (c r : Nat) (epi : Option (List Nat × List Nat)) (relu sr : Bool) : List Conv × Word :=
  (ofmtCols c).foldl (fun (acc : List Conv × Word) n =>
    let rng := if sr then rngStep acc.2 else acc.2
    let e := accElem c (T.accFloat.contains r) (T.accWord r n).toNat (epi.map (fun p => (p.1.getD n 0, p.2.getD n 0))) relu
      (if sr then .draw (rngDraw acc.2) else .even)
    (acc.1 ++ [e], rng)) ([], T.rng)

/-- What ACCRD needs (R138, R147). -/
def accrdPlan (acc : AccOp) (m1 : BitVec 8) (dst : RowOp) (ofmt : BitVec 4) (epi : RowOp) (sr : Bool) (s : State) (t : Nat) : SlotPlan :=
  let T := s.tile t
  let m := m1.toNat + 1
  { SlotPlan.free with
    field := decide (12 < ofmt.toNat) || (sr && decide (8 ≤ ofmt.toNat))
    sync := true
    ranges := [rdAcc (T.accRow acc) m, wrRows (T.row dst) ((m * ofmtBytes ofmt.toNat + 511) / 512)]
      ++ (if epi = noEpi then [] else [rdRows (T.row epi) 4]) }

/-- ACCRD converts and packs accumulator rows (R138, R160–R164). -/
def accrdEff (acc : AccOp) (m1 : BitVec 8) (dst : RowOp) (ofmt : BitVec 4) (epi : RowOp) (sr relu : Bool) (s : State) (t : Nat) : State :=
  let T := s.tile t
  let c := ofmt.toNat
  let m := m1.toNat + 1
  let r0 := T.accRow acc
  let d0 := s.absRow t (T.row dst)
  let e0 := s.absRow t (T.row epi)
  let sb := if epi = noEpi then none else
    some (unpackElems 32 256 (s.rowBytes t e0 ++ s.rowBytes t (e0 + 1)), unpackElems 32 256 (s.rowBytes t (e0 + 2) ++ s.rowBytes t (e0 + 3)))
  let out := (List.range m).foldl (fun (a : List Conv × Word) i =>
    let o := { T with rng := a.2 }.accOut c (r0 + i) sb relu sr
    (a.1 ++ o.1, o.2)) (([] : List Conv), T.rng)
  let bs := packElems (match ofmtOf c with
    | some o => o.bits
    | none => 32) (out.1.map (·.bits))
  let n := (m * ofmtBytes c + 511) / 512
  let s1 := s.write (rowAddr t d0) (bs ++ List.replicate (n * 512 - bs.length) 0)
  let s2 := s1.updTile t (fun T => { T with rng := out.2, st := stArith T.st (out.1.any (·.sat)) (out.1.any (·.nan)) })
  s2.movePoison t ((List.range n).map (fun k => (d0 + k,
    ((List.range m).filter (fun i => i * ofmtBytes c < 512 * k + 512 && 512 * k < (i + 1) * ofmtBytes c)).map (fun i => State.markAcc (r0 + i))
      ++ (if epi = noEpi then [] else (List.range 4).map (e0 + ·)))))

/-- ACCRD (R138). -/
def slotAccrd (acc : AccOp) (m1 : BitVec 8) (dst : RowOp) (ofmt : BitVec 4) (epi : RowOp) (sr : Bool) (relu : Bool) : Slot :=
  mkSlot .mat (accrdPlan acc m1 dst ofmt epi sr) (accrdEff acc m1 dst ofmt epi sr relu)

end Sys2Proof.Machine
end

