-- ==== Sys2Proof/Machine/Transport.lean ====
section
/-! DEFINITION. Packets of Caravan transport as this device sends them (R380, R381). -/

namespace Sys2Proof.Machine

open Sys2Proof

/-- A seat with which no packet has been exchanged: PSNs count from 1 (log entry 34). -/
def Peer.initial : Peer := { nextPsn := 1, unacked := [], waiting := [], received := [], acked := 0, suspect := false, ackOwed := false }

namespace State

/-- Changes the convoy. -/
def updConvoy (s : State) (f : Convoy → Convoy) : State := { s with convoy := f s.convoy }
/-- Transport with a seat. -/
def peer (s : State) (seat : Nat) : Peer := smGet s.convoy.peers Peer.initial seat
/-- The state with the transport of a seat replaced. -/
def setPeer (s : State) (seat : Nat) (p : Peer) : State := s.updConvoy (fun c => { c with peers := smPut c.peers seat p })
/-- A message leaves on the convoy ports. -/
def say (s : State) (m : Sent) : State := s.updConvoy (fun c => { c with sent := c.sent ++ [m] })

/-- What is kept of a consist slot. -/
def consist (s : State) (n : Nat) : Consist :=
  smGet s.convoy.consists { ended := [], halves := [], durations := [], banked := [], claim := none, bankStep := none, since := 0 } n
/-- The state with a consist slot's record changed. -/
def updConsist (s : State) (n : Nat) (f : Consist → Consist) : State :=
  s.updConvoy (fun c => { c with consists := smPut c.consists n (f (s.consist n)) })

/-- Own seat and membership (R393). -/
def ownSeat (s : State) : Nat := s.fld (pgCvy + 0x104) 15 8
def cvyState (s : State) : Nat := s.fld (pgCvy + 0x104) 1 0
def isMember (s : State) : Bool := s.cvyState = 2
/-- The roster's entry of a seat. -/
def seat (s : State) (n : Nat) : Seat := smGet s.convoy.roster { live := false, keyEpoch := 0, addrs := [], manifest := [], attestKey := [], manifestOk := false, standby := false, lastBeat := 0 } n
/-- A seat is live in the roster. -/
def seatLive (s : State) (n : Nat) : Bool := (s.seat n).live

/-! ### The pair's keys (R372, R378, R379) -/

/-- The session key that a Manifest carries (R411). -/
def manifestKey (m : List Byte) : List Byte := (m.drop 0x208).take 133

/-- A Manifest of a device in Field whose signature verifies under the attestation key (R371, R411). -/
def manifestGood (m key : List Byte) : Bool :=
  m.getD 0x20 0 = 3 && ecdsaOk key (m.take (m.length - 132)) (m.drop (m.length - 132))

/-- The key and the salt under which `sender` seals what this device exchanges with a seat (R372): of the 72 bytes derived, the keys come first and the lower seat's
direction before the higher's (log entry 126). -/
def pairKey (s : State) (seat sender : Nat) : List Byte × List Byte :=
  let own := s.ownSeat
  let lo := min own seat
  let hi := max own seat
  let info := "CARAVAN".toList.map (fun c => BitVec.ofNat 8 c.toNat) ++ natLE 1 lo ++ natLE 1 hi ++ natLE 4 (s.seat lo).keyEpoch ++ natLE 4 (s.seat hi).keyEpoch
  let o := hkdf512 (natLE 2 (s.fld (pgCvy + 0x100) 31 16)) (ecShared s.sec.devicePriv (manifestKey (s.seat seat).manifest)) info 72
  let d := if sender = lo then 0 else 1
  ((o.drop (32 * d)).take 32, (o.drop (64 + 4 * d)).take 4)

/-- TYPE of an operation (R381). -/
def caravanType : CaravanOp → Nat
  | .dockWrite .. => 1
  | .memWrite .. => 2
  | .readRequest .. => 3
  | .readResponse .. => 4
  | .commitRequest .. => 5
  | .commitResponse .. => 6
  | .completion .. => 7
  | .ackOnly => 8
  | .heartbeat .. => 0x10
  | .ack .. => 0x11
  | .fence .. => 0x12
  | .roster .. => 0x14
  | .leave => 0x15
  | .bank .. => 0x16
  | .bankLost .. => 0x17
  | .unlisted ty => ty

/-- The numbers that a seat's entry carries. -/
def seatNats (x : SeatInfo) : List Nat :=
  [x.seat, b2n x.live, x.keyEpoch, b2n x.standby] ++ x.addrs.map (·.toNat) ++ x.manifest.map (·.toNat)

/-- The numbers that an engine's message carries. -/
def controlNats : CaravanOp → List Nat
  | .heartbeat steps suspects claims => steps.flatMap (fun x => [x.1, x.2]) ++ suspects ++ claims.flatMap (fun x => [x.1, x.2])
  | .ack seats fenced => b2n fenced :: seats.flatMap seatNats
  | .fence n e => [n, e]
  | .roster seats => seats.flatMap seatNats
  | .bank op n step => [op, n, step]
  | .bankLost n step => [n, step]
  | _ => []

/-- The data bytes of an operation. -/
def caravanData (o : CaravanOp) : List Byte :=
  match o with
  | .dockWrite _ _ _ _ rows => rows.flatten
  | .memWrite _ _ bs => bs
  | .readResponse _ _ bs => bs
  | .commitRequest _ _ x y => natLE 8 x.toNat ++ natLE 8 y.toNat
  | .commitResponse _ _ x => natLE 8 x.toNat
  | .readRequest _ _ _ => []
  | .completion _ _ => []
  | .ackOnly => []
  | .unlisted _ => []
  | _ => Config.caravanControl (caravanType o) (controlNats o)

/-- The fields that an operation block holds beside the data: the operation ID, the tenant, the target, the row count or length, and the status. -/
def blockFields (tenant : Nat) : CaravanOp → List Byte
  | .dockWrite op tile dock offset rows => Config.caravanBlock op tenant (tile + 64 * dock + 1024 * offset) rows.length 0
  | .memWrite op a bs => Config.caravanBlock op tenant a bs.length 0
  | .readRequest op a n => Config.caravanBlock op tenant a n 0
  | .readResponse op a bs => Config.caravanBlock op tenant a bs.length 0
  | .commitRequest op a _ _ => Config.caravanBlock op tenant a 8 0
  | .commitResponse op st _ => Config.caravanBlock op tenant 0 8 st
  | .completion op st => Config.caravanBlock op tenant 0 0 st
  | .bank op _ _ => Config.caravanBlock op tenant 0 0 0
  | _ => Config.caravanBlock 0 tenant 0 0 0

/-- The 32-byte operation block (R378). -/
def caravanBlock (tenant : Nat) (o : CaravanOp) : List Byte := (blockFields tenant o ++ List.replicate 32 0).take 32

/-- The header of a packet (R378). -/
def caravanHeader (p : CaravanPacket) : List Byte :=
  natLE 1 p.version ++ natLE 1 (caravanType p.op) ++ p.rsv.take 2 ++ natLE 1 p.src ++ natLE 1 p.dst ++ natLE 2 p.convoy ++ natLE 4 p.keyEpoch
    ++ natLE 4 p.memEpoch ++ natLE 8 p.psn ++ natLE 8 p.ack ++ natLE 8 p.sack.toNat ++ natLE 2 p.len ++ (p.rsv.drop 2).take 6

/-- A packet's block and data under the pair's key of the direction of its source, and its tag (R372, R378): AES-256-GCM with the header as additional data, under
the salt followed by the PSN. -/
def caravanSeal (s : State) (p : CaravanPacket) : List Byte × List Byte :=
  let k := s.pairKey (if p.src = s.ownSeat then p.dst else p.src) p.src
  gcmSeal k.1 (k.2 ++ natLE 8 p.psn) (caravanHeader p) (caravanBlock p.tenant p.op ++ caravanData p.op)

/-- The tag that a packet of the pair carries. -/
def caravanTag (s : State) (p : CaravanPacket) : List Byte := (s.caravanSeal p).2

/-! ### Sending (R366, R380) -/

/-- The next convoy port that is up, after the port used last (R380). -/
def nextPort (s : State) : Option Nat := ((List.range 4).map (fun i => (s.convoy.lastPort + 1 + i) % 4)).find? (fun p => s.fld (pgEth p + 0x104) 0 0 = 1)

/-- The address of a seat to which a port sends: the seat's own port of that number, or its first where it gave none (log entry 115). -/
def portDest (s : State) (seat p : Nat) : BitVec 128 :=
  let l := (s.seat seat).addrs
  if l.getD p 0 ≠ 0 then l.getD p 0 else (l.find? (· ≠ 0)).getD 0

/-- A port resolves an address by Neighbor Discovery before it first sends to it (R366). -/
def resolve (s : State) (port : Nat) (dest : BitVec 128) : State :=
  if s.convoy.neighbors.contains (port, dest) then s else s.say (.neighborSolicit port dest)

/-- A packet leaves by the next port in turn; with no port up, or toward a seat whose Manifest does not verify (R372), it is lost at once. -/
def transmit (s : State) (p : CaravanPacket) (wire : List Byte) : State :=
  match s.nextPort with
  | none => s
  | some e =>
    if !(s.seat p.dst).manifestOk then s
    else
      let dest := s.portDest p.dst e
      ((s.resolve e dest).updConvoy (fun c => { c with lastPort := e })).say (.packet dest { p with port := e } wire)

/-- SACK of what has been received from a seat: bit i for PSN ACK + 2 + i (R378). -/
def sackOf (p : Peer) : DWord := BitVec.ofNat 64 (listMask ((List.range 64).filter (fun i => p.received.contains (p.acked + 2 + i))))

/-- A packet of this device to a seat, its tag still to come. -/
def bare (s : State) (seat psn tenant : Nat) (o : CaravanOp) : CaravanPacket :=
  let p := s.peer seat
  { port := 0, udp := s.fld (pgCvy + 0x120) 15 0, version := 1, src := s.ownSeat, dst := seat, convoy := s.fld (pgCvy + 0x100) 31 16,
    keyEpoch := (s.reg (pgCvy + 0x10C)).toNat, memEpoch := (s.reg (pgCvy + 0x108)).toNat, psn := psn, ack := p.acked, sack := sackOf p,
    len := (caravanData o).length, rsv := List.replicate 8 0, tenant := tenant, op := o, tag := [] }

/-- A packet with its tag, and its bytes: the header in clear, block and data encrypted, the tag. -/
def sealedPacket (s : State) (p : CaravanPacket) : CaravanPacket × List Byte :=
  let x := s.caravanSeal p
  ({ p with tag := x.2 }, caravanHeader p ++ x.1 ++ x.2)

/-- A message takes the next PSN of its pair and leaves; it is unacknowledged until the seat's ACK or SACK covers it, and itself carries the acknowledgement owed. -/
def sendNow (s : State) (seat tenant : Nat) (o : CaravanOp) : State :=
  let p := s.peer seat
  let x := s.sealedPacket (s.bare seat p.nextPsn tenant o)
  (s.setPeer seat { p with nextPsn := p.nextPsn + 1, ackOwed := false,
                           unacked := p.unacked ++ [{ pkt := x.1, wire := x.2, tries := 0, sentAt := s.now }] }).transmit x.1 x.2

/-- The window to a seat has room: fewer than 64 packets are unacknowledged, and nothing waits (R380). -/
def roomFor (s : State) (seat : Nat) : Bool := (s.peer seat).waiting.isEmpty && decide ((s.peer seat).unacked.length < 64)

/-- A message goes to a seat: at once, or once the window has room. -/
def post (s : State) (seat tenant : Nat) (o : CaravanOp) : State :=
  if s.roomFor seat then s.sendNow seat tenant o
  else s.setPeer seat { s.peer seat with waiting := (s.peer seat).waiting ++ [(tenant, o)] }

/-- Waiting messages leave in order while the window has room. -/
def flushWaiting (s : State) (seat : Nat) : State :=
  forEach (s.peer seat).waiting s (fun s x =>
    if (s.peer seat).unacked.length < 64 then
      (s.setPeer seat { s.peer seat with waiting := (s.peer seat).waiting.tail }).sendNow seat x.1 x.2
    else s)

/-- The completion of an operation that a seat asked for (R381). -/
def respond (s : State) (seat tenant op status : Nat) : State := s.post seat tenant (.completion op status)

/-- An operation for a seat takes the next operation ID and goes out. -/
def startOp (s : State) (seat tile tenant : Nat) (kind : RemoteKind) (o : Nat → CaravanOp) : Nat × State :=
  let op := s.convoy.nextOp
  (op, (s.updConvoy (fun c => { c with nextOp := op + 1, ops := c.ops ++ [{ op := op, seat := seat, tile := tile, kind := kind }] })).post seat tenant (o op))

end State

end Sys2Proof.Machine
end

