-- ==== Sys2Proof/Machine/TileMov.lean ====
section
/-! DEFINITION. The MOV slot (R123–R133): a move is checked and queued at issue, with its operands captured and its Ledger
pages translated, and performed by MOVE_COMPLETE. -/

namespace Sys2Proof.Machine

open Sys2Proof

/-! ### Checks of R126 -/

/-- What an instruction requires of an address beyond R29. `slot`: a store of a row may also go to the tile's own request slot of
the Interlocking store (R258, R266). -/
inductive Want where
  | any
  | slot
  | ledger
  | dram
  | psram
  | dramOrPsram
deriving DecidableEq, Repr

/-- The ranges that a requirement admits. -/
def Want.ok (w : Want) (g : Range) : Bool :=
  match w, g with
  | .any, _ => true
  | .slot, _ => true
  | .ledger, .ledger _ _ => true
  | .dram, .dram _ => true
  | .psram, .psram _ _ => true
  | .dramOrPsram, .dram _ => true
  | .dramOrPsram, .psram _ _ => true
  | _, _ => false

/-- One access of a move: address, length, requirement. -/
structure MoveAcc where
  addr : Nat
  len : Nat
  want : Want
deriving DecidableEq, Repr

/-- A device address after wrapping (R111). -/
def wrapAddr (a : Nat) : Nat := a % 2 ^ 40

namespace State

/-- A tile move reaches a range (R29); its own Interlocking slot is 0x48_0100_0000 + 0x200·t (R258). -/
def moveReaches (t : Nat) (w : Want) (g : Range) : Bool :=
  match g with
  | .ilk off => w = .slot && decide (0x1000000 + 0x200 * t ≤ off) && decide (off < 0x1000000 + 0x200 * t + 0x200)
  | _ => (Requester.tile t).reaches g

/-- Addresses that decide an access: its ends and one in every 2 KiB, so that no page, stripe or range is skipped. -/
def accPoints (a : MoveAcc) : List Nat := a.addr :: (a.addr + (a.len - 1)) :: (List.range (a.len / 0x800)).map (fun i => a.addr + i * 0x800)

/-- The running tenant of a tile. -/
def runTenant (s : State) (t : Nat) : Nat := s.berthTenant t (s.berth t)

/-- A DRAM byte that the page owner map refuses to a tenant (R296): the die whose controller refuses. -/
def ownerRefuses (s : State) (tenant a : Nat) : Option Nat :=
  match s.rangeOf a with
  | .dram _ =>
    let k := s.dramKey a
    let o := s.owner (k / pageBytes)
    if o.assigned && o.tenant = tenant then none else some (k / dieBytes)
  | _ => none

/-- A byte of the own store window inside the running berth's share (R126). -/
def insideShare (s : State) (t a : Nat) : Bool :=
  match s.rangeOf a with
  | .tileStore u off =>
    let n := s.berth t
    u = t && decide (s.shareBase t n ≤ off / 512) && decide (off / 512 < s.shareBase t n + s.shareRows t n)
  | _ => false

/-- A byte of the own store window outside the running berth's share (R126). -/
def outsideShare (s : State) (t a : Nat) : Bool :=
  match s.rangeOf a with
  | .tileStore u off =>
    let n := s.berth t
    u = t && (decide (off / 512 < s.shareBase t n) || decide (s.shareBase t n + s.shareRows t n ≤ off / 512))
  | _ => false

/-- First step of R126 for one access: not refused, or refused with the page that records it. A refusal by the instruction's own
range rule or by the share is a status only (log entry 35). -/
def accUnmapped (s : State) (t : Nat) (a : MoveAcc) : Option (Option Nat) :=
  let ps := accPoints a
  if ps.any (fun p => !moveReaches t a.want (s.rangeOf p)) then some (some (pgDie (dieOf t)))
  else match ps.findSome? (s.ownerRefuses (s.runTenant t)) with
    | some d => some (some (pgDramc d))
    | none => if ps.any (fun p => !a.want.ok (s.rangeOf p) || s.outsideShare t p) then some none else none

/-- Second step of R126 for one access: it crosses ranges or breaks the access unit (R27). -/
def accMisaligned (s : State) (a : MoveAcc) : Bool :=
  (s.rangeOf a.addr).id ≠ (s.rangeOf (a.addr + (a.len - 1))).id || !(s.rangeOf a.addr).unitOk a.addr a.len

/-- Own-window rows of an access of a tile, absolute. -/
def accOwnRows (s : State) (t : Nat) (a : MoveAcc) : List Nat :=
  match s.rangeOf a.addr with
  | .tileStore u off => if u = t then (List.range ((a.len + 511) / 512)).map (off / 512 + ·) else []
  | _ => []

/-- The checks of R126 in order; the status of the first that fails, with its error record. `ruleOk`: the instruction's own
alignment rule; `rows`: the rows of the own store that its row operands name. -/
def moveCheck (s : State) (t : Nat) (accs : List MoveAcc) (ruleOk : Bool) (rows : List Nat) : Option Nat × State :=
  match accs.findSome? (s.accUnmapped t) with
  | some (some page) => (some msUnmapped, s.recordErr page 0x5101)
  | some none => (some msUnmapped, s)
  | none =>
    if accs.any s.accMisaligned then (some msAlign, s.recordErr (pgDie (dieOf t)) 0x5102)
    else if !ruleOk then (some msAlign, s)
    else if (rows ++ accs.flatMap (s.accOwnRows t)).any (fun r => !s.segReady t (r / 160)) then (some msSegOff, s)
    else (none, s)

/-! ### Translation (R200, R202) -/

/-- Aperture pages that an access covers. -/
def accPages (a : MoveAcc) : List Nat :=
  if ledgerBase ≤ a.addr then
    let lo := (a.addr - ledgerBase) / pageBytes
    (List.range ((a.addr + (a.len - 1) - ledgerBase) / pageBytes + 1 - lo)).map (lo + ·)
  else []

/-- A Ledger cache takes an entry in; when it held 16,384 another one leaves it (R202). -/
def cacheFill (s : State) (c p : Nat) : State :=
  let l := smGet s.ledger.caches [] c
  if l.contains p then s
  else
    let l1 := if l.length < 16384 then l else l.eraseIdx (Config.cacheVictim s.free % 16384)
    { s with free := s.free + 1, ledger := { s.ledger with caches := smPut s.ledger.caches c (p :: l1) } }

/-- A translation on die `d` finds the entry in its die's Ledger cache or in Hub A's (R202). -/
def cacheHit (s : State) (d p : Nat) : Bool := (smGet s.ledger.caches [] d).contains p || (smGet s.ledger.caches [] 4).contains p

/-- AGE of an entry that was translated after it missed in every cache (R199). -/
def ageEntry (s : State) (p : Nat) : State :=
  match smFind s.ledger.entries p with
  | some e => { s with ledger := { s.ledger with entries := smPut s.ledger.entries p { e with age := s.fld (pgLedger + 0x118) 9 0 } } }
  | none => s

/-- One translation on die `d`: counted; one that meets LOCK waits until it clears and is counted, and so is a miss, which fills the caches (R202, R472). -/
def translate (s : State) (d p : Nat) : State :=
  let s1 := s.countEvent (pgHubCnt 0) 7
  let s2 := if (s.entry p).lock then (s1.bump (pgLedger + 0x128)).resolveLock p else s1
  let s3 := if s2.cacheHit d p then s2 else ((s2.ageEntry p).bump (pgLedger + 0x124)).countEvent (pgHubCnt 0) 8
  (s3.cacheFill d p).cacheFill 4 p

/-- A page that a tenant's move may use. -/
def pageMapped (s : State) (tenant p : Nat) : Bool :=
  let e := s.entry p
  e.valid && !e.dropped && e.tenant = tenant
/-- A page that a tenant's move finds dropped. -/
def pageDropped (s : State) (tenant p : Nat) : Bool :=
  let e := s.entry p
  !e.valid && e.dropped && e.tenant = tenant
/-- An invalid entry of the tenant: LEDGER_ENTRY in the LEDGER block (R200). -/
def pageInvalid (s : State) (tenant p : Nat) : Bool :=
  let e := s.entry p
  e.valid && e.dropped && e.tenant = tenant

/-- Translates a move's pages at its start; what it uses of their entries is what stands there once every LOCK that it met has cleared (R202). -/
def translateAll (s : State) (t tenant : Nat) (ps : List Nat) : State :=
  let s1 := forEach ps s (fun s p => s.translate (dieOf t) p)
  if ps.any (s.pageInvalid tenant) then s1.recordErr pgLedger 0x540D else s1

/-- The translations that a move keeps (R202). -/
def pagePairs (s : State) (tenant : Nat) (ps : List Nat) : List (Nat × Nat) :=
  (ps.filter (s.pageMapped tenant)).map (fun p => (p, (s.entry p).ppn))

/-! ### Issue -/

/-- A move with nothing known of its outcome yet. -/
def newMove (tag : BitVec 4) (kind : MoveKind) (ranges : List RowRange) : Move :=
  { tag := tag.toNat, kind := kind, ranges := ranges, pages := [], gens := [], status := none, mask := 0, sent := false, landed := false, old := 0, op := 0 }

/-- Puts a move into a tile's queue (R76). -/
def pushMove (s : State) (t : Nat) (m : Move) : State := s.updTile t (fun T => { T with moves := T.moves ++ [m] })

/-- Checks a move, translates its pages and queues it. A follower queues what its leader has queued (R101, R133). -/
def queueMove (s : State) (t : Nat) (m : Move) (accs : List MoveAcc) (ruleOk : Bool) (rows : List Nat) : State :=
  if s.follows t then
    match (s.tile (t - 1)).moves.getLast? with
    | some l => s.pushMove t l
    | none => s
  else
    let (st, s1) := s.moveCheck t accs ruleOk rows
    match st with
    | some e => s1.pushMove t { m with status := some e }
    | none =>
      let ps := (accs.flatMap accPages).eraseDups
      let tenant := s.runTenant t
      let s2 := if ps = [] then s1 else s1.translateAll t tenant ps
      if ps.all (s2.pageMapped tenant) then s2.pushMove t { m with pages := s2.pagePairs tenant ps, gens := ps.map (fun p => (p, (s2.entry p).keygen)) }
      else s2.pushMove t { m with status := some msUnmapped }

/-- Sixteen moves are outstanding: the slot is held (R76). -/
def moveRoom (s : State) (t : Nat) : Bool := 16 ≤ (s.tile t).moves.length

/-- The enclosing range of a move's own-window rows, relative to the share (R126); none where one of its own-window accesses leaves the share, so that the move
completes ADDR_UNMAPPED. -/
def ownRange (s : State) (t : Nat) (write : Bool) (accs : List MoveAcc) : List RowRange :=
  let mine := accs.filter (fun a => s.accOwnRows t a ≠ [])
  let rows := mine.flatMap (s.accOwnRows t)
  let base := s.shareBase t (s.berth t)
  if mine = [] ∨ mine.any (fun a => (accPoints a).any (fun p => !s.insideShare t p)) then []
  else [{ acc := false, write := write, first := rows.foldl min 1280 - base, last := rows.foldl max 0 - base }]

end State

/-- Accesses of LDROW and STROW (R127). -/
def rowAccs (addr stride n : Nat) (w : Want) : List MoveAcc :=
  (List.range n).map (fun j => { addr := wrapAddr (addr + j * stride), len := 512, want := w })

/-- Stride operand (R127). -/
def moveStride (T : Tile) (sf : Bool) (ss : BitVec 5) : Nat := if sf then T.s ss.toNat else 512

/-- Rows from `r` on. -/
def rowList (r n : Nat) : List Nat := (List.range n).map (r + ·)

/-- LDROW (R127). -/
def slotLdrow (tag : BitVec 4) (an : BitVec 4) (dst : RowOp) (n1 : BitVec 8) (sf : Bool) (ss : BitVec 5) (off : BitVec 20) : Slot :=
  let accs := fun (T : Tile) => rowAccs (T.devAddr an off) (moveStride T sf ss) (n1.toNat + 1) .any
  let ranges := fun (s : State) t => wrRows ((s.tile t).row dst) (n1.toNat + 1) :: s.ownRange t false (accs (s.tile t))
  mkSlot .mov (fun s t => { SlotPlan.free with hold := s.moveRoom t, ranges := ranges s t })
    (fun s t =>
      let T := s.tile t
      let a := T.devAddr an off
      let st := moveStride T sf ss
      let d := s.absRow t (T.row dst)
      s.queueMove t (State.newMove tag (.load a st d (n1.toNat + 1)) (ranges s t)) (accs T) (a % 64 = 0 && st % 64 = 0) (rowList d (n1.toNat + 1)))

/-- STROW (R127); a row may go to the tile's own Interlocking request slot (R266). -/
def slotStrow (tag : BitVec 4) (an : BitVec 4) (src : RowOp) (n1 : BitVec 8) (sf : Bool) (ss : BitVec 5) (off : BitVec 20) : Slot :=
  let accs := fun (T : Tile) => rowAccs (T.devAddr an off) (moveStride T sf ss) (n1.toNat + 1) .slot
  let ranges := fun (s : State) t => rdRows ((s.tile t).row src) (n1.toNat + 1) :: s.ownRange t true (accs (s.tile t))
  mkSlot .mov (fun s t => { SlotPlan.free with hold := s.moveRoom t, ranges := ranges s t })
    (fun s t =>
      let T := s.tile t
      let a := T.devAddr an off
      let st := moveStride T sf ss
      let d := s.absRow t (T.row src)
      s.queueMove t (State.newMove tag (.store a st d (n1.toNat + 1)) (ranges s t)) (accs T) (a % 64 = 0 && st % 64 = 0) (rowList d (n1.toNat + 1)))

/-- LDLEDGER's start (R128): checks, then the translation of every page; the mask of dropped pages goes to s[SD] at its end. -/
def ldledgerEff (tag : BitVec 4) (an : BitVec 4) (dst : RowOp) (n1 : BitVec 8) (sd : BitVec 5) (off : BitVec 20) (s : State) (t : Nat) : State :=
  if s.follows t then s.queueMove t (State.newMove tag (.ledgerLoad 0 0 0 0) []) [] true []
  else
    let T := s.tile t
    let a := T.devAddr an off
    let n := n1.toNat + 1
    let d := s.absRow t (T.row dst)
    let m := State.newMove tag (.ledgerLoad a d n sd.toNat) [wrRows (T.row dst) n]
    let acc : MoveAcc := { addr := a, len := n * 512, want := .ledger }
    let (st, s1) := s.moveCheck t [acc] (a % 512 = 0) (rowList d n)
    match st with
    | some e => s1.pushMove t { m with status := some e }
    | none =>
      let ps := State.accPages acc
      let tenant := s.runTenant t
      let s2 := s1.translateAll t tenant ps
      let mask := listMask ((List.range ps.length).filter (fun j => s2.pageDropped tenant (ps.getD j 0)))
      let bad := ps.any (fun p => !s2.pageMapped tenant p && !s2.pageDropped tenant p)
      s2.pushMove t { m with
        pages := s2.pagePairs tenant ps, gens := ps.map (fun p => (p, (s2.entry p).keygen)), mask := mask, status := if bad then some msUnmapped else none }

/-- LDLEDGER (R128). -/
def slotLdledger (tag : BitVec 4) (an : BitVec 4) (dst : RowOp) (n1 : BitVec 8) (sd : BitVec 5) (off : BitVec 20) : Slot :=
  mkSlot .mov (fun s t => { SlotPlan.free with hold := s.moveRoom t, ranges := [wrRows ((s.tile t).row dst) (n1.toNat + 1)] })
    (ldledgerEff tag an dst n1 sd off)

/-- A seat that a tile of this device may address (R383): depot service, membership, and a live seat. -/
def State.seatReachable (s : State) (seat : Nat) : Bool := !s.inDrive && s.isMember && s.seatLive seat

/-- DOCKWR's start (R127, R383). A write to the own seat is delivered locally; the rows leave with REMOTE_WRITE. -/
def dockwrEff (tag : BitVec 4) (src : RowOp) (n1 : BitVec 3) (seatf : Bool) (seat : BitVec 8) (tile : BitVec 6) (dock : BitVec 4) (doff : BitVec 11)
    (s : State) (t : Nat) : State :=
  let T := s.tile t
  let n := n1.toNat + 1
  let r := s.absRow t (T.row src)
  let remote := seatf && seat.toNat ≠ s.ownSeat
  let m := State.newMove tag (.dockWrite r n (if remote then some seat.toNat else none) tile.toNat dock.toNat doff.toNat) [rdRows (T.row src) n]
  if s.follows t then s.queueMove t m [] true []
  else if seatf && !s.seatReachable seat.toNat then s.pushMove t { m with status := some msUnmapped }
  else if !remote && !s.tilePresent tile.toNat then (s.recordErr (pgDie (State.dieOf t)) 0x5101).pushMove t { m with status := some msUnmapped }
  else if (rowList r n).any (fun x => !s.segReady t (x / 160)) then s.pushMove t { m with status := some msSegOff }
  else s.pushMove t m

/-- DOCKWR (R127). -/
def slotDockwr (tag : BitVec 4) (src : RowOp) (n1 : BitVec 3) (seatf : Bool) (seat : BitVec 8) (tile : BitVec 6) (dock : BitVec 4) (doff : BitVec 11) : Slot :=
  mkSlot .mov
    (fun s t => { SlotPlan.free with field := !seatf && seat ≠ 0, hold := s.moveRoom t, ranges := [rdRows ((s.tile t).row src) (n1.toNat + 1)] })
    (dockwrEff tag src n1 seatf seat tile dock doff)

/-- Sealed records stand on the Platform side (R408): tenants 1–4,095, whose work runs in depot service, and in a handover to drive until it is abandoned. -/
def State.sealedCopy (s : State) (t : Nat) : Bool := s.service ≠ 1 && s.runTenant t ≠ 0
/-- Records of a sealed copy of `len` bytes. -/
def recordCount (len : Nat) : Nat := (len + 4095) / 4096
/-- First byte above the host area of a port's Platform SRAM (R350). -/
def hostArea : Nat := 0x01E00000
/-- An address is in Platform SRAM. -/
def isPsram (a : Nat) : Bool := 0x6000000000 ≤ a && a < 0x6004000000

/-- PLATCPY's start (R127, R408). A copy of length 0 is checked as one of 64 B. -/
def platcpyEff (tag : BitVec 4) (dan san : BitVec 4) (lreg : BitVec 5) (s : State) (t : Nat) : State :=
  let T := s.tile t
  let d := T.a dan.toNat
  let a := T.a san.toNat
  let len := T.s lreg.toNat
  let n := if len = 0 then 64 else len
  let sealedRec := s.sealedCopy t
  let ext := if sealedRec then n + 64 * recordCount n else n
  let plat := if isPsram d then d else a
  let dram := if isPsram d then a else d
  let m := State.newMove tag (.platCopy d a len) []
  let big := sealedRec && isPsram plat && decide (hostArea < plat % psramBytes + ext)
  if big && !s.follows t then s.pushMove t { m with status := some msUnmapped }
  else s.queueMove t m [{ addr := plat, len := ext, want := .psram }, { addr := dram, len := n, want := .dram }]
    (d % 64 = 0 && a % 64 = 0 && len % 64 = 0 && len ≤ 0x2000000) []

/-- PLATCPY (R127). -/
def slotPlatcpy (tag : BitVec 4) (dan : BitVec 4) (san : BitVec 4) (lreg : BitVec 5) : Slot :=
  mkSlot .mov (fun s t => { SlotPlan.free with hold := s.moveRoom t }) (platcpyEff tag dan san lreg)

/-- Index words of a GATHER (R129). -/
def State.gatherIdx (s : State) (t r n : Nat) : List Nat := (unpackElems 32 128 (s.rowBytes t (s.absRow t r))).take n

/-- What GATHER needs (R129): in own-store mode the span, in absolute rows, must lie in the share. -/
def gatherPlan (an : BitVec 4) (dst idx : RowOp) (n1 : BitVec 7) (sm : Bool) (ss : BitVec 5) (s : State) (t : Nat) : SlotPlan :=
  let T := s.tile t
  let b := T.a an.toNat % 2048
  let len := T.s ss.toNat
  let base := s.shareBase t (s.berth t)
  { SlotPlan.free with
    bounds := sm && decide (0 < len) && (decide (b < base) || decide (base + s.shareRows t (s.berth t) < b + len))
    hold := s.moveRoom t
    ranges := [rdRows (T.row idx) 1, wrRows (T.row dst) (n1.toNat + 1)] ++ (if sm && decide (0 < len) && decide (base ≤ b) then [rdRows (b - base) len] else []) }

/-- GATHER's start (R129): every source is checked before any row moves, and one that is unmapped or misaligned makes it ADDR_UNMAPPED; indices in a segment that is
not ready are not read (R75). -/
def gatherEff (tag : BitVec 4) (an : BitVec 4) (dst idx : RowOp) (n1 : BitVec 7) (sm : Bool) (ss : BitVec 5) (s : State) (t : Nat) : State :=
  let T := s.tile t
  let n := n1.toNat + 1
  let ids := s.gatherIdx t (T.row idx) n
  let len := T.s ss.toNat
  let d := s.absRow t (T.row dst)
  let b := if sm then T.a an.toNat % 2048 else T.a an.toNat
  let srcs := ids.map (fun x => if sm then b + x else wrapAddr (b + x * len))
  let m := State.newMove tag (.gather sm srcs d) (gatherPlan an dst idx n1 sm ss s t).ranges
  let accs := if sm then [] else srcs.map (fun a => ({ addr := a, len := 512, want := .any } : MoveAcc))
  if s.follows t then s.queueMove t m [] true []
  else if !s.segReady t (s.absRow t (T.row idx) / 160) then s.pushMove t { m with status := some msSegOff }
  else if sm && ids.any (fun x => decide (len ≤ x)) then s.pushMove t { m with status := some msUnmapped }
  else if !sm && len % 64 = 0 && (accs.findSome? (s.accUnmapped t)).isNone && (srcs.any (fun a => a % 64 ≠ 0) || accs.any s.accMisaligned) then
    s.pushMove t { m with status := some msUnmapped }
  else s.queueMove t m accs (sm || len % 64 = 0) (s.absRow t (T.row idx) :: rowList d n ++ (if sm then srcs else []))

/-- GATHER (R129). -/
def slotGather (tag : BitVec 4) (an : BitVec 4) (dst : RowOp) (idx : RowOp) (n1 : BitVec 7) (sm : Bool) (ss : BitVec 5) : Slot :=
  mkSlot .mov (gatherPlan an dst idx n1 sm ss) (gatherEff tag an dst idx n1 sm ss)

/-- Source rows of an LDW, the scale plane's included (R130). -/
def ldwRows (mode : BitVec 2) (sc : Bool) (n1 : BitVec 6) : Nat :=
  n1.toNat + 1 + if sc then (if mode = 0 then 2 else 4) else 0

/-- What LDW needs (R63, R130): no other LDW in flight. -/
def ldwPlan (mode : BitVec 2) (sc : Bool) (n1 : BitVec 6) (src : LdwSrc) (s : State) (t : Nat) : SlotPlan :=
  let T := s.tile t
  let n := ldwRows mode sc n1
  { SlotPlan.free with
    field := mode = 3 || (mode = 2 && (sc || decide (32 < n1.toNat + 1)))
    hold := s.moveRoom t || T.moves.any Move.isLdw
    ranges := match src with
      | .store r => [rdRows (T.row r) n]
      | .device an off => s.ownRange t false [{ addr := T.devAddr an off, len := n * 512, want := .any }] }

/-- LDW's start (R130): the inactive buffer's written flags are cleared once the checks have passed. -/
def ldwEff (tag : BitVec 4) (mode : BitVec 2) (sc : Bool) (n1 : BitVec 6) (src : LdwSrc) (s : State) (t : Nat) : State :=
  let T := s.tile t
  let n := ldwRows mode sc n1
  let ranges := (ldwPlan mode sc n1 src s t).ranges
  let s1 := match src with
    | .store r =>
      let a := s.absRow t (T.row r)
      s.queueMove t (State.newMove tag (.weights true a mode.toNat (n1.toNat + 1) sc) ranges) [] true (rowList a n)
    | .device an off =>
      let a := T.devAddr an off
      s.queueMove t (State.newMove tag (.weights false a mode.toNat (n1.toNat + 1) sc) ranges) [{ addr := a, len := n * 512, want := .any }] (a % 64 = 0) []
  s1.updTile t (fun T =>
    if (T.moves.getLast?.map (·.status)) = some none then T.setInactive { T.inactive with mode := mode.toNat, krows := 0, bytes := [] } else T)

/-- LDW (R130). -/
def slotLdw (tag : BitVec 4) (mode : BitVec 2) (sc : Bool) (n1 : BitVec 6) (src : LdwSrc) : Slot :=
  mkSlot .mov (ldwPlan mode sc n1 src) (ldwEff tag mode sc n1 src)

/-- A COMMIT for another seat leaves once it is the oldest move of its tile (R131, R381), and none while a recovery runs (R318, R319); a seat out of reach
ends it (R383). -/
def State.kickCommit (s : State) (t : Nat) : State :=
  if s.safety.phase ≠ .none then s else
  match (s.tile t).moves with
  | [] => s
  | m :: ms =>
    match m.kind with
    | .commit a e n _ (some seat) =>
      if m.sent || m.status.isSome || s.follows t then s
      else if s.seatReachable seat then
        let (op, s1) := s.startOp seat t (s.runTenant t) .commit (fun op => .commitRequest op a e n)
        s1.updTile t (fun T => { T with moves := { m with op := op, sent := true } :: ms })
      else s.updTile t (fun T => { T with moves := { m with status := some msUnmapped } :: ms })
    | _ => s

/-- COMMIT's start (R131): operands are captured; a word on this device lies in DRAM or Platform SRAM. -/
def commitEff (tag : BitVec 4) (an : BitVec 4) (se sn sd : BitVec 5) (seatf : Bool) (seat : BitVec 8) (off : BitVec 20) (s : State) (t : Nat) : State :=
  let T := s.tile t
  let a := T.devAddr an off
  let m := State.newMove tag (.commit a (BitVec.ofNat 64 (T.pair se.toNat)) (BitVec.ofNat 64 (T.pair sn.toNat)) sd.toNat
    (if seatf then some seat.toNat else none)) []
  if seatf && !s.follows t then
    let st := if !s.seatReachable seat.toNat then some msUnmapped else if a % 8 ≠ 0 then some msAlign else none
    (s.pushMove t { m with status := st }).kickCommit t
  else s.queueMove t m [{ addr := a, len := 8, want := .dramOrPsram }] (a % 8 = 0) []

/-- COMMIT (R131). -/
def slotCommit (tag : BitVec 4) (an : BitVec 4) (se : BitVec 5) (sn : BitVec 5) (sd : BitVec 5) (seatf : Bool) (seat : BitVec 8) (off : BitVec 20) : Slot :=
  mkSlot .mov
    (fun s t => { SlotPlan.free with
      field := se.toNat % 2 = 1 || sn.toNat % 2 = 1 || sd.toNat % 2 = 1 || (!seatf && seat ≠ 0)
      hold := s.moveRoom t })
    (commitEff tag an se sn sd seatf seat off)

/-! ### Transfer -/

namespace State

/-- Key in memory of a byte that a move names: a Ledger page goes through the move's own translation (R202). -/
def moveKey (s : State) (m : Move) (a : Nat) : Nat :=
  if ledgerBase ≤ a then
    let p := (a - ledgerBase) / pageBytes
    ((m.pages.find? (fun e => e.1 = p)).map (·.2)).getD 0 * pageBytes + a % pageBytes
  else s.devKey a

/-- Keys of a run of bytes. -/
def moveKeys (s : State) (m : Move) (a n : Nat) : List Nat := (List.range n).map (fun i => s.moveKey m (a + i))

/-- Runs of bytes that a move reads or writes outside its tile (R127). -/
def Move.reads (m : Move) : List (Nat × Nat) :=
  match m.kind with
  | .load a st _ n => (List.range n).map (fun j => (wrapAddr (a + j * st), 512))
  | .ledgerLoad a _ n _ =>
    let p0 := (a - ledgerBase) / pageBytes
    ((List.range n).filter (fun j => !bitAt m.mask ((a + 512 * j - ledgerBase) / pageBytes - p0))).map (fun j => (a + 512 * j, 512))
  | .platCopy d a len => if isPsram d then [(a, len)] else []
  | .gather own srcs _ => if own then [] else srcs.map (fun a => (a, 512))
  | .weights st src mode n sc => if st then [] else (List.range (n + if sc then (if mode = 0 then 2 else 4) else 0)).map (fun j => (wrapAddr (src + 512 * j), 512))
  | .commit a _ _ _ seat => if seat.isNone then [(a, 8)] else []
  | _ => []
def Move.writes (m : Move) : List (Nat × Nat) :=
  match m.kind with
  | .store a st _ n => (List.range n).map (fun j => (wrapAddr (a + j * st), 512))
  | .platCopy d _ len => if isPsram d then [] else [(d, len)]
  | .commit a _ _ _ seat => if seat.isNone then [(a, 8)] else []
  | _ => []

/-- A key that a move reads lies in a line. -/
def readsLine (s : State) (m : Move) (l : Nat) : Bool := (Move.reads m).any (fun x => (s.moveKeys m x.1 x.2).any (fun k => k / 64 = l))

/-- Lines that a move reads under a key generation that is not their page's: their MAC fails (R292, R296). -/
def wrongGen (s : State) (m : Move) : List Nat :=
  let bad := m.gens.filter (fun g => match m.pages.find? (fun e => e.1 = g.1) with
    | some e => (s.owner e.2).assigned && (s.owner e.2).keygen ≠ g.2
    | none => false)
  if bad = [] then []
  else ((Move.reads m).flatMap (fun x => if bad.any (fun g => (x.1 - ledgerBase) / pageBytes = g.1 && ledgerBase ≤ x.1) then
    (s.moveKeys m x.1 x.2).map (· / 64) else [])).eraseDups

/-- What a move's reads of DRAM lines find (R291–R294): the findings of the command, and the lines under a wrong generation. -/
def readLines (s : State) (m : Move) (lines : List LineFinding) : State :=
  if m.status.isSome then s
  else
    let s1 := forEach (lines.filter (fun f => s.readsLine m f.line)) s lineRead
    forEach (s1.wrongGen m) s1 (fun s l => s.lineRead { line := l, symbols := [], mac := true })

/-- A move to or from a stack in self-refresh is held (R306). -/
def stackHeld (s : State) (m : Move) : Bool :=
  m.status.isNone && (List.range 4).any (fun d => s.fld (pgDramc d + 0x100) 3 3 = 1)
    && (Move.reads m ++ Move.writes m).any (fun x => (s.moveKeys m x.1 x.2).any s.heldKey)

end State

/-- What a move brings to its tile: rows (absolute, with their poison marks), a weight buffer, scalar results, the outcome of a
COMMIT's compare, its status, and the suspect of the fault that poison ends it in, if any. -/
structure Delivery where
  rows : List (Nat × List Byte × Bool)
  weights : Option WeightBuffer
  regs : List (Nat × Nat)
  failed : Option Bool
  status : Nat
  fault : Option Suspect
deriving DecidableEq, Repr

/-- A delivery of a status alone. -/
def Delivery.plain (status : Nat) : Delivery := { rows := [], weights := none, regs := [], failed := none, status := status, fault := none }

/-- Whether a device address lies in tile `t`'s own store window. -/
def inOwnStore (t a : Nat) : Bool := decide (tileStoreBase t ≤ a ∧ a < tileStoreBase t + 0xA0000)

/-- The own store row that such an address names. -/
def ownRowOf (t a : Nat) : Nat := (a - tileStoreBase t) / 512

namespace State

/-- Reads one row for a move: its bytes, whether it is poisoned, and the state with the read counted. -/
def fetchRow (s : State) (t : Nat) (m : Move) (a : Nat) : (List Byte × Bool) × State :=
  if inOwnStore t a then ((s.rowBytes t (ownRowOf t a), (s.tile t).poison.contains (ownRowOf t a)), s)
  else
    let ks := s.moveKeys m a 512
    ((ks.map (memByte s.mem), s.anyMarked ks), ((s.countPoison ks).countLines t 2 ks).countPsram t true ks)

/-- Rows that a load brings; a marked DRAM line makes the move's end a hardware fault (R79, R294). -/
def loadRows (s : State) (t : Nat) (m : Move) (l : List (Nat × Nat)) : Delivery × State :=
  l.foldl (fun (acc : Delivery × State) e =>
    let (r, s1) := acc.2.fetchRow t m e.1
    ({ acc.1 with rows := acc.1.rows ++ [(e.2, r.1, r.2)], fault := if r.2 && !inOwnStore t e.1 then some .none else acc.1.fault }, s1))
    (Delivery.plain msOk, s)

/-- Rows that a store sends: an own-window row is delivered inside the tile with its mark, another goes out; a poisoned row never
leaves the tile (R71). -/
def storeRows (s : State) (t : Nat) (m : Move) (l : List (Nat × Nat)) : Delivery × State :=
  if l.any (fun e => (s.tile t).poison.contains e.1 && !inOwnStore t e.2) then ({ Delivery.plain msOk with fault := some (tileSuspect t) }, s)
  else l.foldl (fun (acc : Delivery × State) e =>
    let bs := s.rowBytes t e.1
    if inOwnStore t e.2 then ({ acc.1 with rows := acc.1.rows ++ [(ownRowOf t e.2, bs, (s.tile t).poison.contains e.1)] }, acc.2)
    else
      let ks := acc.2.moveKeys m e.2 512
      (acc.1, (((acc.2.writeKeys ks bs).countLines t 3 ks).countPsram t false ks).countEvent (pgTileCnt t) 0x0B 0 512))
    (Delivery.plain msOk, s)

/-- Bytes copied between a run of DRAM and Platform SRAM (R127). -/
def copyPlain (s : State) (t : Nat) (m : Move) (d a n : Nat) : Delivery × State :=
  let ka := s.moveKeys m a n
  let kd := s.moveKeys m d n
  if s.anyMarked ka then ({ Delivery.plain msOk with fault := some .none }, s.countPoison ka)
  else
    let s1 := ((s.writeKeys kd (ka.map (memByte s.mem))).countLines t 2 ka).countLines t 3 kd
    (Delivery.plain msOk, (s1.countPsram t true ka).countPsram t false kd)

/-- Length of record `i` of a sealed copy of `len` bytes (R408). -/
def recordLen (len i : Nat) : Nat := if i + 1 = recordCount len then len - 4096 * i else 4096

/-- The first 0x30 bytes of an outbound record (R408). -/
def recordHead (counter len tenant : Nat) : List Byte := natLE 8 counter ++ natLE 4 len ++ natLE 2 tenant ++ List.replicate 34 0

/-- A sealed outbound copy (R408): records under K_out, the session's counter going on with each. Without a session there is no key and the copy completes
ADDR_UNMAPPED (log entry 4). -/
def copyOut (s : State) (t : Nat) (m : Move) (d a len : Nat) : Delivery × State :=
  let ka := s.moveKeys m a len
  let tenant := s.runTenant t
  if s.anyMarked ka then ({ Delivery.plain msOk with fault := some .none }, s.countPoison ka)
  else match smFind s.sec.sessions tenant with
  | none => (Delivery.plain msUnmapped, s)
  | some x =>
    let n := recordCount len
    let s1 := forEach (List.range n) s (fun s' i =>
      let h := recordHead (x.sealCount + 1 + i) (recordLen len i) tenant
      let c := gcmSeal x.keys.kOut (x.keys.saltOut ++ h.take 8) h (((ka.drop (4096 * i)).take (recordLen len i)).map (memByte s.mem))
      s'.write (d + 4160 * i) (h ++ c.2 ++ c.1))
    let s2 : State := { s1 with sec := { s1.sec with sessions := smPut s1.sec.sessions tenant { x with sealCount := x.sealCount + n } } }
    (Delivery.plain msOk, (s2.countLines t 2 ka).countPsram t false ((List.range (len + 64 * n)).map (d + ·)))

/-- What record `i` of an inbound copy decrypts to; `none` where its LEN, TENANT or TAG fails (R409). -/
def recordOpen (s : State) (tenant a len i : Nat) : Option (List Byte) :=
  let b := a + 4160 * i
  let l := recordLen len i
  match smFind s.sec.sessions tenant with
  | none => none
  | some x =>
    if s.nat (b + 8) 4 = l ∧ s.nat (b + 12) 2 = tenant then
      gcmOpen x.keys.kIn (x.keys.saltIn ++ s.bytes b 8) (s.bytes b 0x30) (s.bytes (b + 0x40) l) (s.bytes (b + 0x30) 16)
    else none

/-- The plaintext of the records before the first bad one, and whether all are good (R409). -/
def recordsOpen (s : State) (tenant a len : Nat) : List Byte × Bool :=
  let good := ((List.range (recordCount len)).map (s.recordOpen tenant a len)).takeWhile (·.isSome)
  (good.flatMap (·.getD []), good.length = recordCount len)

/-- A sealed inbound copy (R409): the records before the first bad one land. -/
def copyIn (s : State) (t : Nat) (m : Move) (d a len : Nat) : Delivery × State :=
  let x := s.recordsOpen (s.runTenant t) a len
  let kd := s.moveKeys m d x.1.length
  let s1 := ((s.writeKeys kd x.1).countLines t 3 kd).countPsram t true ((List.range (len + 64 * recordCount len)).map (a + ·))
  if x.2 then (Delivery.plain msOk, s1) else (Delivery.plain msUnmapped, s1.bump (pgSec + 0x148))

/-- A weight buffer filled from source rows (R130). -/
def fillWeights (w : WeightBuffer) (mode n : Nat) (sc : Bool) (rows : List (List Byte)) : WeightBuffer :=
  let per := if mode = 1 then 4 else 2
  let kb := 512 / per
  let bytes := ((rows.take n).zipIdx.flatMap (fun r => r.1.zipIdx.map (fun b => (((r.2 * per + b.2 / kb) * 256 + b.2 % kb), b.1))))
  let plane := ((rows.drop n).flatMap id).zipIdx
  { mode := mode, krows := n * per, bytes := bytes.foldl (fun m e => smPut m e.1 e.2) [],
    scales := if sc then plane.foldl (fun m e => smPut m e.2 e.1) [] else w.scales }

/-- Loads the inactive weight buffer. -/
def loadWeights (s : State) (t : Nat) (m : Move) (fromStore : Bool) (src mode n : Nat) (sc : Bool) : Delivery × State :=
  let total := n + if sc then (if mode = 0 then 2 else 4) else 0
  let l := (List.range total).map (fun j => (if fromStore then rowAddr t (src + j) else wrapAddr (src + 512 * j), j))
  let (d, s1) := s.loadRows t m l
  let w := fillWeights (s.tile t).inactive mode n sc (d.rows.map (·.2.1))
  ({ d with rows := [], weights := some w, failed := if d.rows.any (·.2.2) then some true else none }, s1)

/-- The atomic compare-and-set of a COMMIT on this device (R131). -/
def commitHere (s : State) (t : Nat) (m : Move) (a : Nat) (expected new : DWord) (sd : Nat) : Delivery × State :=
  let ks := s.moveKeys m a 8
  if s.anyMarked ks then ({ Delivery.plain msOk with fault := some .none }, s.countPoison ks)
  else
    let old := leNat (ks.map (memByte s.mem))
    let hit := old = expected.toNat
    let s1 := if hit then (s.writeKeys ks (natLE 8 new.toNat)).countLines t 3 ks else s
    ({ Delivery.plain msOk with regs := [(sd, old % 2 ^ 32), (sd + 1, old / 2 ^ 32)], failed := some (!hit) }, (s1.countLines t 2 ks).countPsram t true ks)

/-- Performs a move whose checks passed. -/
def transfer (s : State) (t : Nat) (m : Move) : Delivery × State :=
  match m.kind with
  | .load a st d n => s.loadRows t m ((List.range n).map (fun j => (wrapAddr (a + j * st), d + j)))
  | .store a st r n => s.storeRows t m ((List.range n).map (fun j => (r + j, wrapAddr (a + j * st))))
  | .ledgerLoad a d n sd =>
    let p0 := (a - ledgerBase) / pageBytes
    let live := (List.range n).filter (fun j => !bitAt m.mask ((a + 512 * j - ledgerBase) / pageBytes - p0))
    let (x, s1) := s.loadRows t m (live.map (fun j => (a + 512 * j, d + j)))
    let dropped := (maskList 32 m.mask).length
    let s2 := if dropped = 0 then s1 else s1.countEvent (pgTileCnt t) 0x12 0 dropped
    ({ x with regs := [(sd, m.mask % 32)], status := if m.mask = 0 then msOk else msDropped }, s2)
  | .dockWrite _ _ _ _ _ _ => (Delivery.plain msOk, s)
  | .platCopy d a len =>
    if len = 0 then (Delivery.plain msOk, s)
    else if !s.sealedCopy t then s.copyPlain t m d a len
    else if isPsram d then s.copyOut t m d a len
    else s.copyIn t m d a len
  | .gather own srcs d =>
    s.loadRows t m (srcs.zipIdx.map (fun e => (if own then rowAddr t e.1 else e.1, d + e.2)))
  | .weights st src mode n sc => s.loadWeights t m st src mode n sc
  | .commit a e n sd seat =>
    match seat with
    | none => s.commitHere t m a e n sd
    | some _ =>
      ({ Delivery.plain msOk with regs := [(sd, m.old.toNat % 2 ^ 32), (sd + 1, m.old.toNat / 2 ^ 32)], failed := some (m.old ≠ e) }, s)

/-- Scalar results that a move writes whatever its status (R128). -/
def failRegs (m : Move) : List (Nat × Nat) :=
  match m.kind with
  | .ledgerLoad _ _ _ sd => [(sd, m.mask % 32)]
  | _ => []

/-- The tile-side work of a move stands still in a gated cycle (R78, R90); a PLATCPY works outside the tile alone. -/
def moveStill (s : State) (t : Nat) (m : Move) : Bool :=
  match m.kind with
  | .platCopy _ _ _ => false
  | _ => s.gated t

/-- Whether a move of a tile can complete now (R78, R97, R131, R306, R318, R381): no recovery runs, its cycle is not gated and no stack holds it; a dock write or an operation for a
seat has its outcome; a COMMIT is the oldest of its tile's moves. -/
def moveReady (s : State) (t : Nat) (m : Move) (idx : Nat) : Bool :=
  s.safety.phase = .none && !s.moveStill t m && !s.stackHeld m && (m.status.isSome ||
  match m.kind with
  | .dockWrite _ _ _ _ _ _ => m.landed
  | .commit _ _ _ _ seat => idx = 0 && (seat.isNone || m.landed)
  | _ => true)

/-- What a completed move leaves in its tile, and in the follower of a pair (R101, R115, R124). A COMMIT that ends with a status other than OK compares nothing and leaves
CMT_FAIL as it was (DESIGN CHOICE, log entry 143). -/
def deliverTo (s : State) (t idx : Nat) (m : Move) (d : Delivery) : State :=
  let s1 := forEach d.rows s (fun s r =>
    (s.writeRow t r.1 r.2.1).updTile t (fun T =>
      if r.2.2 then (if T.poison.contains r.1 then T else { T with poison := r.1 :: T.poison })
      else { T with poison := T.poison.filter (· ≠ r.1) }))
  let s2 := s1.updTile t (fun T =>
    let T1 := match d.weights with
      | some w =>
        let mark := markWeights (!T.activeB)
        { T.setInactive w with poison := (if d.failed = some true then [mark] else []) ++ T.poison.filter (· ≠ mark) }
      | none => T
    let T2 := d.regs.foldl (fun T r => T.setS r.1 r.2) T1
    let st1 := stMove T2.st m.tag d.status
    let st2 := match m.kind, d.failed with
      | .commit _ _ _ _ _, some f => stCommit st1 f
      | .ledgerLoad _ _ _ _, _ => stStick st1 stMvDrop (m.mask ≠ 0)
      | _, _ => st1
    { T2 with st := st2, moves := T2.moves.eraseIdx idx })
  if d.rows = [] then s2 else s2.countEvent (pgTileCnt t) 0x0A 0 (512 * d.rows.length)

/-- A copy of a consist's step has claimed it: a COMMIT of its waybill hit (R389). -/
def noteCommit (s : State) (t : Nat) (m : Move) (d : Delivery) : State :=
  match m.kind, d.failed with
  | .commit _ _ new _ _, some false =>
    match ((s.tile t).wid.bind s.placed).bind (fun p => (s.consistOf p.wb.ring).orElse (fun _ => s.bankOf p.wb.ring)) with
    | some n => s.updConsist n (fun k => { k with claim := some (new.toNat % 2 ^ 32) })
    | none => s
  | _, _ => s

/-- Ends a move that met poison: it leaves no status, and the fault's recovery takes it (R71, R79). -/
def poisonMove (s : State) (t idx : Nat) (d : Delivery) : State :=
  forEach (if (s.tile t).coupled then [t, t + 1] else [t]) s (fun s u =>
    (forEach d.rows s (fun s r => s.updTile u (fun T => if r.2.2 && !T.poison.contains r.1 then { T with poison := r.1 :: T.poison } else T))).updTile u
      (fun T => { T with moves := T.moves.eraseIdx idx }))

/-- A move completes. -/
def completeMove (s : State) (t idx : Nat) (m : Move) : State :=
  let (d, s1) := match m.status with
    | some st => ({ Delivery.plain st with regs := failRegs m }, s)
    | none => s.transfer t m
  match d.fault with
  | some x => (s1.poisonMove t idx d).hwFault x
  | none =>
    let s2 := (s1.noteCommit t m d).deliverTo t idx m d
    let s3 := if (s.tile t).coupled then s2.deliverTo (t + 1) idx m d else s2
    let s4 := (s3.kickCommit t).releasePages
    match (s.tile t).wid with
    | some wid => s4.finishWork wid
    | none => s4

/-- The findings of a move's own store reads, in the tile and in a pair's follower (R70, R71): `go` is the move's work between them. -/
def withReads (s : State) (t : Nat) (m : Move) (ecc eccF : List (Nat × Bool)) (go : State → State) : State :=
  let rows := s.readRows t m.ranges
  let own := ecc.filter (fun e => rows.contains e.1)
  let his := if (s.tile t).coupled then eccF.filter (fun e => rows.contains e.1) else []
  ((go ((s.markEcc t own).markEcc (t + 1) his)).applyEcc t own).applyEcc (t + 1) his

end State

/-- MOVE_COMPLETE: the move at a place of a tile's queue completes (R77, R124–R131). A follower's moves complete with its leader's.
`lines` says what its reads of DRAM lines find (R291), `ecc` and `eccF` those of store rows (R70). -/
def execMoveComplete (tile : Nat) (move : Nat) (lines : List LineFinding) (ecc eccF : List (Nat × Bool))
    (s : State) : Res :=
  whenLive s (fun s =>
    if s.follows tile then s
    else match (s.tile tile).moves[move]? with
      | none => s
      | some m =>
        if s.moveReady tile m move then
          (s.readLines m lines).withReads tile m ecc eccF (fun s => s.completeMove tile move m)
        else s)

end Sys2Proof.Machine
end

