-- ==== Sys2Proof/Machine/TilePage.lean ====
section
/-! DEFINITION. The tile's pages (R72, R74, R92–R100, R104, R105): segments, scrubber, berths, docks, and the events that
reach a running tile (R121, R240). -/

namespace Sys2Proof.Machine

open Sys2Proof

namespace State

/-- Tiles that a dock write lands in: both of a pair. -/
def landTiles (s : State) (t : Nat) : List Nat := if (s.tile t).coupled then [t / 2 * 2, t / 2 * 2 + 1] else [t]

/-- A write to a berth, a dock or the segments of a tile of a coupled pair takes effect in both tiles, which hold the same (R101; DESIGN CHOICE, log entry 142). -/
def onPair (s : State) (t : Nat) (f : State → Nat → State) : State := forEach (s.landTiles t) s f

/-! ### Segments (R74, R75) -/

/-- An OPEN dock of a tile covers a row of a segment. -/
def dockCovers (s : State) (t g : Nat) : Bool :=
  (List.range 16).any (fun k =>
    let d := s.dockRows t k
    s.fld (dockReg t k 0) 1 0 = 1 && decide (d.1 < 160 * g + 160) && decide (160 * g < d.1 + d.2))

/-- A write to TILE_SEG_PWR.ON: a clear under an open dock is refused for its bit; other clears and sets begin (R74). -/
def writeSegPwr (s : State) (t : Nat) (w : Word) : State :=
  let a := pgTile t + 0x104
  let on := s.fld a 7 0
  let ready := s.fld a 15 8
  let clear := maskList 8 (on &&& (0xFF - bitsOf w 7 0))
  let refused := clear.filter (s.dockCovers t)
  let down := clear.filter (fun g => !refused.contains g)
  let up := maskList 8 (bitsOf w 7 0 &&& (0xFF - on))
  let s1 := s.setFld a 7 0 (bitsOf w 7 0 ||| listMask refused)
  let s2 := s1.updTile t (fun T => { T with
    poweringDown := (T.poweringDown.filter (fun g => !up.contains g)) ++ down.filter (bitAt ready)
    poweringUp := (T.poweringUp.filter (fun g => !down.contains g)) ++ up.filter (fun g => !bitAt ready g) })
  if refused = [] then s2 else s2.regAccess (pgTile t)

/-- A queued move or an accepted dock write of a tile, or of the pair that it belongs to, touches a segment (R74). -/
def segInUse (s : State) (t g : Nat) : Bool :=
  (s.tile t).moves.any (fun m => m.ranges.any (fun r =>
    !r.acc && decide (s.absRow t r.first < 160 * g + 160) && decide (160 * g ≤ s.absRow t r.last)))
  || (s.tile (s.ingressTile t)).ingress.any (fun w => decide (w.first < 160 * g + 160) && decide (160 * g < w.first + w.rows.length))

/-- Rows of a segment read zero, with no poison mark and nothing queued for the scrubber. -/
def clearSegment (s : State) (t g : Nat) : State :=
  (s.zero (rowAddr t (160 * g)) (160 * 512)).updTile t (fun T => { T with
    poison := T.poison.filter (fun r => r < 160 * g || 160 * g + 160 ≤ r)
    scrubQueue := T.scrubQueue.filter (fun r => r < 160 * g || 160 * g + 160 ≤ r) })

end State

/-- TILE_SEG_PWR written (R74, R104). -/
def execTileSegPwr (who : Writer) (tile : Nat) (w : Word) (s : State) : Res :=
  whenLive s (fun s => s.regWrite who (pgTile tile + 0x104) (fun s => s.onPair tile (fun s t => s.writeSegPwr t w)))

/-- A segment's power-down takes effect once nothing touches it; its contents are lost (R74). -/
def execSegmentPowerDown (tile : Nat) (seg : Nat) (s : State) : Res :=
  whenLive s (fun s =>
    if (s.tile tile).poweringDown.contains seg && !s.segInUse tile seg then
      ((s.clearSegment tile seg).updTile tile (fun T => { T with poweringDown := T.poweringDown.filter (· ≠ seg) })).setFld
        (pgTile tile + 0x104) (8 + seg) (8 + seg) 0
    else s)

/-- A segment that powers up is ready, every row zero (R74). -/
def execSegmentReady (tile : Nat) (seg : Nat) (s : State) : Res :=
  whenLive s (fun s =>
    if (s.tile tile).poweringUp.contains seg then
      ((s.clearSegment tile seg).updTile tile (fun T => { T with poweringUp := T.poweringUp.filter (· ≠ seg) })).setFld
        (pgTile tile + 0x104) (8 + seg) (8 + seg) 1
    else s)

/-- What the corrector finds in a row that the scrubber reads (R70, R71). -/
def State.scrubFinding (s : State) (t row : Nat) (found : EccFinding) : State :=
  match found with
  | .corrected => (s.storeCorrected t row).updTile t (fun T => { T with scrubQueue := T.scrubQueue.filter (· ≠ row) })
  | .uncorrectable => s.storeUncorrectable t row
  | .macFail => s.storeUncorrectable t row
  | .clean => s

/-- The scrubber rewrites the oldest queued row, or else the next row of its walk; a walk counts when it has passed row 1,279 (R72). A tile whose fault is not
judged yet, and every tile in a recovery, leaves its store alone (R313, R318). -/
def execRowScrub (tile : Nat) (found : EccFinding) (s : State) : Res :=
  whenLive s (fun s =>
    if !s.tilePresent tile || s.safety.phase ≠ .none || (s.tile tile).health = .verdict then s
    else match (s.tile tile).scrubQueue with
      | r :: rs => (s.updTile tile (fun T => { T with scrubQueue := rs })).scrubFinding tile r found
      | [] =>
        let r := (s.tile tile).scrubWalk
        let s1 := s.updTile tile (fun T => { T with scrubWalk := (r + 1) % 1280 })
        let s2 := if r + 1 = 1280 then s1.bump (pgTile tile + 0x114) else s1
        if s.segReady tile (r / 160) then s2.scrubFinding tile r found else s2)

/-! ### Berths (R92–R95) -/

namespace State

/-- Two shares meet; a share of size 0 meets nothing (R92). -/
def sharesMeet (b1 n1 b2 n2 : Nat) : Bool := decide (0 < n1) && decide (0 < n2) && decide (b1 < b2 + n2) && decide (b2 < b1 + n1)

/-- A berth's shares may be changed: it is EMPTY or RESIDENT (R93), and no dock of it lands writes before it is EMPTY (R96). -/
def berthIdle (s : State) (t n : Nat) : Bool := !(s.berthInfo t n).emptying && (s.berthState t n = 0 || s.berthState t n = 2)

/-- Units of 16 rows of a berth's store share. -/
def shareUnits (s : State) (t n : Nat) : List Nat := (List.range (s.fld (berthReg t n 0) 22 16)).map (s.fld (berthReg t n 0) 6 0 + ·)

/-- A share must be zeroed before a tenant gets it: another tenant last used a unit of it (R94). -/
def needsZero (s : State) (t n tenant : Nat) : Bool :=
  (s.shareUnits t n).any (fun u => match smFind (s.tile t).unitTenant u with
    | some x => x ≠ tenant
    | none => false)

/-- The units of a berth's share are a tenant's from now on. -/
def claimUnits (s : State) (t n tenant : Nat) : State :=
  s.updTile t (fun T => { T with unitTenant := (s.shareUnits t n).foldl (fun m u => smPut m u tenant) T.unitTenant })

/-- A RESIDENT berth whose new share takes in units that another tenant last used is LOADING until the share has been zeroed (R94). -/
def zeroGrown (s : State) (t n : Nat) : State :=
  if s.berthState t n ≠ 2 then s
  else if s.needsZero t n (s.berthTenant t n) then
    (s.setFld (berthReg t n 8) 17 16 1).updBerth t n (fun b => { b with loading := false, zeroing := true })
  else s.claimUnits t n (s.berthTenant t n)

/-- A write to BERTH_STORE: unlisted encodings keep their field (R13); a share that overlaps another or runs past the store is
refused (R92). -/
def writeBerthStore (s : State) (t n : Nat) (w : Word) : State :=
  if !s.berthIdle t n then s.regAccess (pgBerth t)
  else
    let a := berthReg t n 0
    let b := bitsOf w 6 0
    let z := bitsOf w 22 16
    let b' := if b ≤ 79 then b else s.fld a 6 0
    let z' := if z ≤ 80 then z else s.fld a 22 16
    let meets := (List.range 8).any (fun k => k ≠ n && sharesMeet b' z' (s.fld (berthReg t k 0) 6 0) (s.fld (berthReg t k 0) 22 16))
    if decide (80 < b' + z') || meets then s.regAccess (pgBerth t)
    else
      let s1 := ((s.setFld a 6 0 b').setFld a 22 16 z').zeroGrown t n
      if b ≤ 79 ∧ z ≤ 80 then s1 else s1.regAccess (pgBerth t)

/-- A write to BERTH_IBUF, by the same rules over 32 units of 64 bundles. -/
def writeBerthIbuf (s : State) (t n : Nat) (w : Word) : State :=
  if !s.berthIdle t n then s.regAccess (pgBerth t)
  else
    let a := berthReg t n 4
    let b := bitsOf w 4 0
    let z := bitsOf w 21 16
    let z' := if z ≤ 32 then z else s.fld a 21 16
    let meets := (List.range 8).any (fun k => k ≠ n && sharesMeet b z' (s.fld (berthReg t k 4) 4 0) (s.fld (berthReg t k 4) 21 16))
    if decide (32 < b + z') || meets then s.regAccess (pgBerth t)
    else
      let s1 := (s.setFld a 4 0 b).setFld a 21 16 z'
      if z ≤ 32 then s1 else s1.regAccess (pgBerth t)

/-- A berth is assigned to a tenant: it becomes LOADING when an image loads or the share must be zeroed, else RESIDENT (R93, R94). Units that another tenant
used are the new one's once they are zeroed. -/
def assignBerth (s : State) (t n tenant : Nat) (load : Bool) : State :=
  let z := s.needsZero t n tenant
  let a := berthReg t n 8
  let s1 := ((s.setFld a 11 0 tenant).setFld a 17 16 (if load || z then 1 else 2)).updBerth t n (fun b => { b with loading := load, zeroing := z, emptying := false })
  if z then s1 else s1.claimUnits t n tenant

/-- A write to BERTH_OWNER (R93–R95): RUNNING is the tile's own; a LOADING berth goes to RESIDENT once loaded and zeroed, or to EMPTY. -/
def writeBerthOwner (s : State) (t n : Nat) (w : Word) : State :=
  let st := s.berthState t n
  let v := bitsOf w 17 16
  let tenant := bitsOf w 11 0
  let info := s.berthInfo t n
  if st = 3 || info.emptying then s.regAccess (pgBerth t)
  else if st = 1 then
    if v = 0 then (s.emptyBerth t n).setFld (berthReg t n 8) 11 0 tenant
    else if v = 2 ∧ tenant = s.berthTenant t n ∧ !info.loading ∧ !info.zeroing then s.setFld (berthReg t n 8) 17 16 2
    else s.regAccess (pgBerth t)
  else if v = 3 then
    let s1 := if st = 2 then s.assignBerth t n tenant false else s.setFld (berthReg t n 8) 11 0 tenant
    s1.regAccess (pgBerth t)
  else if v = 0 then
    let s1 := if st = 2 then s.emptyBerth t n else s
    s1.setFld (berthReg t n 8) 11 0 tenant
  else s.assignBerth t n tenant (v = 1)

/-- A write to BERTH_HANDLE (R93). -/
def writeBerthHandle (s : State) (t n : Nat) (w : Word) : State :=
  if !s.berthIdle t n then s.regAccess (pgBerth t) else s.setReg (berthReg t n 12) w

/-! ### Docks (R96–R100) -/

/-- A write to DOCK_CTL: BERTH only while CLOSED; OPEN and CLOSE together are unlisted; a refused open is recorded (R96, R100). -/
def writeDockCtl (s : State) (t k : Nat) (w : Word) : State :=
  let a := dockReg t k 0
  let closed := s.fld a 1 0 = 0
  let bad := !closed && bitsOf w 10 8 ≠ s.fld a 10 8
  let s1 := if closed then s.setFld a 10 8 (bitsOf w 10 8) else s
  let s2 := if bad then s1.regAccess (pgDock t) else s1
  let opens := bitsOf w 4 4 = 1
  let closes := bitsOf w 5 5 = 1
  if opens && closes then (if bad then s2 else s2.regAccess (pgDock t))
  else if opens then
    if s2.dockOpenOk t k then s2.openDock t k else (if bad then s2 else s2.regAccess (pgDock t))
  else if closes then s2.closeDock t k
  else s2

/-- A write to DOCK_RANGE: BASE and ROWS only while CLOSED; ROWS 1–1,280 (R100). -/
def writeDockRange (s : State) (t k : Nat) (w : Word) : State :=
  let a := dockReg t k 4
  let closed := s.fld (dockReg t k 0) 1 0 = 0
  let b := bitsOf w 10 0
  let n := bitsOf w 26 16
  let listed := 1 ≤ n && n ≤ 1280
  if closed then
    let s1 := s.setFld a 10 0 b
    if listed then s1.setFld a 26 16 n else s1.regAccess (pgDock t)
  else if b ≠ s.fld a 10 0 ∨ n ≠ s.fld a 26 16 then s.regAccess (pgDock t)
  else s

end State

/-- BERTH_STORE written (R92, R93, R95). -/
def execBerthStore (who : Writer) (tile : Nat) (n : Nat) (w : Word) (s : State) : Res :=
  whenLive s (fun s => s.regWrite who (State.berthReg tile n 0) (fun s => s.onPair tile (fun s t => s.writeBerthStore t n w)))
/-- BERTH_IBUF written. -/
def execBerthIbuf (who : Writer) (tile : Nat) (n : Nat) (w : Word) (s : State) : Res :=
  whenLive s (fun s => s.regWrite who (State.berthReg tile n 4) (fun s => s.onPair tile (fun s t => s.writeBerthIbuf t n w)))
/-- BERTH_OWNER written. -/
def execBerthOwner (who : Writer) (tile : Nat) (n : Nat) (w : Word) (s : State) : Res :=
  whenLive s (fun s => s.regWrite who (State.berthReg tile n 8) (fun s => s.onPair tile (fun s t => s.writeBerthOwner t n w)))
/-- BERTH_HANDLE written. -/
def execBerthHandle (who : Writer) (tile : Nat) (n : Nat) (w : Word) (s : State) : Res :=
  whenLive s (fun s => s.regWrite who (State.berthReg tile n 12) (fun s => s.onPair tile (fun s t => s.writeBerthHandle t n w)))

/-- DOCK_CTL written with OPEN (R96, R100). -/
def execDockOpen (who : Writer) (tile : Nat) (k : Nat) (w : Word) (s : State) : Res :=
  whenLive s (fun s => s.regWrite who (State.dockReg tile k 0) (fun s => s.onPair tile (fun s t => s.writeDockCtl t k w)))
/-- DOCK_CTL written with CLOSE (R98, R100). -/
def execDockClose (who : Writer) (tile : Nat) (k : Nat) (w : Word) (s : State) : Res :=
  whenLive s (fun s => s.regWrite who (State.dockReg tile k 0) (fun s => s.onPair tile (fun s t => s.writeDockCtl t k w)))
/-- BERTH, BASE or ROWS of a dock written: `ctl` tells DOCK_CTL from DOCK_RANGE (R100). -/
def execDockRange (who : Writer) (tile : Nat) (k : Nat) (ctl : Bool) (w : Word) (s : State) : Res :=
  whenLive s (fun s => s.regWrite who (State.dockReg tile k (if ctl then 0 else 4))
    (fun s => s.onPair tile (fun s t => if ctl then s.writeDockCtl t k w else s.writeDockRange t k w)))

/-! ### Dock writes (R97–R99, R101) -/

/-- The header of a dock write as the ingress checks it: source, tenant, dock, offset and rows. -/
structure DockHeader where
  src : DockSource
  tenant : Nat
  dock : Nat
  offset : Nat
  rows : List (List Byte)
deriving DecidableEq, Repr

namespace State

/-- A dock's permitted sources hold a source (R96, R100). -/
def dockAdmits (s : State) (t k : Nat) (src : DockSource) : Bool :=
  match src with
  | .tile u _ => s.fld (dockReg t k (0x18 + 4 * (u / 32))) (u % 32) (u % 32) = 1
  | .seat n _ _ _ _ _ => s.fld (dockReg t k (0x20 + 4 * (n / 32))) (n % 32) (n % 32) = 1

/-- First outcome of R97 for a header. -/
def dockCheck (s : State) (t : Nat) (h : DockHeader) : Option Nat :=
  if s.fld (dockReg t h.dock 0) 1 0 ≠ 1 then some msDockClosed
  else if !s.dockAdmits t h.dock h.src || h.tenant ≠ s.berthTenant t (s.fld (dockReg t h.dock 0) 10 8) then some msDockSource
  else if (s.dockRows t h.dock).2 < h.offset + h.rows.length then some msDockBounds
  else none

/-- Rows waiting in a tile's ingress buffer. -/
def ingressRows (s : State) (t : Nat) : Nat := (s.tile t).ingress.foldl (fun n w => n + w.rows.length) 0

/-- A refused header is counted in its dock, in both tiles of a pair (R97). -/
def countRefused (s : State) (t k status : Nat) : State :=
  forEach (s.landTiles t) s (fun s u =>
    (s.bump (dockReg u k (if status = msDockClosed then 0x0C else 0x10))).countEvent (pgTileCnt u) 0x0F)

/-- An accepted write waits in the ingress buffer. -/
def acceptDock (s : State) (t : Nat) (h : DockHeader) : State :=
  s.updTile t (fun T => { T with ingress := T.ingress ++
    [{ dock := h.dock, first := (s.dockRows t h.dock).1 + h.offset, rows := h.rows, src := h.src }] })

/-- A tile's dock write that has been refused, or has landed: its move learns it (R97, R127). The move is known by its operation number. -/
def answerMove (s : State) (t op : Nat) (status : Option Nat) : State :=
  s.updTile t (fun T => { T with moves := T.moves.map (fun m =>
    if m.op = op && m.sent && !m.landed then (match status with
      | some st => { m with status := some st, landed := true }
      | none => { m with landed := true }) else m) })

/-- What the ingress of tile `t` answers to the header of a queued dock write of tile `u`. -/
def dockStatus (s : State) (t u : Nat) (m : Move) : Option Nat :=
  match m.kind with
  | .dockWrite _ n _ _ dk off =>
    s.dockCheck t { src := .tile u 0, tenant := s.runTenant u, dock := dk, offset := off, rows := List.replicate n [] }
  | _ => none

/-- The rows of a dock write leave its tile: they are read with the corrector's findings (R70), a poisoned row is never sent (R71), and `go` takes them on. The range of
the move then leaves the scoreboard (R77, R87). -/
def sendRows (s : State) (u idx : Nat) (m : Move) (r n : Nat) (ecc eccF : List (Nat × Bool)) (go : State → List (List Byte) → State) : State :=
  s.withReads u m ecc eccF (fun s =>
    if (List.range n).any (fun j => (s.tile u).poison.contains (r + j)) then (s.poisonMove u idx (Delivery.plain msOk)).hwFault (tileSuspect u)
    else go s ((List.range n).map (fun j => s.rowBytes u (r + j))))

/-- The state with a tile's move replaced. -/
def setMove (s : State) (u idx : Nat) (m : Move) : State := s.updTile u (fun T => { T with moves := T.moves.set idx m })

/-- A dock write for another seat leaves its tile, once the window to the seat has room (R380, R381). -/
def seatWrite (s : State) (u idx seat tl dk off r n : Nat) (m : Move) (ecc eccF : List (Nat × Bool)) : State :=
  if !s.seatReachable seat then s.setMove u idx { m with status := some msUnmapped, ranges := [] }
  else if !s.roomFor seat then s
  else s.sendRows u idx m r n ecc eccF (fun s rows =>
    let x := s.startOp seat u (s.runTenant u) .dockWrite (fun op => .dockWrite op tl dk off rows)
    ((x.2.setMove u idx { m with sent := true, op := x.1, ranges := [] }).countEvent (pgTileCnt u) 0x0B 0 (512 * n)).travelTo u
      (4 + x.2.convoy.lastPort / 2) (outRegion 68) (8 * n))

/-- A queued dock write of a tile leaves it: to the ingress of a tile of this device, where it is refused, held for space, or accepted (R97), or to a seat. Nothing
leaves in a gated cycle of the sender (R78) or in a recovery (R318). -/
def tileHeader (s : State) (dst u idx : Nat) (ecc eccF : List (Nat × Bool)) : State :=
  match (s.tile u).moves[idx]? with
  | none => s
  | some m =>
    match m.kind with
    | .dockWrite r n seat tl dk off =>
      let t := s.ingressTile dst
      if m.sent || m.status.isSome || s.follows u || s.gated u || s.safety.phase ≠ .none then s
      else match seat with
      | some seat => if tl = dst then s.seatWrite u idx seat tl dk off r n m ecc eccF else s
      | none =>
        if s.ingressTile tl ≠ t then s
        else if (s.dockStatus t u m).isNone && decide (32 < s.ingressRows t + n) then s
        else s.sendRows u idx m r n ecc eccF (fun s rows =>
          let op := s.convoy.nextOp
          let h : DockHeader := { src := .tile u op, tenant := s.runTenant u, dock := dk, offset := off, rows := rows }
          match s.dockCheck t h with
          | some st => (s.setMove u idx { m with status := some st, sent := true, landed := true, ranges := [] }).countRefused t dk st
          | none => ((((s.updConvoy (fun c => { c with nextOp := op + 1 })).setMove u idx { m with sent := true, op := op, ranges := [] }).acceptDock t h).countEvent
              (pgTileCnt u) 0x0B 0 (512 * n)).travelTo u (dieOf t) (outRegion t) (8 * n))
    | _ => s

/-- A dock write of another seat reaches the ingress: refused with its completion sent, or accepted (R97, R381). Its rows come from a convoy port (R38). -/
def seatHeader (s : State) (port dst seat op tenant dock offset : Nat) (rows : List (List Byte)) : State :=
  let t := s.ingressTile dst
  let h : DockHeader := { src := .seat seat op tenant dock offset rows, tenant := tenant, dock := dock, offset := offset, rows := rows }
  if !s.tilePresent t then (s.recordErr pgCvy 0x5101).respond seat tenant op msUnmapped
  else match s.dockCheck t h with
    | some st => (s.countRefused t dock st).respond seat tenant op st
    | none => if 32 < s.ingressRows t + rows.length then s
      else (s.acceptDock t h).travelTo (sourceConvoy port) (dieOf t) (outRegion t) (8 * rows.length)

/-- The oldest accepted write lands in full: ARRIVED counts its rows, a CLOSING dock with nothing left becomes CLOSED, and the sender
gets status OK (R97, R98). -/
def landDock (s : State) (t : Nat) : State :=
  match (s.tile t).ingress with
  | [] => s
  | w :: ws =>
    let n := w.rows.length
    let s1 := s.updTile t (fun T => { T with ingress := ws })
    let left := ws.any (fun x => x.dock = w.dock)
    let s2 := forEach (s.landTiles t) s1 (fun s u => State.settleBerths (
      let s' := s.write (rowAddr u w.first) (w.rows.flatMap (fun r => r))
      let s'' := s'.updTile u (fun T => { T with poison := T.poison.filter (fun r => r < w.first || w.first + n ≤ r) })
      let s3 := (s''.bump (dockReg u w.dock 8) n).countEvent (pgTileCnt u) 0x0E 0 n
      if !left && s3.fld (dockReg u w.dock 0) 1 0 = 2 then s3.setFld (dockReg u w.dock 0) 1 0 0 else s3) u)
    match w.src with
    | .tile u op => s2.answerMove u op none
    | .seat seat op tenant _ _ _ => s2.respond seat tenant op msOk

end State

/-- REMOTE_WRITE: the header of a dock write is checked at a tile's ingress (R97), or a dock write for another seat leaves for it (R381); `ecc` and `eccF` are the findings of
the sender's reads (R70). By which convoy port another seat's write comes is open (log entry 33). -/
def execRemoteWrite (tile : Nat) (src : DockSource) (ecc eccF : List (Nat × Bool)) (s : State) : Res :=
  whenLive s (fun s =>
    match src with
    | .tile t move => s.tileHeader tile t move ecc eccF
    | .seat seat op tenant dock offset rows =>
      if dock < 16 ∧ 1 ≤ rows.length ∧ rows.length ≤ 8 then
        let x := s.fresh
        x.2.seatHeader (x.1 % 4) tile seat op tenant dock offset rows
      else s)

/-- DOCK_WRITE_LANDED: the last row of the oldest accepted write lands (R97, R98). -/
def execDockWriteLanded (tile : Nat) (s : State) : Res :=
  whenLive s (fun s => s.landDock (s.ingressTile tile))

/-! ### Events and budgets -/

/-- EVENT_ARRIVAL: an event that a SIGNAL sent lands if its tile runs a waybill of the sender's tenant (one that has started), and is discarded and counted
otherwise (R121); both tiles of a pair get it. -/
def execEventArrival (tile : Nat) (bit : Nat) (tenant : Nat) (s : State) : Res :=
  whenLive s (fun s =>
    if !s.signals.contains (tile, bit, tenant) then s
    else
      let s1 : State := { s with signals := s.signals.erase (tile, bit, tenant) }
      forEach (s1.landTiles tile) s1 (fun s u =>
        if (s.tile u).wid.isSome && s.fld (pgTile u + 0x100) 2 0 = 2 && s.runTenant u = tenant then
          s.updTile u (fun T => { T with events := T.events ||| (BitVec.ofNat 16 (2 ^ bit)) })
        else s.countEvent (pgTileCnt u) 0x10))

/-- BUDGET_EXHAUSTED: a running tile's budget has reached 0 and its waybill alone is aborted as an overrun (R240); in a pair the
leader's count rules. -/
def execBudgetExhausted (tile : Nat) (s : State) : Res :=
  whenLive s (fun s =>
    match (s.tile tile).wid with
    | none => s
    | some wid =>
      if s.follows tile || (s.tile tile).stopped || decide (s.cyclesCharged tile < (s.tile tile).budget) then s
      else s.abortWork wid csOverrun 0)

end Sys2Proof.Machine
end

