-- ==== Sys2Proof/Machine/Placement.lean ====
section
/-! DEFINITION. The dispatcher's search (R234–R236), placement on tiles and pairs (R237, R238), the pins and pages of a batch step
(R206, R217), and the start of placed work (R239). -/

namespace Sys2Proof.Machine

open Sys2Proof

namespace State

/-! ### Units -/

/-- The device runs the timetable: drive service, or a drive-to-depot handover that has not yet decoupled (R51, R53). -/
def driveRuns (s : State) : Bool :=
  s.driveReady && (s.service = 1 || (s.service = 3 && (match s.svc with
    | some h => h.toDepot && decide (h.step ≤ 2)
    | none => false)))

/-- A tile runs or holds work: a waybill or task is placed on it. -/
def tileTaken (s : State) (t : Nat) : Bool := (s.tile t).wid.isSome || s.disp.placements.any (fun p => p.tiles.contains t)

/-- A tile is in service (R237): populated, not isolated, retired or under test. -/
def tileServes (s : State) (t : Nat) : Bool := s.tilePresent t && (s.tile t).health = .inService

/-- A tile is free in depot service (R237, R331, R478). -/
def tileFree (s : State) (t : Nat) : Bool :=
  s.tileServes t && !s.tileTaken t && !s.safeBit 0x10C t && !(s.tile t).testAsked

/-- Both tiles of a pair serve and are coupled. -/
def pairServes (s : State) (p : Nat) : Bool := s.tileServes (2 * p) && s.tileServes (2 * p + 1) && (s.tile (2 * p)).coupled

/-- A self-test segment runs on a pair (R330): it takes at most 30 µs (R329). -/
def segmentRuns (s : State) (p : Nat) : Bool := (s.tile (2 * p)).segment.any (fun t => decide (s.now < t + 30000))

/-- A pair is free when its leader is (R237); one withdrawn under R331 stays out of safety-rank work. -/
def pairFree (s : State) (p : Nat) (safetyRank : Bool) : Bool :=
  s.pairServes p && !s.tileTaken (2 * p) && !s.disp.proving.contains p && !(s.tile (2 * p)).testAsked && !(s.tile (2 * p + 1)).testAsked
    && !s.segmentRuns p
    && !(safetyRank && (s.safeBit 0x10C (2 * p) || s.safeBit 0x10C (2 * p + 1)))

/-- Tiles or pairs in service (R236). -/
def unitsInService (s : State) (pairs : Bool) : Nat :=
  if pairs then ((List.range 32).filter s.pairServes).length else ((List.range 64).filter s.tileServes).length

/-- A tile holds the context of a waybill: a RESIDENT berth with its HANDLE, TENANT, STORE16 and IBUF64 (R237). -/
def contextBerth (s : State) (t : Nat) (wb : Waybill) : Option Nat :=
  (List.range 8).find? (fun n => s.berthState t n = 2 && !(s.berthInfo t n).emptying && (s.reg (berthReg t n 12)).toNat = wb.handle && s.berthTenant t n = wb.tenant
    && s.fld (berthReg t n 0) 22 16 = wb.store16 && s.fld (berthReg t n 4) 21 16 = wb.ibuf64)

/-- Units in pool order: those that hold the context first, then the others (R237). -/
def pickUnits (order : List Nat) (free holds : Nat → Bool) (n : Nat) : Option (List Nat) :=
  let a := (order.filter (fun u => free u && holds u)).take n
  let b := (order.filter (fun u => free u && !a.contains u)).take (n - a.length)
  if a.length + b.length = n then some (a ++ b) else none

/-! ### Berths (R238) -/

/-- Lowest start of a free run of `n` among shares that occupy `used` of `most`. -/
def firstFit (used : List (Nat × Nat)) (n most : Nat) : Option Nat :=
  (List.range (most + 1 - n)).find? (fun b => !used.any (fun u => sharesMeet b n u.1 u.2))

/-- The berth and shares for a waybill once the berths of `drop` count as empty and their shares as free. -/
def berthFor (s : State) (t : Nat) (wb : Waybill) (drop : List Nat) : Option (Nat × Nat × Nat) :=
  let keep := (List.range 8).filter (fun n => !drop.contains n)
  match (List.range 8).find? (fun n => s.berthState t n = 0 || drop.contains n) with
  | none => none
  | some n =>
    let others := keep.filter (· ≠ n)
    match firstFit (others.map (fun k => (s.fld (berthReg t k 0) 6 0, s.fld (berthReg t k 0) 22 16))) wb.store16 80,
          firstFit (others.map (fun k => (s.fld (berthReg t k 4) 4 0, s.fld (berthReg t k 4) 21 16))) wb.ibuf64 32 with
    | some b, some c => some (n, b, c)
    | _, _ => none

/-- The RESIDENT berths of a tile, least recently run first. -/
def evictOrder (s : State) (t : Nat) : List Nat :=
  ((List.range 8).filter (fun n => s.berthState t n = 2)).foldl (fun l n =>
    l.takeWhile (fun k => (s.berthInfo t k).lastRun ≤ (s.berthInfo t n).lastRun) ++ [n]
      ++ l.dropWhile (fun k => (s.berthInfo t k).lastRun ≤ (s.berthInfo t n).lastRun)) []

/-- The berths to empty and the berth to take: as few of the least recently run as let the shares fit. -/
def chooseBerth (s : State) (t : Nat) (wb : Waybill) : Option (List Nat × Nat × Nat × Nat) :=
  let ev := s.evictOrder t
  let spare := (List.range 8).filter (fun n => s.berthState t n = 0 && s.fld (berthReg t n 0) 22 16 + s.fld (berthReg t n 4) 21 16 ≠ 0)
  let all := ev ++ spare
  (List.range (all.length + 1)).findSome? (fun k => (s.berthFor t wb (all.take k)).map (fun x => (all.take k, x.1, x.2.1, x.2.2)))

/-- A berth that is emptied still has accepted dock writes to land: it holds its shares until its docks are CLOSED (R96, R98). -/
def berthLands (s : State) (t n : Nat) : Bool :=
  (List.range 16).any (fun k => s.fld (dockReg t k 0) 10 8 = n && (s.fld (dockReg t k 0) 1 0 = 2 || (s.fld (dockReg t k 0) 1 0 = 1 && s.dockPending t k)))

/-- Selects a berth of a tile for work (R238): a RESIDENT context runs without loading, any other berth is LOADING. `none`: a berth that has to become EMPTY first
still lands dock writes. -/
def takeBerth (s : State) (t : Nat) (wb : Waybill) : Option State :=
  match s.contextBerth t wb with
  | some n => some ((s.setFld (berthReg t n 8) 17 16 3).setFld (pgTile t + 0x100) 10 8 n)
  | none =>
    match s.chooseBerth t wb with
    | none => none
    | some (drop, n, b, c) =>
      if drop.any (s.berthLands t) then none else
      let s1 := forEach drop s (fun s k => s.emptyBerth t k)
      let s2 := ((s1.setFld (berthReg t n 0) 6 0 b).setFld (berthReg t n 0) 22 16 wb.store16)
      let s3 := ((s2.setFld (berthReg t n 4) 4 0 c).setFld (berthReg t n 4) 21 16 wb.ibuf64).setReg (berthReg t n 12) (BitVec.ofNat 32 wb.handle)
      some ((s3.assignBerth t n wb.tenant true).setFld (pgTile t + 0x100) 10 8 n)

/-- Selects a berth on every tile of a placement; the tiles are stopped until the start. -/
def takeBerths (s : State) (wid : Nat) (wb : Waybill) : List Nat → Option State
  | [] => some s
  | t :: ts =>
    match s.takeBerth t wb with
    | none => none
    | some s1 => takeBerths (s1.updTile t (fun T => { T with wid := some wid, stopped := true })) wid wb ts

/-- The berths that placed work would take on its tiles are emptied, where their docks still land writes; its placement is tried again (R96, R238). -/
def clearBerths (s : State) (wb : Waybill) (tiles : List Nat) : State :=
  forEach tiles s (fun s t =>
    if (s.contextBerth t wb).isSome then s
    else match s.chooseBerth t wb with
      | none => s
      | some x => forEach (x.1.filter (s.berthLands t)) s (fun s n => s.emptyBerth t n))

/-- A berth of placed work is loaded and zeroed (R93, R94). -/
def berthDone (s : State) (t : Nat) : Bool :=
  let n := s.berth t
  s.berthState t n = 3 || (s.berthState t n = 1 && !(s.berthInfo t n).loading && !(s.berthInfo t n).zeroing)

/-- The first 40 ns window boundary at least 1 µs from now (R238). -/
def startBoundary (s : State) : Nat := (s.now + 1000 + 39) / 40 * 40

/-- Once the last berth of a placement is ready, its berths are RUNNING and its start is set (R238). -/
def checkReady (s : State) (wid : Nat) : State :=
  match s.placed wid with
  | none => s
  | some p =>
    if p.waiting || p.started || p.ended || p.readyAt.isSome || !p.tiles.all s.berthDone then s
    else
      let s1 := forEach p.tiles s (fun s t => s.setFld (berthReg t (s.berth t) 8) 17 16 3)
      s1.updPlaced wid (fun q => { q with readyAt := some s.startBoundary })

/-! ### Batch steps (R193, R206, R217) -/

/-- Sequences of a step record, in index order. -/
def stepTags (s : State) (a : Nat) : List Nat := (List.range (s.srNseq a)).map (s.srTag a)

/-- A sequence of a step is not open, or another tenant's (R206). -/
def stepForeign (s : State) (wb : Waybill) : Bool :=
  (s.stepTags wb.arg0).any (fun n => (s.seq n).state ≠ .opened || (s.seq n).tenant ≠ wb.tenant)

/-- Attention length of sequence `j` and its bucket (R217). -/
def stepLen (s : State) (a j : Nat) : Nat := s.srStart a j + s.srCount a j
def stepBucket (s : State) (a j : Nat) : Nat := ((List.range 7).filter (fun k => 512 * 2 ^ k < s.stepLen a j)).length

/-- The bucketer (R217): ORDER, and FIRST, N and PADLEN of every bucket. -/
def bucketSort (s : State) (a : Nat) : State :=
  let js := List.range (s.srNseq a)
  let bs := (List.range 8).map (fun k => js.filter (fun j => s.stepBucket a j = k))
  let s1 := s.devWrite (a + 0xC200) ((bs.flatMap (fun l => l)).flatMap (natLE 2))
  forEach (List.range 8) s1 (fun s k =>
    let first := (bs.take k).foldl (fun n l => n + l.length) 0
    s.devWrite (a + 0x10 + 8 * k) (natLE 2 first ++ natLE 2 (bs.getD k []).length ++ natLE 4 (512 * 2 ^ k)))

/-- Writes NOT_RUN into the RESULT words of a step (R195). -/
def notRun (s : State) (a : Nat) : State :=
  forEach (List.range (s.srNseq a)) s (fun s j => s.devWrite (a + 0x8200 + 4 * j) (natLE 4 2))

/-- Pins one sequence of a step (R206, step 1); an allocation that goes on after a wait finds it pinned. -/
def pinSeq (s : State) (n : Nat) : State :=
  if (s.seq n).pinned then s else s.setSeq n { s.seq n with pinned := true, lastServed := s.now }

/-- A lost step that is placed again has its sequences pinned already; LAST_SERVED is the time of this placement (R203, R206). -/
def serveAgain (s : State) (tags : List Nat) : State :=
  forEach tags s (fun s n => if (s.seq n).pinned then s.setSeq n { s.seq n with lastServed := s.now } else s)

/-- In mode 1 the bucketer sorts a step at its placement, before the checks of R206 (R217). A record that cannot be read is not sorted (R294, R306). -/
def sortStep (s : State) (a : Nat) : State :=
  if s.srMode a = 1 && decide (s.srNseq a ≤ 4096) && !s.devMarked a recordBytes && !s.devHeld a recordBytes then s.bucketSort a else s

/-- Spans that step 2 of R206 maps for sequence `j`. -/
def stepSpans (s : State) (a j : Nat) : List Nat :=
  let q := s.seq (s.srTag a j)
  let last := s.srStart a j + s.srCount a j
  if s.srCount a j = 0 ∨ s.srStart a j ≠ q.kvLen ∨ min q.tokens q.lmax < last then []
  else (List.range ((last - 1) / 32 + 1 - q.mappedSpans)).map (q.mappedSpans + ·)

/-- Pages of those spans. -/
def stepPages (s : State) (a j : Nat) : List Nat :=
  (s.stepSpans a j).flatMap (fun sp => (s.seq (s.srTag a j)).spanPages sp)

/-- Maps a sequence's spans and raises MAPPED_SPANS. -/
def mapSpans (s : State) (a j : Nat) : State :=
  let n := s.srTag a j
  let s1 := forEach (s.stepPages a j) s (fun s p => s.mapPage n p)
  s1.setSeq n { s1.seq n with mappedSpans := (s.seq n).mappedSpans + (s.stepSpans a j).length }

/-- Spans that the sequences hold mapped: a bound on what the drop engine can take. -/
def spansMapped (s : State) : Nat := s.ledger.seqs.foldl (fun n e => n + e.2.mappedSpans) 0

/-- Steps 1 and 2 of R206 for the sequences `js`: `some true` done, `some false` waits for pages that the drop engine took, `none` short. -/
def allocSteps (a : Nat) : List Nat → State → State × Option Bool
  | [], s => (s, some true)
  | j :: js, s0 =>
    let s := s0.pinSeq (s0.srTag a j)
    let need := (s.stepPages a j).length
    if need ≤ s.freePages then allocSteps a js (s.mapSpans a j)
    else
      let s1 := (dropUntil need s.spansMapped s).releasePages
      if need ≤ s1.freePages then allocSteps a js (s1.mapSpans a j)
      else if s1.ledger.pending.any (·.drop) then (s1, some false) else (s1, none)

/-- A stack that supplies pages is in self-refresh: the zeroing of a page that it supplies would wait, and with it the allocation (R206, R306). -/
def poolHalted (s : State) : Bool := s.sites.any (fun d => s.fld (pgDramc d + 0x100) 4 3 = 1)

/-! ### Ends of work that never started -/

/-- Placed work that never started ends with a status: berths still loading become EMPTY, its sequences are unpinned (R206, R238). -/
def endUnstarted (s : State) (wid status : Nat) : State :=
  match s.placed wid with
  | none => s
  | some p =>
    if p.ended then s else
    let s1 := forEach p.pinned s (fun s n => s.unpin n)
    let s2 := forEach p.tiles s1 (fun s t => if s.berthState t (s.berth t) = 1 then s.emptyBerth t (s.berth t) else s)
    match p.entry with
    | some e =>
      let s3 := (s2.freeUnits p).dropPlaced wid
      if s3.disp.lastFrameAt ≤ p.releaseClk then s3.setEntryRun e { s3.entryRun e with phase := .ended } else s3
    | none => (s2.updPlaced wid (fun q => { q with ended := true, status := status, pinned := [] })).completePlaced p status

/-- Continues a placement whose allocation was waiting (R206). -/
def continueStep (s : State) (wid : Nat) : State :=
  match s.placed wid with
  | none => s
  | some p =>
    if !p.waiting || s.devHeld p.wb.arg0 recordBytes || s.poolHalted then s
    else if s.devMarked p.wb.arg0 recordBytes then s.devPoison p.wb.arg0 recordBytes
    else
      let x := allocSteps p.wb.arg0 (List.range (s.srNseq p.wb.arg0)) s
      match x.2 with
      | some true => (x.1.updPlaced wid (fun q => { q with waiting := false })).checkReady wid
      | some false => x.1
      | none => (x.1.bump (pgLedger + 0x120)).endUnstarted wid 0x0006

/-! ### Heads of rings -/

/-- What a ring's head is, to the search. -/
def headWaybill (s : State) (r : Nat) : Waybill := Waybill.of (s.ringEntry r (s.ring r).head.toNat)

/-- The status with which a head completes whenever a search meets it (R229, R236). -/
def headPurge (s : State) (wb : Waybill) : Option Nat :=
  if wb.deadline ≠ 0 ∧ wb.deadline < s.now then some csDeadlineMissed
  else if (s.programOf wb.handle wb.tenant).isNone then some csHandleBad
  else if s.unitsInService (s.service ≠ 2) < wb.tiles then some csTooBig
  else none

/-- The status with which a batch step completes at its placement without running: its budget against the tick of depot service (R193), then
its record and its descriptors (R206). -/
def stepRefused (s : State) (wb : Waybill) : Option Nat :=
  if s.service = 2 && decide (s.tickCycles < wb.budget) then some csStepTooLong
  else if s.stepBad wb || s.stepForeign wb then some csStepFormat
  else none

/-- The window in which depot service places batch steps: the first 1 µs after a tick (R193, R235). -/
def stepWindow (s : State) : Bool :=
  s.service ≠ 2 || s.disp.lastTick.any (fun t => decide (s.now < t + 1000))

/-- A head must stay where it is for now: a batch step outside the first 1 µs after a tick, or a step that would be placed and has a
pinned sequence (R235), or whose record or pages lie in a stack in self-refresh (R306). A record with a marked line is read, and is poison (R294). -/
def headStays (s : State) (wb : Waybill) : Bool :=
  s.servingStep wb && (!s.stepWindow || s.devHeld wb.arg0 recordBytes || (!s.devMarked wb.arg0 recordBytes && (s.stepRefused wb).isNone
    && (s.poolHalted || (s.stepTags wb.arg0).any (fun n => (s.seq n).pinned))))

/-- The entry at a ring's head lies in a stack in self-refresh (R306), or holds a marked line (R294). -/
def headHeld (s : State) (r : Nat) : Bool := s.devHeld ((s.ring r).entryAddr (s.ring r).head.toNat) 64
def headMarked (s : State) (r : Nat) : Bool := s.devMarked ((s.ring r).entryAddr (s.ring r).head.toNat) 64

/-- In its window a step is sorted before the checks of R206, whatever they find (R217). -/
def sortHead (s : State) (wb : Waybill) : State :=
  if s.servingStep wb && s.stepWindow then s.sortStep wb.arg0 else s

/-- Completes the heads of a ring that will never be placed; `fuel` bounds them. -/
def purgeRing (r : Nat) : Nat → State → State
  | 0, s => s
  | fuel + 1, s =>
    if (s.ring r).fill = 0 || s.headHeld r || s.headMarked r then s
    else match s.headPurge (s.headWaybill r) with
      | none => s
      | some st =>
        let idx := (s.ring r).head.toNat
        let s1 := if st = csDeadlineMissed then s.bump (pgDispatch + 0x174) else s
        purgeRing r fuel ((s1.takeHead r).completeUnrun (s.headWaybill r) idx st)

/-- A ring is served: a bank ring is, on a BANK, for the entry whose TAG is the step's (R388). -/
def ringServed (s : State) (r : Nat) : Bool :=
  match s.bankOf r with
  | none => true
  | some n => match (s.consist n).bankStep with
    | none => false
    | some step => (s.ring r).fill ≠ 0 && (s.headWaybill r).tag = step % 65536

/-- First ring of a list whose head may be placed now; empty rings lose their bit (R232, R235). -/
def scanRings : List Nat → State → State × Option Nat
  | [], s => (s, none)
  | r :: rs, s =>
    let s1 := purgeRing r (if (s.bankOf r).isNone then (s.ring r).fill else 1) s
    if (s1.ring r).fill = 0 then scanRings rs (s1.retireBell r)
    else if !s1.ringServed r then scanRings rs s1
    else if s1.headHeld r then scanRings rs s1
    else if s1.headMarked r then (s1, some r)
    else
      let s2 := s1.sortHead (s1.headWaybill r)
      if s2.headStays (s2.headWaybill r) then scanRings rs s2 else (s2, some r)

/-- Work rings of a class whose bit is set, of tenants that are served (R233, R235, R42); a bank ring is served only on a BANK (R388). -/
def readyRings (s : State) (c : Nat) : List Nat :=
  (s.disp.rings.filter (fun e => e.2.kind = 0 && ringClass e.1 = c && s.bellBit e.1 && s.ringServed e.1 && (smGet s.disp.tenants (0, 0, 0) (ringTenant e.1)).1 ≠ 0
    && (ringTenant e.1 = 0 || s.depotOpen))).map (·.1)

/-- A class's cursor; before the first search it stands before the lowest tenant. -/
def cursor (s : State) (c : Nat) : ClassCursor := smGet s.disp.classes { tenant := 4095, left := 0, rings := [], held := none } c
/-- The state with a class's cursor replaced. -/
def setCursor (s : State) (c : Nat) (k : ClassCursor) : State := s.updDisp (fun d => { d with classes := smPut d.classes c k })

/-- The next ready tenant after one, in ascending order, wrapping. -/
def nextTenant (s : State) (c t : Nat) : Option Nat :=
  let ts := (s.readyRings c).map ringTenant
  match ts.find? (fun x => t < x) with
  | some x => some x
  | none => ts.head?

/-- The search of R235 in one class; `fuel` is its 4,097 turns. -/
def nextIn (c : Nat) : Nat → State → State × Option Nat
  | 0, s => (s, none)
  | fuel + 1, s =>
    let k := s.cursor c
    let turn : Option ClassCursor :=
      if k.left = 0 || !((s.readyRings c).any (fun r => ringTenant r = k.tenant)) then
        (s.nextTenant c k.tenant).map (fun t => { k with tenant := t, left := (smGet s.disp.tenants (0, 0, 0) t).1 })
      else some k
    match turn with
    | none => (s, none)
    | some k1 =>
      let mine := (s.readyRings c).filter (fun r => ringTenant r = k1.tenant)
      let order := match smFind k1.rings k1.tenant with
        | none => mine
        | some l => mine.filter (fun r => l < r % 128) ++ mine.filter (fun r => r % 128 ≤ l)
      let x := scanRings order (s.setCursor c k1)
      match x.2 with
      | none => nextIn c fuel (x.1.setCursor c { k1 with left := 0 })
      | some r => (x.1.setCursor c { k1 with rings := smPut k1.rings k1.tenant (r % 128), left := k1.left - 1 }, some r)

/-! ### Slack (R248) -/

/-- Window of a timetable entry contains a slot and its pool a pair. -/
def entryCovers (tt : Timetable) (e : TTEntry) (p k : Nat) : Bool :=
  bitAt (tt.pools.getD e.pool 0).toNat p && e.release ≤ k && k < e.deadline

/-- A pair is slack in slot `k` of the running frame: its bit in the slack table, or every entry that could occupy it has ended or been
shed. Past the last slot lies the gap, where every pair is slack (R254), as with no frame running (log entry 37). -/
def slackAt (s : State) (p k : Nat) : Bool :=
  match s.disp.tt with
  | none => true
  | some tt =>
    if !s.disp.inFrame then true
    else if k < tt.slots then
      bitAt (tt.slack.getD k 0).toNat p || (List.range tt.entries.length).all (fun i =>
        match tt.entries[i]? with
        | none => true
        | some e => !entryCovers tt e p k || (s.entryRun i).phase = .ended || (s.entryRun i).phase = .shed)
    else true

/-- The running slot (R247). -/
def slotNow (s : State) : Nat := (s.now - s.disp.frameStart) / 50000

/-- A pair is slack from the running slot through the one in which a budget ends. -/
def slackFor (s : State) (p budget : Nat) : Bool :=
  let k := s.slotNow
  (List.range ((s.now + 2 * budget - s.disp.frameStart) / 50000 + 1 - k)).all (fun i => s.slackAt p (k + i))

/-! ### Placing -/

/-- Units for a waybill: free tiles in depot service, free slack pairs in drive service (R237, R248). -/
def unitsFor (s : State) (wb : Waybill) : Option (List Nat) :=
  if s.service = 2 then pickUnits s.disp.order s.tileFree (fun t => (s.contextBerth t wb).isSome) wb.tiles
  else pickUnits s.disp.pairOrder (fun p => s.pairFree p false && s.slackFor p wb.budget) (fun p => (s.contextBerth (2 * p) wb).isSome) wb.tiles

/-- The tile of rank 0, as VALUE names it (R228). -/
def rankValue (units : List Nat) (pairs : Bool) : Nat := (if pairs then 2 * units.headD 0 else units.headD 0) * 2 ^ 32

/-- Station time until the next tick of depot service (R255, R391): its period runs on, or with DEPOT_PTP the next multiple of it is crossed. -/
def toNextTick (s : State) : Nat :=
  let p := s.disp.depotMs * 1000000
  if s.fld (pgTick + 0x104) 1 0 = 3 then p - s.now % p else s.disp.nextDepotTick - s.now

/-- A fresh placement record. -/
def newPlacement (s : State) (wb : Waybill) (index : Nat) (entry : Option Nat) (units : List Nat) (pairs serving : Bool) : Placement :=
  { wid := s.disp.nextWid, wb := wb, index := index, entry := entry, units := units, pairs := pairs, started := false, readyAt := none,
    ended := false, status := csOk, code := 0, stlo := 0, value := rankValue units pairs, serving := serving,
    pinned := if serving then s.stepTags wb.arg0 else [], releaseClk := s.clk, aborting := false, waiting := false, ord := s.disp.nextWid,
    latest := 0, toTick := s.toNextTick }

/-- Places work on units (R237, R238); the sequences of a step are pinned and given their pages first (R206). `false`: a berth still lands dock writes, and is
being emptied. -/
def placeOn (s : State) (p : Placement) : State × Bool :=
  match takeBerths s p.wid p.wb p.tiles with
  | none => (s.clearBerths p.wb p.tiles, false)
  | some s1 =>
    let s2 := s1.updDisp (fun d => { d with placements := d.placements ++ [p], nextWid := d.nextWid + 1 })
    let s3 := (s2.bump (pgDispatch + 0x170)).countEvent (pgHubCnt 0) 2
    if !p.serving then (s3.checkReady p.wid, true)
    else
      ((((s3.serveAgain p.pinned).notRun p.wb.arg0).updPlaced p.wid (fun q => { q with waiting := true })).continueStep p.wid, true)

/-- Places the head of a ring, or makes it the held waybill of its class (R234). An entry of a bank ring that is placed is a copy started (R389). -/
def placeHead (s : State) (c r : Nat) : State :=
  let wb := s.headWaybill r
  let idx := (s.ring r).head.toNat
  let ea := (s.ring r).entryAddr idx
  if s.devMarked ea 64 then s.devPoison ea 64
  else if s.servingStep wb && s.devMarked wb.arg0 recordBytes then s.devPoison wb.arg0 recordBytes
  else
  let hold := fun (s : State) => s.setCursor c { s.cursor c with held := some r }
  match s.unitsFor wb with
  | none => hold s
  | some us =>
    let s0 := if s.servingStep wb then s.sortStep wb.arg0 else s
    match (if s0.servingStep wb then s0.stepRefused wb else none) with
    | some st => (((s0.takeHead r).completeUnrun wb idx st)).setCursor c { s0.cursor c with held := none }
    | none =>
      let x := s0.placeOn (s0.newPlacement wb idx none us (s.service ≠ 2) (s.servingStep wb))
      if x.2 then
        let R := x.1.ring r
        let s1 := if (s.bankOf r).isSome then x.1.bump (pgCvy + 0x154) else x.1
        (s1.setRing r { R with head := R.head + 1, inflight := R.inflight + 1 }).setCursor c { x.1.cursor c with held := none }
      else hold x.1

/-- The held waybill of a class (R234), `none` where there is none, or where it completes unplaced or must stay at its ring's head for now: its ring is then left
out of the search like any other (R206, R235). -/
def heldHead (s : State) (c : Nat) : State × Option Nat :=
  match (s.cursor c).held with
  | none => (s, none)
  | some r =>
    let drop := fun (s : State) => s.setCursor c { s.cursor c with held := none }
    let s1 := purgeRing r 1 s
    if (s1.ring r).head ≠ (s.ring r).head || s1.headHeld r then (drop s1, none)
    else if s1.headMarked r then (s1, some r)
    else
      let s2 := s1.sortHead (s1.headWaybill r)
      if s2.headStays (s2.headWaybill r) then (drop s2, none) else (s2, some r)

/-- One search from class `c` down: the held waybill first, then the round robin (R234, R235). -/
def searchFrom (s : State) : List Nat → State
  | [] => s
  | c :: cs =>
    let h := s.heldHead c
    match h.2 with
    | some r => h.1.placeHead c r
    | none =>
      let x := nextIn c 4097 h.1
      match x.2 with
      | some r => x.1.placeHead c r
      | none => searchFrom x.1 cs

/-- The dispatcher places at present: not frozen, not stopped, no placement waiting for pages, in a service that serves rings (R48, R206,
R318, R445). -/
def dispatches (s : State) : Bool :=
  !s.disp.frozen && !s.disp.stopped && !s.disp.placements.any (·.waiting)
    && ((s.service = 2 && s.fld (pgPwr + 0x104) 12 10 ≠ 4) || s.driveRuns)

/-! ### Timetable tasks (R247) -/

/-- The work order of a timetable entry (R239, R245): tenant 0, a1 = 0, the seed its index plus 1. -/
def entryWaybill (i : Nat) (e : TTEntry) : Waybill :=
  { ring := 0, tenant := 0, store16 := e.store16, ibuf64 := e.ibuf64, handle := e.handle, tiles := e.pairs, tag := 0, budget := e.budget,
    seed := BitVec.ofNat 32 (i + 1), deadline := 0, cring := 0, arg2 := e.arg2, commit := 0, arg0 := e.arg0 % 2 ^ 40, arg1 := 0 }

/-- Pairs of an entry's pool that are free for it. -/
def poolFree (s : State) (tt : Timetable) (e : TTEntry) (p : Nat) : Bool :=
  bitAt (tt.pools.getD e.pool 0).toNat p && s.pairFree p (e.rank = 0xFF)

/-- Places a released entry on free pairs of its pool, where there are enough. -/
def placeEntry (s : State) (i : Nat) : State :=
  match s.disp.tt with
  | none => s
  | some tt =>
    match tt.entries[i]? with
    | none => s
    | some e =>
      if (s.entryRun i).phase ≠ .released then s
      else
        let wb := entryWaybill i e
        match pickUnits s.disp.pairOrder (s.poolFree tt e) (fun p => (s.contextBerth (2 * p) wb).isSome) e.pairs with
        | none => s
        | some us =>
          let x := s.placeOn { s.newPlacement wb 0 (some i) us true false with latest := s.disp.frameStart + 50000 * e.deadline - 2 * e.budget }
          if x.2 then x.1.setEntryRun i { x.1.entryRun i with phase := .running } else x.1

/-- Entries in descending RANK, and in ascending index within a rank (R247). -/
def rankOrder (tt : Timetable) : List Nat :=
  (List.range tt.entries.length).foldl (fun l i =>
    let rank := fun j => ((tt.entries[j]?).map (·.rank)).getD 0
    l.takeWhile (fun j => rank i ≤ rank j) ++ [i] ++ l.dropWhile (fun j => rank i ≤ rank j)) []

/-- Places every released entry that can be placed (R247). -/
def placeEntries (s : State) : State :=
  match s.disp.tt with
  | none => s
  | some tt => if s.disp.frozen || s.disp.stopped || !s.driveRuns then s else forEach (rankOrder tt) s (fun s i => s.placeEntry i)

/-! ### Work placed again (R209, R242) -/

/-- Lost work ends without being placed again: its sequences are unpinned and its ring's INFLIGHT falls (R224, R242). -/
def endAhead (s : State) (p : Placement) (status : Nat) : State :=
  let s1 := forEach p.pinned s (fun s n => s.unpin n)
  (s1.setRing p.wb.ring { s1.ring p.wb.ring with inflight := (s1.ring p.wb.ring).inflight - 1 }).completeRan p status

/-- A lost task belongs to the running frame. -/
def thisFrame (s : State) (p : Placement) : Bool := decide (s.disp.lastFrameAt ≤ p.releaseClk)

/-- A lost task whose latest start has passed (R242): a sheddable one is shed, one of safety rank is reported failed (R249). -/
def shedLost (s : State) (p : Placement) (i : Nat) : State :=
  let rank := ((s.disp.tt.bind (fun tt => tt.entries[i]?)).map (·.rank)).getD 0
  let s1 := if s.thisFrame p then s.setEntryRun i { s.entryRun i with phase := .shed } else s
  if rank = 0xFF then s1.taskFailed i else s1.bump (pgTick + 0x12C)

/-- A lost task is released again (R242): placed on free pairs of its pool, with the frame that it belongs to. `false`: it waits, as too few are free. -/
def placeLostTask (s : State) (p : Placement) (i : Nat) : State × Bool :=
  match s.disp.tt.bind (fun tt => (tt.entries[i]?).map (fun e => (tt, e))) with
  | none => (s, true)
  | some (tt, e) =>
    match pickUnits s.disp.pairOrder (s.poolFree tt e) (fun u => (s.contextBerth (2 * u) p.wb).isSome) e.pairs with
    | none => (s, false)
    | some us =>
      let q := s.newPlacement p.wb 0 (some i) us true false
      let x := s.placeOn { q with releaseClk := p.releaseClk, ord := p.ord, latest := p.latest }
      (if x.2 && x.1.thisFrame p then x.1.setEntryRun i { x.1.entryRun i with phase := .running } else x.1, x.2)

/-- What the record of work placed again keeps of a run that a fault ended, until it runs again (R228). -/
def Placement.again (p q : Placement) : Placement :=
  if p.started || p.stlo ≠ 0 || p.value % 2 ^ 32 ≠ 0 then { q with ord := p.ord, stlo := p.stlo, value := p.value } else { q with ord := p.ord }

/-- Places or ends one lost waybill; a step that had committed completes without running again (R209). `false`: it stays for now, as too few units are free, a batch
step waits for its tick (R193, R235) or for a stack in self-refresh (R306), or a marked line of its record is a fault (R294). -/
def placeLostBill (s : State) (p : Placement) : State × Bool :=
  if p.serving && s.stepHeld p.wb then (s, false)
  else if p.serving && s.stepMarked p.wb then (s.stepPoison p.wb, false)
  else if p.serving && s.stepCommitted p.wb then ((s.applyRecord p.wb.arg0).endAhead p csOk, true)
  else if p.wb.deadline ≠ 0 ∧ p.wb.deadline ≤ s.now then ((s.bump (pgDispatch + 0x17C)).endAhead p csFaultLost, true)
  else if s.unitsInService (s.service ≠ 2) < p.wb.tiles then (s.endAhead p csTooBig, true)
  else if p.serving && (!s.stepWindow || s.poolHalted) then (s, false)
  else match s.unitsFor p.wb with
    | none => (s, false)
    | some us =>
      let s0 := if p.serving then s.sortStep p.wb.arg0 else s
      match (if p.serving then s0.stepRefused p.wb else none) with
      | some st => (s0.endAhead p st, true)
      | none => s0.placeOn (Placement.again p (s0.newPlacement p.wb p.index none us (s.service ≠ 2) p.serving))

/-- Places lost work again in the order of its original placement (R242). A waybill that has to stay holds back the lost waybills behind it; a task
holds back nothing. -/
def placeLost (hold : Bool) : List Placement → State → State × List Placement
  | [], s => (s, [])
  | p :: ps, s =>
    match p.entry with
    | some i =>
      if s.thisFrame p && (s.entryRun i).phase ≠ .released then placeLost hold ps s
      else if p.latest < s.now then placeLost hold ps (s.shedLost p i)
      else
        let y := s.placeLostTask p i
        let x := placeLost hold ps y.1
        if y.2 then x else (x.1, p :: x.2)
    | none =>
      if hold then let x := placeLost true ps s; (x.1, p :: x.2)
      else
        let y := s.placeLostBill p
        let x := placeLost (!y.2 || y.1.disp.placements.any (·.waiting)) ps y.1
        if y.2 then x else (x.1, p :: x.2)

/-- Places lost work again, ahead of all ring heads (R242). -/
def placeAhead (s : State) : State :=
  let x := placeLost false s.disp.ahead (s.updDisp (fun d => { d with ahead := [] }))
  x.1.updDisp (fun d => { d with ahead := x.2 ++ d.ahead })

/-! ### Self-test segments (R330) -/

/-- Station time before which a segment on a pair must end: the start of PROOF_SLOT, and of the next slot in which a safety-rank entry of the pair's
pool is released, this frame's or, past the last one, the next frame's. -/
def segmentBound (s : State) (tt : Timetable) (p : Nat) : Nat :=
  let slots := tt.proofSlot :: (tt.entries.filter (fun e => e.rank = 0xFF && bitAt (tt.pools.getD e.pool 0).toNat p)).map (·.release)
  let ts := slots.map (fun k => let t := s.disp.frameStart + 50000 * k; if t ≤ s.now then t + 50000 * tt.slots else t)
  ts.foldl min (s.disp.frameStart + 100000 * tt.slots)

/-- A pair owes a self-test segment: the second half of its diagnostic interval has begun since its last pass (log entry 45). -/
def segmentDue (s : State) (p : Nat) : Bool :=
  [2 * p, 2 * p + 1].any (fun t => decide ((s.tile t).lastPass + 500000 * s.fld (pgSafety + 0x118) 15 0 ≤ s.now))

/-- The dispatcher places self-test segments on free slack pairs, before tenant-0 waybills (R330). -/
def placeSegments (s : State) : State :=
  match s.disp.tt with
  | none => s
  | some tt =>
    if !s.disp.inFrame || s.slotNow = tt.proofSlot then s
    else forEach ((List.range 32).filter (fun p => s.segmentDue p && s.pairFree p false && s.slackFor p 15000
        && decide (s.now + 30000 ≤ s.segmentBound tt p))) s
      (fun s p => forEach [2 * p, 2 * p + 1] s (fun s t => s.updTile t (fun T => { T with segment := some s.now })))

/-- A lost waybill waits to be placed again and holds back the ring heads; a batch step that waits for its tick does not (R235, R242). -/
def lostWaits (s : State) : Bool := s.disp.ahead.any (fun p => p.entry.isNone && !(p.serving && !s.stepWindow))

/-- One turn of the dispatcher: lost work, then waiting timetable entries, self-test segments in drive service, and one waybill of the rings. -/
def dispatchOnce (s : State) : State :=
  if !s.dispatches then s
  else
    let s1 := s.placeAhead.placeEntries
    let s2 := if s1.driveRuns then s1.placeSegments else s1
    if s2.dispatches && !s2.lostWaits then s2.searchFrom [0, 1, 2, 3] else s2

end State

/-- PLACEMENT (R234–R238, R242, R247, R330). -/
def execPlacement (s : State) : Res := whenLive s State.dispatchOnce

/-! ### Berths becoming ready (R93, R94, R238) -/

namespace State

/-- The work for which a berth of a tile is being readied. -/
def berthWork (s : State) (t n : Nat) : Option Nat := if s.berth t = n then (s.tile t).wid else none

/-- After a change of a berth: its work's start is set once every berth is ready. A berth that the Stationmaster assigned becomes RESIDENT by its write to
BERTH_OWNER (R93). -/
def berthAdvance (s : State) (t n : Nat) : State :=
  match s.berthWork t n with
  | some wid => s.checkReady wid
  | none => s

end State

/-- BERTH_ZEROED (R94): the share of a LOADING berth has been zeroed, and its units are the berth's tenant's. -/
def execBerthZeroed (tile : Nat) (n : Nat) (s : State) : Res :=
  whenLive s (fun s =>
    if s.berthState tile n = 1 && (s.berthInfo tile n).zeroing then
      let first := s.shareBase tile n
      let rows := s.shareRows tile n
      let s1 := (s.zero (rowAddr tile first) (512 * rows)).updTile tile (fun T =>
        { T with poison := T.poison.filter (fun r => r < first || first + rows ≤ r) })
      ((s1.updBerth tile n (fun b => { b with zeroing := false })).claimUnits tile n (s1.berthTenant tile n)).berthAdvance tile n
    else s)

/-- The bytes that a berth's image gives for its shares land in them (R238, R321): the store share's and the bundles of the instruction share. -/
def State.loadImage (s : State) (t n : Nat) : State :=
  let dig := ((s.handleOf (s.reg (State.berthReg t n 12)).toNat).map (·.digest)).getD []
  let a := rowAddr t (s.shareBase t n)
  let code := (List.range (32 * s.ibufSize t n)).map (Config.imageCode dig)
  (s.updTile t (fun T => { T with ibuf := memWrite T.ibuf (32 * s.ibufBase t n) code })).write a ((List.range (512 * s.shareRows t n)).map (fun i => (Config.imageByte dig i).getD (memByte s.mem (a + i))))

/-- The image that streams from DRAM for a berth has its handle's digest (R238). -/
def State.imageSound (s : State) (t n : Nat) : Bool :=
  match s.handleOf (s.reg (State.berthReg t n 12)).toNat with
  | none => false
  | some h => sha512 ((List.range h.len).map (fun i => memByte s.mem (h.dest + i))) = h.digest

/-- BERTH_IMAGE_LOADED (R238): the image has streamed in, after any zeroing of its share (R94); a hash that differs empties the berth and completes the waybill HANDLE_BAD.
A marked line is poison, and a level-1 fault at the tile that reads it (R294). -/
def execBerthImageLoaded (tile : Nat) (n : Nat) (lines : List LineFinding) (s : State) : Res :=
  whenLive s (fun s0 =>
    let img := (s0.handleOf (s0.reg (State.berthReg tile n 12)).toNat).map (fun h => (h.dest, h.len))
    if img.any (fun x => s0.devHeld x.1 x.2) then s0 else
    let s := forEach (lines.filter (fun f => img.any (fun x => decide (x.1 / 64 ≤ f.line) && decide (f.line < (x.1 + x.2 + 63) / 64)))) s0 State.lineRead
    if s.berthState tile n = 1 && (s.berthInfo tile n).loading && !(s.berthInfo tile n).zeroing then
      let s := forEach (img.toList.filter (fun x => s.devMarked x.1 x.2)) s (fun s x => s.devPoison x.1 x.2)
      if img.any (fun x => s.devMarked x.1 x.2) then s else
      let s1 := (forEach img.toList s (fun s x => s.countLines tile 2 ((List.range x.2).map (x.1 + ·)))).updBerth tile n (fun b => { b with loading := false })
      if s.imageSound tile n then (s1.loadImage tile n).berthAdvance tile n
      else match s1.berthWork tile n with
        | some wid => s1.endUnstarted wid csHandleBad
        | none => s1.emptyBerth tile n
    else s)

/-! ### The start (R239) -/

/-- A tile at the start of a waybill (R81, R239): the values of R239, every other register zero, every written flag clear. -/
def Tile.begin (T : Tile) (wb : Waybill) (rank budget own clk : Nat) : Tile :=
  let blank := { T with sregs := [], aregs := [], vregs := [], vwritten := [], acc := [], accWritten := [], accFloat := [],
                        wa := WeightBuffer.empty, wb := WeightBuffer.empty, activeB := false, tabs := [], st := 0, pc := 0, loops := [],
                        moves := [], events := 0, rng := if wb.seed = 0 then 1 else wb.seed, rank := rank, budget := budget, beganClk := clk,
                        stopped := false, bundle := [], stBefore := 0, poison := T.poison.filter (fun r => r < 1280) }
  ((((((blank.setA 0 wb.arg0).setA 1 wb.arg1).setS 0 wb.arg2.toNat).setS 29 wb.tiles).setS 30 rank).setS 31 own)

namespace State

/-- Starts a placed piece of work on all its tiles (R238, R239). -/
def startWork (s : State) (p : Placement) : State :=
  let s1 := forEach (List.range p.units.length) s (fun s k =>
    let u := p.units.getD k 0
    let own := if p.pairs then 2 * u else u
    forEach (if p.pairs then [2 * u, 2 * u + 1] else [u]) s (fun s t =>
      (s.updTile t (fun T => T.begin p.wb k p.wb.budget own s.clk)).setTileState t 2))
  s1.updPlaced p.wid (fun q => { q with started := true })

end State

/-- WAYBILL_START (R238, R239). -/
def execWaybillStart (wid : Nat) (s : State) : Res :=
  whenLive s (fun s =>
    match s.placed wid with
    | none => s
    | some p =>
      match p.readyAt with
      | none => s
      | some t => if p.started || p.ended || p.aborting || s.disp.stopped || decide (s.now < t) then s else s.startWork p)

end Sys2Proof.Machine
end

