-- ==== Sys2Proof/Machine/Convoy.lean ====
section
/-! DEFINITION. Convoy links and multi-device operation (R365–R394): ports, time, membership, Caravan transport, consists and banking
copies. -/

namespace Sys2Proof.Machine

open Sys2Proof

namespace State

/-! ### Notices, roster and epochs -/

/-- The notice CONVOY (R394): event 1 JOIN_REFUSED, 2 FENCED, 3 SEAT_FENCED, 4 CONSIST_ABORT, 5 LEADER_CHANGE. -/
def convoyNotice (s : State) (ev seat : Nat) (consist : Nat := 0) : State := s.notice 0x0B 0 0 (ev + seat * 256 + consist * 65536)

/-- This seat leads (R393). -/
def leads (s : State) : Bool := s.isMember && s.fld (pgCvy + 0x104) 2 2 = 1
/-- The membership epoch known to this device. -/
def memEpoch (s : State) : Nat := (s.reg (pgCvy + 0x108)).toNat
/-- Seats that are live in the roster. -/
def liveSeats (s : State) : List Nat := (s.convoy.roster.filter (fun e => e.2.live)).map (·.1)
/-- CVY_STAT.LIVE follows the roster. -/
def showLive (s : State) : State := s.setFld (pgCvy + 0x104) 24 16 s.liveSeats.length
/-- The state with the membership epoch set. -/
def setMemEpoch (s : State) (e : Nat) : State := s.setReg (pgCvy + 0x108) (BitVec.ofNat 32 e)
/-- The state with a roster entry replaced; a new key epoch starts the pair's transport anew (R372). -/
def setSeat (s : State) (n : Nat) (x : Seat) : State :=
  let old := s.seat n
  let s1 := s.updConvoy (fun c => { c with roster := smPut c.roster n x })
  (if old.keyEpoch = x.keyEpoch then s1 else s1.updConvoy (fun c => { c with peers := smErase c.peers n })).showLive
/-- State of membership: 0 DETACHED, 1 JOINING, 2 MEMBER, 3 FENCED. -/
def setCvyState (s : State) (v : Nat) : State := s.setFld (pgCvy + 0x104) 1 0 v

/-! ### Consists (R384, R386) -/

/-- A seat is a member of a consist. -/
def consistHas (s : State) (n seat : Nat) : Bool := s.fld (consistReg n (0x10 + 4 * (seat / 32))) (seat % 32) (seat % 32) = 1
/-- Consist ID of a slot. -/
def consistId (s : State) (n : Nat) : Nat := s.fld (consistReg n 0) 15 0
/-- Rings of a consist on this seat. -/
def consistRings (s : State) (n : Nat) : List Nat :=
  s.fld (consistReg n 4) 20 0 :: (if s.fld (consistReg n 8) 31 31 = 1 then [s.fld (consistReg n 8) 20 0] else [])

/-- CVY_OFFERED up to now for a slot that is ACTIVE or ABORTED (R391). -/
def offeredBy (s : State) (n : Nat) : Nat :=
  if s.consistState n = 0 then 0 else s.fld (consistReg n 0xC) 6 0 * ((s.clk - (s.consist n).since) / 2)
/-- A slot's part of CVY_OFFERED is added, and counts from now on. -/
def settleOffered (s : State) (n : Nat) : State := (s.addWide (pgCvy + 0x138) (s.offeredBy n)).updConsist n (fun k => { k with since := s.clk })

/-- No class holds the head of a ring any more. -/
def dropHeld (s : State) (r : Nat) : State :=
  s.updDisp (fun d => { d with classes := d.classes.map (fun e => (e.1, if e.2.held = some r then { e.2 with held := none } else e.2)) })

/-- Completes every queued waybill of a ring with a status; `fuel` is their number. -/
def flushRing (r status : Nat) : Nat → State → State
  | 0, s => s.clearBell r
  | fuel + 1, s =>
    let idx := (s.ring r).head.toNat
    flushRing r status fuel ((s.takeHead r).completeUnrun (s.headWaybill r) idx status)

/-- A ring is disabled and its queued waybills complete with a status. -/
def closeRing (s : State) (r status : Nat) : State :=
  if !s.ringKnown r then s
  else (flushRing r status (s.ring r).fill (s.setRing r { s.ring r with enable := false })).dropHeld r

/-- Running work of some rings ends as an overrun does, and work placed but not started ends at once. -/
def abortRings (s : State) (rs : List Nat) (status : Nat) : State :=
  let ps := s.disp.placements.filter (fun p => !p.ended && p.entry.isNone && rs.contains p.wb.ring)
  let s1 := forEach ps s (fun s p => if p.started then s.abortWork p.wid status 0 else s.endUnstarted p.wid status)
  let lost := s1.disp.ahead.filter (fun p => rs.contains p.wb.ring)
  let s2 := s1.updDisp (fun d => { d with ahead := d.ahead.filter (fun p => !rs.contains p.wb.ring) })
  forEach lost s2 (fun s p => s.endAhead p status)

/-- A consist aborts on this seat (R386). -/
def abortConsist (s : State) (n : Nat) : State :=
  if s.consistState n ≠ 1 then s
  else
    let rs := s.consistRings n
    let s1 := s.abortRings rs csConvoyAbort
    let s2 := forEach rs s1 (fun s r => s.closeRing r csConvoyAbort)
    let s3 := ((s2.setFld (consistReg n 0) 29 28 2).bump (pgCvy + 0x150)).recordErr pgCvy 0x6D03
    s3.convoyNotice 4 s.ownSeat (s.consistId n)

/-- Every consist aborts. -/
def abortConsists (s : State) : State := forEach (List.range 16) s (fun s n => s.abortConsist n)

/-! ### Fencing (R374, R375) -/

/-- Every move to the seats of a kind completes ADDR_UNMAPPED, also where nothing has left for it yet (R374). -/
def cutMoves (s : State) (f : Nat → Bool) : State :=
  forEach (List.range 68) s (fun s t =>
    if (s.tile t).moves = [] then s
    else s.updTile t (fun T => { T with moves := T.moves.map (fun m =>
      let hit := match m.kind with
        | .dockWrite _ _ (some n) _ _ _ => f n
        | .commit _ _ _ _ (some n) => f n
        | _ => false
      if hit && m.status.isNone && !m.landed then { m with status := some msUnmapped, landed := true, ranges := [] } else m) }))

/-- A seat has been fenced or lost: moves to it complete ADDR_UNMAPPED, and every consist that includes it aborts (R374). -/
def cutSeat (s : State) (n : Nat) : State :=
  let s1 := (s.cutMoves (· = n)).updConvoy (fun c => { c with ops := c.ops.filter (fun o => o.seat ≠ n) })
  forEach ((List.range 16).filter (fun k => s.consistHas k n)) s1 (fun s k => s.abortConsist k)

/-- Seats that hear a seat's heartbeats: the leader and the standby (R373). -/
def watchers (s : State) : List Nat :=
  ((s.convoy.leaderSeat :: (s.convoy.roster.filter (fun e => e.2.standby)).map (·.1)).eraseDups).filter (fun n => n ≠ s.ownSeat && s.seatLive n)

/-- What a member does when it fences itself: it is left FENCED (3), or DETACHED (0) at a handover; LEAVE goes once, to those that hear its heartbeats (R375). -/
def fenceNow (s : State) (left : Nat) : State :=
  if s.cvyState ≠ 2 then s
  else
    let s1 := s.abortConsists.cutMoves (fun n => n ≠ s.ownSeat)
    let s2 := forEach s.watchers s1 (fun s n => s.post n 0 .leave)
    let s3 := (s2.setCvyState left).setFld (pgCvy + 0x104) 2 2 0
    (s3.updConvoy (fun c => { c with leaseOn := false, ops := [], peers := [] })).convoyNotice 2 s.ownSeat

/-- This seat fences itself, and the fence is recorded (R375). -/
def fenceSelf (s : State) (left : Nat) : State :=
  if s.cvyState ≠ 2 then (if s.cvyState = 1 then s.setCvyState left else s) else (s.fenceNow left).recordErr pgCvy 0x6D02

/-- The leader fences a seat: one membership change, and FENCE to every seat, the fenced one under the keys that it still holds (R374). -/
def fenceSeat (s : State) (n : Nat) : State :=
  let e := s.memEpoch + 1
  let s1 := forEach (s.liveSeats.filter (· ≠ s.ownSeat)) (s.setMemEpoch e) (fun s x => s.post x 0 (.fence n e))
  let s2 := s1.setSeat n { s.seat n with live := false, keyEpoch := e }
  ((s2.recordErr pgCvy 0x6D01).convoyNotice 3 n).cutSeat n

/-- A seat learns of a fence (R374). -/
def learnFence (s : State) (n e : Nat) : State :=
  let s1 := (s.setMemEpoch (max s.memEpoch e)).setSeat n { s.seat n with live := false, keyEpoch := e }
  ((s1.recordErr pgCvy 0x6D01).convoyNotice 3 n).cutSeat n

/-- Roster entries that a roster update or an acknowledgement carries are applied (R371, R373). -/
def applyRoster (s : State) (epoch : Nat) (seats : List SeatInfo) : State :=
  let s1 := s.setMemEpoch (max s.memEpoch epoch)
  forEach seats s1 (fun s x =>
    if !x.live && s.seatLive x.seat && x.seat ≠ s.ownSeat then s.learnFence x.seat x.keyEpoch
    else s.setSeat x.seat { live := x.live, keyEpoch := x.keyEpoch, addrs := x.addrs, manifest := x.manifest, attestKey := x.attestKey,
                            manifestOk := x.chainOk && manifestGood x.manifest x.attestKey, standby := x.standby, lastBeat := (s.seat x.seat).lastBeat })

/-- The roster's entry of a seat as this device sends it. -/
def seatInfo (s : State) (n : Nat) : SeatInfo :=
  let x := s.seat n
  { seat := n, live := x.live, keyEpoch := x.keyEpoch, addrs := x.addrs, manifest := x.manifest, attestKey := x.attestKey, chainOk := x.manifestOk, standby := x.standby }

/-- A lease runs for 8 ms from an acknowledgement (R373). -/
def renewLease (s : State) : State := s.updConvoy (fun c => { c with leaseOn := true, leaseAt := s.now + 8000000 })

/-- More than half of the live seats were heard in a time: this seat counts itself as heard where `self` says so (R376). -/
def majorityHeard (s : State) (window : Nat) (self : Bool) : Bool :=
  let heard := s.liveSeats.filter (fun n => if n = s.ownSeat then self else decide (s.now < (s.seat n).lastBeat + window))
  decide (s.liveSeats.length < 2 * heard.length)

/-- The standby takes over (R376). -/
def claimLead (s : State) : State :=
  let old := s.convoy.leaderSeat
  let s1 := s.setFld (pgCvy + 0x104) 2 2 1
  let s2 := s1.updConvoy (fun c => { c with leaderSeat := s.ownSeat, leaseOn := false, leadSince := s.now })
  (s2.fenceSeat old).convoyNotice 5 s.ownSeat

/-- This seat is the standby. -/
def standsBy (s : State) : Bool := s.isMember && !s.leads && s.fld (pgCvy + 0x100) 1 0 = 3

end State

/-! ### Ports and time -/

namespace State

/-- A port's link drops: it is taken out of use, and the drop is counted (R367, R394). -/
def dropLink (s : State) (port : Nat) : State :=
  if s.fld (pgEth port + 0x104) 0 0 = 0 then s
  else (s.setFld (pgEth port + 0x104) 2 0 0).bump (pgEth port + 0x12C)

/-- A port's IPv6 address, byte `i` in bits 8i+7 to 8i (R394). -/
def ethAddr (s : State) (p : Nat) : BitVec 128 :=
  BitVec.ofNat 128 ((List.range 4).foldl (fun n k => n + (s.reg (pgEth p + 0x108 + 4 * k)).toNat * 2 ^ (32 * k)) 0)

/-- The leader's IPv6 address in the same order (R370, R393). -/
def leaderAddr (s : State) : BitVec 128 :=
  BitVec.ofNat 128 ((List.range 4).foldl (fun n k => n + (s.reg (pgCvy + 0x110 + 4 * k)).toNat * 2 ^ (32 * k)) 0)

/-- A frame that a port accepts (R365): not too long, at most one IEEE 802.1Q tag, a good FCS and no codeword that the FEC could not correct. -/
def frameTaken (f : EthFrame) : Bool := decide (f.len ≤ 9216) && decide (f.tags ≤ 1) && f.fcsOk && f.fecUncorr = 0

end State

/-- LINK_DOWN (R367). -/
def execLinkDown (port : Nat) (s : State) : Res := whenLive s (fun s => s.dropLink port)

/-- LINK_UP (R365, R394): a port that is enabled and down; with AN only toward a partner that agrees to its MODE. -/
def execLinkUp (port : Nat) (partner : Option Nat) (s : State) : Res :=
  whenLive s (fun s =>
    let an := s.fld (pgEth port + 0x100) 2 2
    if s.fld (pgEth port + 0x100) 3 3 = 0 || s.fld (pgEth port + 0x104) 0 0 = 1 || (an = 1 && partner ≠ some (s.fld (pgEth port + 0x100) 1 0)) then s
    else ((s.setFld (pgEth port + 0x104) 0 0 1).setFld (pgEth port + 0x104) 1 1 an).setFld (pgEth port + 0x104) 2 2 1)

/-- ETHERNET_FRAME (R365, R366, R394). -/
def execEthernetFrame (port : Nat) (f : EthFrame) (s : State) : Res :=
  whenLive s (fun s0 =>
    if s0.fld (pgEth port + 0x104) 0 0 = 0 then s0
    else
      let s := (s0.bump (pgEth port + 0x120) f.fecCorr).bump (pgEth port + 0x124) f.fecUncorr
      let drop := s.bump (pgEth port + 0x128)
      if !State.frameTaken f then drop
      else match f.body with
      | .neighborSolicit target => if target = s.ethAddr port then s.say (.neighborAdvert port) else drop
      | .neighborAdvert target => s.updConvoy (fun c => { c with neighbors := (port, target) :: c.neighbors.filter (· ≠ (port, target)) })
      | .echoRequest dst payload => if dst = s.ethAddr port then s.say (.echoReply port payload) else drop
      | .macControl => drop
      | .other => drop)

namespace State

/-- One data set is better than another (R368): the first field in which they differ is lower. -/
def betterMaster : List Nat → List Nat → Bool
  | a :: as, b :: bs => if a = b then betterMaster as bs else decide (a < b)
  | _, _ => false

/-- The offset of R369 from the times of an exchange (R368): station time less master time, free of the path's delay as the delay request-response mechanism
measures it. The Sync arrives now. -/
def ptpOffset (s : State) (x : PtpSync) : Int := (((s.now : Int) - x.origin) - (x.response - x.request)) / 2

/-- The clock follows a Sync (R368): it comes on PTP_PORT in DOMAIN, and no better master than its own has been heard for 6 s (log entry 148). -/
def ptpFollows (s : State) (x : PtpSync) : Bool :=
  x.port = s.fld (pgCvy + 0x100) 5 4 && x.domain = s.fld (pgCvy + 0x100) 15 8 && s.fld (pgEth x.port + 0x104) 0 0 = 1
    && (match s.convoy.ptpMaster with
      | none => true
      | some (m, t) => !betterMaster m x.master || decide (t + 6000000000 ≤ s.now))

/-- Station time is disciplined by an offset (R369): it steps forward or is slewed; PTP_LOCK follows. -/
def discipline (s : State) (delta : Int) : State :=
  let d : Nat := delta.natAbs
  let s1 := s.setReg (pgCvy + 0x12C) (BitVec.ofInt 32 (clampI (-2147483648) 2147483647 delta))
  let s2 : State := if delta < -1000000 then { s1 with now := s1.now + d, convoy := { s1.convoy with slew := 0, slewPhase := 0 } }
    else s1.updConvoy (fun c => { c with slew := -delta, slewPhase := 0 })
  let good := if d ≤ 100 then min 16 (s.convoy.ptpGood + 1) else 0
  let s3 := s2.updConvoy (fun c => { c with ptpGood := good })
  if good = 16 then s3.setFld (pgCvy + 0x104) 3 3 1
  else if 1000 < d then s3.setFld (pgCvy + 0x104) 3 3 0 else s3

end State

/-- PTP_SYNC (R368, R369). -/
def execPtpSync (x : PtpSync) (s : State) : Res :=
  whenLive s (fun s =>
    if s.ptpFollows x then (s.discipline (s.ptpOffset x)).updConvoy (fun c => { c with ptpMaster := some (x.master, s.now) }) else s)

/-! ### Joining (R370, R371) -/

namespace State

/-- The effect of JOIN (R370): a leader founds the convoy at seat 0, with its own Manifest in the roster; any other device sends its Manifest to the leader's address. -/
def joinConvoy (s : State) : State :=
  if !s.depotOpen || s.cvyState = 1 || s.cvyState = 2 then s.regAccess pgCvy
  else
    let n := s.freshBytes 64
    let m := n.2.signManifest 0 n.1
    let s0 := m.2
    if s.fld (pgCvy + 0x100) 1 0 = 2 then
      let e := s.memEpoch + 1
      let s1 := s0.updConvoy (fun c => { c with roster := [], peers := [], ops := [], leaderSeat := 0, leaseOn := false, leadSince := s.now, beatAt := s.now })
      let s2 := (((s1.setMemEpoch e).setReg (pgCvy + 0x10C) (BitVec.ofNat 32 e)).setCvyState 2).setFld (pgCvy + 0x104) 2 2 1
      (s2.setFld (pgCvy + 0x104) 15 8 0).setSeat 0
        { live := true, keyEpoch := e, addrs := (List.range 4).map s.ethAddr, manifest := m.1, attestKey := ecPublic s.sec.attestKey, manifestOk := true,
          standby := false, lastBeat := s.now }
    else
      let s1 := s0.updConvoy (fun c => { c with roster := [], peers := [], ops := [], leaseOn := false })
      let s2 := ((s1.setCvyState 1).setFld (pgCvy + 0x104) 2 2 0).showLive
      match s.nextPort with
      | none => s2
      | some p => ((s2.resolve p s.leaderAddr).updConvoy (fun c => { c with lastPort := p })).say (.join p s.leaderAddr m.1 (s.fld (pgCvy + 0x100) 1 0 = 3))

/-- A message reaches this device by a port that is up, to the Caravan port of this convoy, in VERSION 1 (R366, R379); another UDP port is not Caravan and counted. -/
def arrives (s : State) (port udp version convoy : Nat) : Bool × State :=
  if s.fld (pgEth port + 0x104) 0 0 = 0 then (false, s)
  else if udp ≠ s.fld (pgCvy + 0x120) 15 0 then (false, s.bump (pgEth port + 0x128))
  else (version = 1 && convoy = s.fld (pgCvy + 0x100) 31 16 && s.service = 2, s)

/-- The leader takes a device in (R371): the lowest free seat at a new membership epoch, which every seat learns; the new seat learns the whole roster. -/
def seatJoiner (s : State) (n : Nat) (j : JoinRequest) : State :=
  let e := s.memEpoch + 1
  let s1 := (s.setMemEpoch e).setSeat n
    { live := true, keyEpoch := e, addrs := j.addrs, manifest := j.manifest, attestKey := j.attestKey, manifestOk := true, standby := j.standby, lastBeat := s.now }
  forEach (s1.liveSeats.filter (· ≠ s.ownSeat)) s1 (fun s x => s.post x 0 (.roster (if x = n then s.liveSeats.map s.seatInfo else [s.seatInfo n])))

end State

/-- JOIN: CVY_CTL is written with JOIN (R370). -/
def execJoin (who : Writer) (s : State) : Res := whenLive s (fun s => s.regWrite who (pgCvy + 0x100) State.joinConvoy)

/-- LEAVE: CVY_CTL is written with LEAVE (R375, R393). -/
def execLeave (who : Writer) (s : State) : Res := whenLive s (fun s => s.regWrite who (pgCvy + 0x100) (fun s => s.fenceSelf 3))

/-- JOIN_REQUEST: the leader checks the Manifest of a join request (R371); `chainOk` is the verdict of its certificate chain, of the digests that the
host has loaded and of the leader's nonce. -/
def execJoinRequest (j : JoinRequest) (s : State) : Res :=
  whenLive s (fun s =>
    let x := s.arrives j.port j.udp j.version j.convoy
    if !x.1 || !s.leads then x.2
    else match (List.range 256).find? (fun n => !s.seatLive n) with
      | none => s.say (.refused (j.addrs.headD 0))
      | some n => if j.chainOk && State.manifestGood j.manifest j.attestKey then s.seatJoiner n j else s.say (.refused (j.addrs.headD 0)))

/-- Active consists with an ID. -/
def State.slotOfId (s : State) (id : Nat) : Option Nat := (List.range 16).find? (fun n => s.consistState n = 1 && s.consistId n = id)

/-- Median of a list of numbers: the middle one, the lower of two. -/
def medianOf (l : List Nat) : Nat :=
  let sorted := l.foldl (fun a x => a.takeWhile (· ≤ x) ++ [x] ++ a.dropWhile (· ≤ x)) []
  sorted.getD ((sorted.length - 1) / 2) 0

namespace State

/-! ### Banking copies (R388–R390) -/

/-- Members of a consist. -/
def consistMembers (s : State) (n : Nat) : List Nat := (List.range 256).filter (s.consistHas n)

/-- A step that half of the members have ended now: T(s), and the duration since the step before (R388). -/
def Consist.endHalf (k : Consist) (step now : Nat) : Consist :=
  { k with halves := (step, now) :: k.halves.take 15
           durations := match k.halves with
             | [] => k.durations
             | h :: _ => (now - h.2) :: k.durations.take 15 }

/-- A member reports its last ended step (R388): half of the members fix T(s) of every step up to it that had none. -/
def noteEnded (s : State) (n seat step : Nat) : State :=
  let k := s.consist n
  let ended := smPut k.ended seat step
  let ms := s.consistMembers n
  let done := fun (x : Nat) => decide (ms.length ≤ 2 * (ms.filter (fun m => match smFind ended m with
    | some y => decide (x ≤ y)
    | none => false)).length)
  let first := match k.halves with
    | [] => step
    | h :: _ => max (h.1 + 1) (step - 15)
  s.updConsist n (fun k => (((List.range (step + 1 - first)).map (first + ·)).filter done).foldl (fun k x => Consist.endHalf k x s.now) { k with ended := ended })

/-- Completes BANK_UNUSED every head of a bank ring whose TAG is below the step's; `fuel` bounds them. -/
def passOver (r tag : Nat) : Nat → State → State
  | 0, s => s
  | fuel + 1, s =>
    if (s.ring r).fill = 0 ∨ s.headHeld r ∨ s.headMarked r ∨ tag ≤ (s.headWaybill r).tag then s
    else
      let idx := (s.ring r).head.toNat
      passOver r tag fuel ((s.takeHead r).completeUnrun (s.headWaybill r) idx csBankUnused)

/-- The banking seat serves its bank ring for a step (R388): older entries are passed over, and the step's entry is placed, at once where the dispatcher can place it and
in its turn otherwise. `false`: the ring holds no entry for the step. -/
def serveBank (s : State) (n step : Nat) : State × Bool :=
  let r := s.fld (consistReg n 8) 20 0
  let s1 := passOver r (step % 65536) (s.ring r).fill s
  if (s1.ring r).fill = 0 then (s1.retireBell r, false)
  else if !s1.headHeld r && (s1.headWaybill r).tag ≠ step % 65536 then (s1, false)
  else
    let s2 := s1.updConsist n (fun k => { k with bankStep := some step })
    if !s2.dispatches || (s2.cursor (ringClass r)).held.isSome || s2.lostWaits then (s2, true)
    else
      let x := scanRings [r] s2
      match x.2 with
      | some r => (x.1.placeHead (ringClass r) r, true)
      | none => (x.1, true)

/-- BANK arrives from a seat (R388, R390): where nothing can be served for the step it is refused, which the leader records. -/
def takeBank (s : State) (src op id step : Nat) : State :=
  match s.slotOfId id with
  | none => s.respond src 0 op msUnmapped
  | some n =>
    if s.fld (consistReg n 8) 31 31 = 0 then s.respond src 0 op msUnmapped
    else
      let x := s.serveBank n step
      x.1.respond src 0 op (if x.2 then msOk else msUnmapped)

/-- The loser's waybill of a step ends BANKED_OUT if it still runs (R389). -/
def takeBankLost (s : State) (id step : Nat) : State :=
  match s.slotOfId id with
  | none => s
  | some n =>
    let rs := s.consistRings n
    match s.disp.placements.find? (fun p => !p.ended && !p.aborting && p.started && p.serving && rs.contains p.wb.ring && s.srStep p.wb.arg0 = step) with
    | none => s
    | some p => (s.bump (pgCvy + 0x158)).abortWork p.wid csBankedOut 0

/-- The leader tells the seat of the losing copy of a banked step that a claim was made (R389): of the member for which the step was banked first, and of the
banking seat, the one that did not claim. -/
def noteClaim (s : State) (n seat step : Nat) : State :=
  let bank := s.fld (consistReg n 8) 28 21
  match (s.consist n).banked.find? (fun b => b.2 = step) with
  | none => s
  | some b =>
    let loser := if seat = bank then some b.1 else if seat = b.1 then some bank else none
    match loser with
    | none => s
    | some x => if x = s.ownSeat then s.takeBankLost (s.consistId n) step else s.post x 0 (.bankLost (s.consistId n) step)

/-- The leader sends BANK for a step to the banking seat, which may be itself (R388, R390). -/
def sendBank (s : State) (n member step : Nat) : State :=
  let bank := s.fld (consistReg n 8) 28 21
  let s1 := s.updConsist n (fun k => { k with banked := k.banked ++ [(member, step)] })
  if bank = s.ownSeat then
    let x := s1.serveBank n step
    if x.2 then x.1 else x.1.recordErr pgCvy 0x6D04
  else (s1.startOp bank 0 0 .bank (fun op => .bank op (s.consistId n) step)).2

/-! ### Heartbeats (R373, R376) -/

/-- What a seat reports of its active consists: the last ended steps, and the steps that a copy has claimed since the last report. -/
def beatSteps (s : State) : List (Nat × Nat) := ((List.range 16).filter (fun n => s.consistState n = 1)).map (fun n => (n, (s.reg (consistReg n 0x30)).toNat))
def beatClaims (s : State) : List (Nat × Nat) := ((List.range 16).filter (fun n => s.consistState n = 1)).filterMap (fun n => (s.consist n).claim.map (fun st => (n, st)))

/-- A seat is heard (R373): the leader answers with the roster changes since the membership epoch that the seat knows, and learns of ended steps and claims. -/
def takeBeat (s : State) (src epoch : Nat) (steps claims : List (Nat × Nat)) : State :=
  let s1 := s.setSeat src { s.seat src with lastBeat := s.now }
  if !s.leads then s1
  else
    let s2 := s1.post src 0 (.ack ((s1.convoy.roster.filter (fun e => decide (epoch < e.2.keyEpoch))).map (fun e => s1.seatInfo e.1)) false)
    let s3 := forEach steps s2 (fun s x => match s.slotOfId x.1 with
      | none => s
      | some n => if s.consistHas n src then s.noteEnded n src x.2 else s)
    forEach claims s3 (fun s x => match s.slotOfId x.1 with
      | none => s
      | some n => s.noteClaim n src x.2)

/-- An acknowledgement (R373, R375): from the leader with the highest membership epoch seen, it applies roster changes and starts the lease again; one that names this
seat FENCED fences it. -/
def takeAck (s : State) (src epoch : Nat) (seats : List SeatInfo) (fenced : Bool) : State :=
  if s.leads || decide (epoch < s.memEpoch) || (epoch = s.memEpoch && src ≠ s.convoy.leaderSeat) then s
  else if fenced || seats.any (fun x => x.seat = s.ownSeat && !x.live) then (s.setMemEpoch epoch).fenceSelf 3
  else ((s.updConvoy (fun c => { c with leaderSeat := src })).applyRoster epoch seats).renewLease

/-- FENCE (R374, R375): of this seat, or of one whose key epoch is older; a fence of the leader comes from the seat that leads from now on (R376). -/
def takeFence (s : State) (src n e : Nat) : State :=
  if e ≤ (s.seat n).keyEpoch then s
  else if n = s.ownSeat then (s.setMemEpoch (max s.memEpoch e)).fenceSelf 3
  else if s.seatLive n then
    (if n = s.convoy.leaderSeat then s.updConvoy (fun c => { c with leaderSeat := src }) else s).learnFence n e
  else s

/-- LEAVE of a seat (R374, R376). -/
def takeLeave (s : State) (src : Nat) : State :=
  if s.leads then s.fenceSeat src
  else if s.standsBy && src = s.convoy.leaderSeat then s.claimLead
  else s

/-! ### Caravan transport (R378–R383) -/

/-- Packets that a header's ACK and SACK cover are acknowledged, and waiting messages follow them (R378, R380). -/
def takeAcks (s : State) (seat ack : Nat) (sack : DWord) : State :=
  let p := s.peer seat
  let hit := fun (psn : Nat) => decide (psn ≤ ack) || (decide (ack + 2 ≤ psn) && decide (psn ≤ ack + 65) && bitAt sack.toNat (psn - ack - 2))
  let left := p.unacked.filter (fun u => !hit u.pkt.psn)
  (s.setPeer seat { p with unacked := left, suspect := if left.length < p.unacked.length then false else p.suspect }).flushWaiting seat

/-- A PSN was received before (R380). -/
def psnSeen (p : Peer) (psn : Nat) : Bool := decide (psn ≤ p.acked) || p.received.contains psn

/-- The highest PSN received in order, and what was received beyond it. -/
def ackAdvance : Nat → Nat → List Nat → Nat × List Nat
  | 0, a, l => (a, l)
  | fuel + 1, a, l => if l.contains (a + 1) then ackAdvance fuel (a + 1) (l.filter (· ≠ a + 1)) else (a, l)

/-- A PSN is recorded as received; its acknowledgement is owed. -/
def takePsn (s : State) (seat psn : Nat) : State :=
  let p := s.peer seat
  let x := ackAdvance (p.received.length + 1) p.acked (psn :: p.received)
  s.setPeer seat { p with acked := x.1, received := x.2, ackOwed := true }

/-- A grant that covers an operation (R382): `bit` is 16 READ, 17 WRITE, 18 COMMIT. -/
def granted (s : State) (a n tenant bit : Nat) : Bool :=
  decide (a + n ≤ 0x2000000000) && (List.range 32).any (fun g =>
    let r := pgCvy + 0x200 + 0x10 * g
    let base := 4096 * s.fld r 27 0
    s.fld (r + 8) 31 31 = 1 && s.fld (r + 8) bit bit = 1 && s.fld (r + 8) 11 0 = tenant && decide (base ≤ a)
      && decide (a + n ≤ base + 4096 * s.fld (r + 4) 27 0)) && s.inTenantPages a n tenant

/-- A peer's operation that no grant covers (R382). Its refusal is recorded in the CVY page, or in the DRAMC page of the stack whose page owner map
refused it (R26, R296). -/
def deny (s : State) (seat op a n tenant : Nat) : State :=
  let page := match (if a + n ≤ 0x2000000000 then (List.range n).find? (fun i => !s.pageOwned ((a + i) / pageBytes) tenant) else none) with
    | some i => if s.sites.contains ((a + i) / dieBytes) then pgDramc ((a + i) / dieBytes) else pgCvy
    | none => pgCvy
  ((s.recordErr page 0x5101).bump (pgCvy + 0x14C)).respond seat tenant op msUnmapped

/-- The operation of a number that awaits a seat's answer, once its packet has left. -/
def awaited (s : State) (seat op : Nat) : Option RemoteOp :=
  s.convoy.ops.find? (fun o => o.op = op && o.seat = seat && !(s.peer seat).waiting.any (fun w => match w.2 with
    | .dockWrite k _ _ _ _ => k = op
    | .memWrite k _ _ => k = op
    | .readRequest k _ _ => k = op
    | .commitRequest k _ _ _ => k = op
    | .bank k _ _ => k = op
    | _ => false))

/-- An operation that awaited a seat's answer has its outcome (R381): a move of a tile learns it; a refused BANK is recorded (R390). -/
def endOp (s : State) (o : RemoteOp) (status : Nat) (old : DWord) : State :=
  let s1 := s.updConvoy (fun c => { c with ops := c.ops.filter (fun x => x.op ≠ o.op) })
  match o.kind with
  | .dockWrite => s1.answerMove o.tile o.op (if status = msOk then none else some status)
  | .commit =>
    (s1.updTile o.tile (fun T => { T with moves := T.moves.map (fun m => if m.op = o.op && m.sent && !m.landed then { m with old := old } else m) })).answerMove
      o.tile o.op (if status = msOk then none else some status)
  | .bank => if status = msOk then s1 else s1.recordErr pgCvy 0x6D04
  | _ => s1

/-- An answer of a seat whose TYPE fits an operation that awaits it (R381): an error status may end any operation. -/
def answerOp (s : State) (seat op status : Nat) (old : DWord) (fits : RemoteKind → Bool) : State :=
  match s.awaited seat op with
  | none => s
  | some o => if fits o.kind || status ≠ msOk then s.endOp o status old else s

/-- Lines that a peer's operation reads (2) or writes (3) enter by the convoy port of its packet, and their flits travel to the stack (R38). -/
def peerLines (s : State) (port ev a n : Nat) : State := s.countLines (sourceConvoy port) ev ((List.range n).map (a + ·))

/-- Performs the operation of a packet once (R374, R381, R382, R388, R389). -/
def performOp (s : State) (p : CaravanPacket) : State :=
  match p.op with
  | .dockWrite op tile dock offset rows => s.seatHeader p.port tile p.src op p.tenant dock offset rows
  | .memWrite op a data =>
    if s.granted a data.length p.tenant 17 then
      ((s.writeKeys ((List.range data.length).map (a + ·)) data).peerLines p.port 3 a data.length).respond p.src p.tenant op msOk
    else s.deny p.src op a data.length p.tenant
  | .readRequest op a n =>
    let ks := (List.range n).map (a + ·)
    if !s.granted a n p.tenant 16 then s.deny p.src op a n p.tenant
    else if s.anyMarked ks then (s.countPoison ks).hwFault .none
    else (s.peerLines p.port 2 a n).post p.src p.tenant (.readResponse op a (s.bytes a n))
  | .readResponse op _ data =>
    match s.awaited p.src op with
    | some { kind := .read a n, op := op, seat := x, tile := t } => if data.length = n then (s.devWrite a data).endOp { kind := .read a n, op := op, seat := x, tile := t } msOk 0 else s
    | _ => s
  | .commitRequest op a expected new =>
    let ks := (List.range 8).map (a + ·)
    if !s.granted a 8 p.tenant 18 then s.deny p.src op a 8 p.tenant
    else if a % 8 ≠ 0 then (s.recordErr pgCvy 0x5102).respond p.src p.tenant op msAlign
    else if s.anyMarked ks then (s.countPoison ks).hwFault .none
    else
      let old := s.nat a 8
      (if old = expected.toNat then (s.writeKeys ks (natLE 8 new.toNat)).peerLines p.port 3 a 8 else s.peerLines p.port 2 a 8).post p.src p.tenant
        (.commitResponse op msOk (BitVec.ofNat 64 old))
  | .commitResponse op status old => s.answerOp p.src op status old (· = .commit)
  | .completion op status => s.answerOp p.src op status 0 (fun k => k = .dockWrite || k = .memWrite || k = .bank)
  | .heartbeat steps _ claims => s.takeBeat p.src p.memEpoch steps claims
  | .ack seats fenced => s.takeAck p.src p.memEpoch seats fenced
  | .fence n e => s.takeFence p.src n e
  | .roster seats => if s.leads || decide (p.memEpoch < s.memEpoch) then s else s.applyRoster p.memEpoch seats
  | .leave => s.takeLeave p.src
  | .bank op id step => s.takeBank p.src op id step
  | .bankLost id step => s.takeBankLost id step
  | .ackOnly => s
  | .unlisted _ => s

/-- An operation that cannot be taken now: the ingress buffer has no room or the stack is in self-refresh (R306), so its packet counts as lost. -/
def opWaits (s : State) : CaravanOp → Bool
  | .memWrite _ a data => s.devHeld a data.length
  | .readRequest _ a n => s.devHeld a n
  | .commitRequest _ a _ _ => s.devHeld a 8
  | .dockWrite _ tile _ _ rows => decide (32 < s.ingressRows (s.ingressTile tile) + rows.length)
  | _ => false

/-- A packet's operation is malformed, so that its TYPE and length are not those of R381. -/
def opBad : CaravanOp → Bool
  | .dockWrite _ tile dock _ rows => decide (64 ≤ tile) || decide (16 ≤ dock) || rows.isEmpty || decide (8 < rows.length)
  | .memWrite _ _ data => data.isEmpty || decide (8192 < data.length)
  | .readRequest _ _ n => n = 0 || decide (8192 < n)
  | .readResponse _ _ data => decide (8192 < data.length)
  | .unlisted _ => true
  | _ => false

/-- A Caravan packet is received (R379–R382): discarded, or its acknowledgements are taken and its operation is performed once. Caravan is refused in drive
service (R42). -/
def receive (s : State) (p : CaravanPacket) : State :=
  let x := s.arrives p.port p.udp p.version p.convoy
  if !x.1 || !s.isMember || p.dst ≠ s.ownSeat then x.2
  else if p.keyEpoch ≠ (s.seat p.src).keyEpoch then s.bump (pgCvy + 0x148)
  else if !s.seatLive p.src || !(s.seat p.src).manifestOk then s
  else if p.tag ≠ s.caravanTag p then s.bump (pgCvy + 0x144)
  else if opBad p.op || p.len ≠ (caravanData p.op).length then s
  else
    let s1 := s.takeAcks p.src p.ack p.sack
    if p.op = .ackOnly then s1
    else if psnSeen (s1.peer p.src) p.psn then s1.setPeer p.src { s1.peer p.src with ackOwed := true }
    else if s1.opWaits p.op then s1
    else (s1.takePsn p.src p.psn).performOp p

/-- A joining device as the seat that a roster update gives it (R371). -/
def seated (s : State) (p : CaravanPacket) (seats : List SeatInfo) (x : SeatInfo) : State :=
  let s1 := ((s.setCvyState 2).setFld (pgCvy + 0x104) 15 8 p.dst).setReg (pgCvy + 0x10C) (BitVec.ofNat 32 x.keyEpoch)
  (((s1.updConvoy (fun c => { c with leaderSeat := p.src, beatAt := s.now })).renewLease).applyRoster p.memEpoch seats).takePsn p.src p.psn

/-- A joining device takes its seat from the leader's roster update, whose tag its own contents let it check (R371, R372), or learns that it was refused where the update
gives it none (log entry 115). -/
def takeSeat (s : State) (p : CaravanPacket) (seats : List SeatInfo) : State :=
  match seats.find? (fun x => x.seat = p.dst && x.live) with
  | none => ((s.setCvyState 0).recordErr pgCvy 0x6D05).convoyNotice 1 p.dst
  | some x =>
    let s2 := s.seated p seats x
    if !(s2.seat p.src).manifestOk then s
    else if p.tag ≠ s2.caravanTag p then s.bump (pgCvy + 0x144) else s2

end State

/-- Receives a packet whose operation is of the kind that a command is about. -/
def receiveKind (kind : CaravanOp → Bool) (p : CaravanPacket) (s : State) : Res := whenLive s (fun s => if kind p.op then s.receive p else s)

/-- CARAVAN_PACKET (R379–R382). -/
def execCaravanPacket (p : CaravanPacket) (s : State) : Res := whenLive s (fun s => s.receive p)

/-- ROSTER_UPDATE (R371). -/
def execRosterUpdate (p : CaravanPacket) (s : State) : Res :=
  whenLive s (fun s =>
    match p.op with
    | .roster seats =>
      if s.cvyState = 1 then
        let x := s.arrives p.port p.udp p.version p.convoy
        if x.1 && decide (p.dst < 256) then s.takeSeat p seats else x.2
      else s.receive p
    | _ => s)

/-- HEARTBEAT (R373, R388, R389). -/
def execHeartbeat (p : CaravanPacket) (s : State) : Res := receiveKind (fun o => match o with
  | .heartbeat .. => true
  | _ => false) p s

/-- ACKNOWLEDGEMENT (R373, R375). -/
def execAcknowledgement (p : CaravanPacket) (s : State) : Res := receiveKind (fun o => match o with
  | .ack .. => true
  | _ => false) p s

/-- CONVOY_FENCE (R374, R375). -/
def execConvoyFence (p : CaravanPacket) (s : State) : Res := receiveKind (fun o => match o with
  | .fence .. => true
  | _ => false) p s

/-- LEAVE_MESSAGE (R374, R376). -/
def execLeaveMessage (p : CaravanPacket) (s : State) : Res := receiveKind (fun o => match o with
  | .leave => true
  | _ => false) p s

/-- BANK (R388, R390). -/
def execBank (p : CaravanPacket) (s : State) : Res := receiveKind (fun o => match o with
  | .bank .. => true
  | _ => false) p s

/-- BANK_LOST (R389). -/
def execBankLost (p : CaravanPacket) (s : State) : Res := receiveKind (fun o => match o with
  | .bankLost .. => true
  | _ => false) p s

/-- HEARTBEAT_TIMER (R373, R388, R389): every 1 ms, to the leader and to the standby. The leader sends none; its own consists' steps count where they are seen. -/
def execHeartbeatTimer (s : State) : Res :=
  whenLive s (fun s =>
    if !s.isMember || decide (s.now < s.convoy.beatAt + 1000000) then s
    else
      let steps := s.beatSteps
      let claims := s.beatClaims
      let s1 := forEach claims (s.updConvoy (fun c => { c with beatAt := s.now })) (fun s x => s.updConsist x.1 (fun k => { k with claim := none }))
      if s.leads then
        forEach claims (forEach steps s1 (fun s x => s.noteEnded x.1 s.ownSeat x.2)) (fun s x => s.noteClaim x.1 s.ownSeat x.2)
      else
        let suspects := (s.convoy.peers.filter (fun e => e.2.suspect)).map (·.1)
        forEach s.watchers s1 (fun s n => s.post n 0 (.heartbeat (steps.map (fun x => (s.consistId x.1, x.2))) suspects (claims.map (fun x => (s.consistId x.1, x.2))))))

/-- SEAT_DEAD (R374): the leader has heard nothing from a seat for 4 ms. -/
def execSeatDead (seat : Nat) (s : State) : Res :=
  whenLive s (fun s =>
    if !s.leads || seat = s.ownSeat || !s.seatLive seat || decide (s.now < (s.seat seat).lastBeat + 4000000) then s else s.fenceSeat seat)

/-- LEASE_EXPIRY (R375): a standby that can claim leaves it to its claim (R376). -/
def execLeaseExpiry (s : State) : Res :=
  whenLive s (fun s =>
    if !s.isMember || s.leads || !s.convoy.leaseOn || decide (s.now < s.convoy.leaseAt) then s
    else if s.standsBy && s.majorityHeard 2000000 false then s
    else s.fenceSelf 3)

/-- STANDBY_CLAIM (R376). -/
def execStandbyClaim (s : State) : Res :=
  whenLive s (fun s =>
    if s.standsBy && s.convoy.leaseOn && decide (s.convoy.leaseAt ≤ s.now) && s.majorityHeard 2000000 false then s.claimLead else s)

/-- LEADER_SELF_FENCE (R376): over the last 8 ms, in all of which it has led, the leader has heard no more than half of the live seats. -/
def execLeaderSelfFence (s : State) : Res :=
  whenLive s (fun s => if s.leads && decide (s.convoy.leadSince + 8000000 ≤ s.now) && !s.majorityHeard 8000000 true then s.fenceSelf 3 else s)

/-- The timeout of a packet in ns (R380): CVY_RTO doubled on each retry, at most 1 ms. -/
def State.rtoNs (s : State) (tries : Nat) : Nat := min 1000000 (1000 * s.fld (pgCvy + 0x124) 15 0 * 2 ^ tries)

/-- The operation of this device that a packet carries, if it does. -/
def requestOf : CaravanOp → Option Nat
  | .dockWrite op _ _ _ _ => some op
  | .memWrite op _ _ => some op
  | .readRequest op _ _ => some op
  | .commitRequest op _ _ _ => some op
  | .bank op _ _ => some op
  | _ => none

/-- RETRANSMIT (R380): a packet not acknowledged is sent again after its timeout; after RETRIES it is given up, and its operation completes ADDR_UNMAPPED. -/
def execRetransmit (seat : Nat) (psn : Nat) (s : State) : Res :=
  whenLive s (fun s =>
    let p := s.peer seat
    match p.unacked.find? (fun u => u.pkt.psn = psn) with
    | none => s
    | some u =>
      if s.now < u.sentAt + s.rtoNs u.tries then s
      else if s.fld (pgCvy + 0x124) 19 16 ≤ u.tries then
        let s1 := s.setPeer seat { p with unacked := p.unacked.filter (fun v => v.pkt.psn ≠ psn), suspect := true }
        (match requestOf u.pkt.op with
          | some op => s1.answerOp seat op msUnmapped 0 (fun _ => true)
          | none => s1).flushWaiting seat
      else
        let again := { u with tries := u.tries + 1, sentAt := s.now }
        ((s.setPeer seat { p with unacked := p.unacked.map (fun v => if v.pkt.psn = psn then again else v) }).bump (pgCvy + 0x140)).transmit u.pkt u.wire)

/-- ACKNOWLEDGEMENT_ONLY (R380). It takes no PSN (log entry 115). -/
def execAcknowledgementOnly (seat : Nat) (s : State) : Res :=
  whenLive s (fun s =>
    let p := s.peer seat
    if !s.isMember || !p.ackOwed then s
    else
      let x := s.sealedPacket (s.bare seat 0 0 .ackOnly)
      (s.setPeer seat { p with ackOwed := false }).transmit x.1 x.2)

/-- BANK_LATE (R388): the leader sends BANK for the oldest step that a member has not ended by T(s) + D × LATE_PCT / 100, once per member and step. Before a step's duration
is known there is no D, and nothing is late (log entry 116). -/
def execBankLate (consist : Nat) (member : Nat) (s : State) : Res :=
  whenLive s (fun s =>
    let k := s.consist consist
    let pct := s.fld (pgCvy + 0x128) 7 0
    if !s.leads || s.consistState consist ≠ 1 || !s.consistHas consist member || pct = 0 || k.durations = [] || s.fld (State.consistReg consist 8) 31 31 = 0 then s
    else
      let done := fun (step : Nat) => match smFind k.ended member with
        | some x => decide (step ≤ x)
        | none => false
      match k.halves.reverse.find? (fun h => !done h.1 && !k.banked.contains (member, h.1) && decide (h.2 + medianOf k.durations * pct / 100 ≤ s.now)) with
      | none => s
      | some h => s.sendBank consist member h.1)

/-! ### Consist slots (R384, R393) -/

namespace State

/-- The conditions of ARM (R384). -/
def armOk (s : State) (n : Nat) : Bool :=
  let ring := s.fld (consistReg n 4) 20 0
  s.consistState n ≠ 1 && s.isMember && s.ringKnown ring && (s.ring ring).kind = 0 && ringTenant ring = s.fld (consistReg n 0) 27 16
    && s.consistHas n s.ownSeat && (List.range 16).all (fun k => k = n || s.consistState k = 0 || s.consistId k ≠ s.consistId n)

/-- A write to CS_CTL (R384, R393): ID and TENANT change while the slot is FREE or ABORTED; ARM and FREE together are unlisted. -/
def writeConsist (s : State) (n : Nat) (w : Word) : State :=
  let st := s.consistState n
  let s1 := if st = 1 then s else (s.setFld (consistReg n 0) 15 0 (bitsOf w 15 0)).setFld (consistReg n 0) 27 16 (bitsOf w 27 16)
  let arm := bitsOf w 30 30 = 1
  let free := bitsOf w 31 31 = 1
  if arm && free then s1.regAccess pgCvy
  else if arm then
    if s1.armOk n then ((s1.settleOffered n).updConsist n (fun k => { k with ended := [], halves := [], durations := [], banked := [], claim := none, bankStep := none })).setFld
      (consistReg n 0) 29 28 1
    else s1.regAccess pgCvy
  else if free then (if st = 2 then (s1.settleOffered n).setFld (consistReg n 0) 29 28 0 else s1)
  else if st = 1 then s1.regAccess pgCvy else s1

/-- A write to another register of a slot: only while it is FREE or ABORTED (R384). -/
def writeSlotReg (s : State) (n a : Nat) (w : Word) : State :=
  if s.consistState n = 1 then s.regAccess pgCvy else (s.settleOffered n).writeFields a w

end State

/-- ARM: CS_CTL is written with ARM (R384). -/
def execArm (who : Writer) (slot : Nat) (w : Word) (s : State) : Res :=
  whenLive s (fun s => s.regWrite who (State.consistReg slot 0) (fun s => s.writeConsist slot (w ||| 0x40000000)))

/-- FREE: CS_CTL is written with FREE (R393). -/
def execFreeSlot (who : Writer) (slot : Nat) (w : Word) (s : State) : Res :=
  whenLive s (fun s => s.regWrite who (State.consistReg slot 0) (fun s => s.writeConsist slot (w ||| 0x80000000)))

end Sys2Proof.Machine
end

