-- ==== Sys2Proof/Machine/Dram.lean ====
section
/-! DEFINITION. Stacked DRAM's own commands (R293, R294, R297, R300, R301, R307, R320). -/

namespace Sys2Proof.Machine

open Sys2Proof

/-- Lines of a stack. -/
def stackLines : Nat := dieBytes / 64

namespace State

/-- What the patrol does with a line (R297): corrected, or marked and cleared without a recovery. -/
def patrolLine (s : State) (l : Nat) (symbols : List Nat) (mac copyBad : Bool) : State :=
  if s.dram.marked.contains l then
    let s1 := (s.bump (pgDramc (lineDie l) + 0x120)).countErr (pgDramc (lineDie l)) 0x1405
    if s1.inReserve l then s1.reserveLine l copyBad else s1
  else
    let v := s.lineVerdict symbols mac
    match v.1 with
    | .clean => v.2
    | .corrected => v.2.lineCorrected l
    | .uncorrectable | .macFail =>
      let s1 := v.2.markLine l (v.1 = .macFail) true
      if s1.inReserve l then s1.reserveLine l copyBad else s1.loseLine l

/-- Sites that can hold a copy of the drive reserve: stacks in service (R307). -/
def reserveStacks (s : State) : List Nat := s.sites.filter (fun d => s.fld (pgDramc d + 0x100) 0 0 = 1 && s.fld (pgDramc d + 0x100) 4 4 = 0)

/-- The stacks that a start chooses for the drive reserve (R307): the lowest site of each row, or the two of the one row. -/
def chooseReserve (s : State) : List Nat :=
  let north := s.reserveStacks.filter (· < 2)
  let south := s.reserveStacks.filter (2 ≤ ·)
  if north ≠ [] ∧ south ≠ [] then north.take 1 ++ south.take 1 else (north ++ south).take 2

/-- The stack on which a new copy is built after a die's quarantine (R320): the other stack of its row, else the lowest-numbered one. -/
def rebuildSite (s : State) (d : Nat) : Option Nat :=
  let ok := s.reserveStacks.filter (fun x => x ≠ d && !s.dram.reserveSites.contains x)
  match ok.find? (fun x => x / 2 = d / 2) with
  | some x => some x
  | none => ok.head?

/-- Where the bytes of a copy of the drive reserve start. -/
def reserveBase (s : State) (d : Nat) : Nat := d * dieBytes + s.reserveStart d * pageBytes

/-- Registered objects in one copy of the drive reserve are found in another one. -/
def moveObjects (s : State) (src dst : Nat) : State :=
  { s with sec := { s.sec with handles := s.sec.handles.map (fun h =>
    if lineDie (h.dest / 64) = src ∧ s.inReserve (h.dest / 64) then { h with dest := s.reserveBase dst + (h.dest - s.reserveBase src) } else h) } }

/-- A copy of the drive reserve is made on a stack, in the first run of its free pages that holds it; `none` where no run does (log entry 145). -/
def addCopy (s : State) (d : Nat) : Option State :=
  match s.dram.reserveSites.head?, poolFit s.ledger.pool (d * stackPages) ((d + 1) * stackPages) s.dram.reservePages with
  | some src, some a =>
    let s1 : State := { s with
      ledger := { s.ledger with pool := poolCut s.ledger.pool a s.dram.reservePages }
      dram := { s.dram with
        marked := s.dram.marked.filter (fun l => !(lineDie l = d && decide (a ≤ l * 64 / pageBytes) && decide (l * 64 / pageBytes < a + s.dram.reservePages)))
        reserveMoved := smPut s.dram.reserveMoved d (a % stackPages), reserveSites := s.dram.reserveSites ++ [d] } }
    let n := s.dram.reservePages * pageBytes
    let cells := s.mem.filter (fun e => decide (s1.reserveBase src ≤ e.1) && decide (e.1 < s1.reserveBase src + n))
    some { s1 with mem := cells.foldl (fun m e => memPut m (e.1 - s1.reserveBase src + s1.reserveBase d) e.2) (memZero s.mem (s1.reserveBase d) n) }
  | _, _ => none

/-- The copy of the drive reserve on a stack is given up: what was registered in it is found in the other copy. -/
def dropCopy (s : State) (d : Nat) : State :=
  let s1 := match s.dram.reserveSites.find? (· ≠ d) with
    | some x => s.moveObjects d x
    | none => s
  { s1 with dram := { s1.dram with reserveSites := s1.dram.reserveSites.filter (· ≠ d), reserveMoved := smErase s1.dram.reserveMoved d } }

end State

/-- PATROL (R297): the next line of a stack is read; a completed walk counts. The patrol pauses in self-refresh. -/
def execPatrol (die : Nat) (symbols : List Nat) (mac : Bool) (copyBad : Bool) (s : State) : Res :=
  whenLive s (fun s =>
    if !s.stackUp die || s.fld (pgDramc die + 0x100) 3 3 = 1 then s
    else
      let i := (s.stack die).patrolAt
      let s1 := s.updStack die (fun k => { k with patrolAt := (i + 1) % stackLines })
      let s2 := if i + 1 = stackLines then s1.bump (pgDramc die + 0x124) else s1
      s2.patrolLine (die * stackLines + i) symbols mac copyBad)

/-- LINE_REWRITE (R293): the oldest corrected line that no write has overtaken is written back; a stack in self-refresh takes no write (R306). -/
def execLineRewrite (die : Nat) (s : State) : Res :=
  whenLive s (fun s =>
    if s.fld (pgDramc die + 0x100) 3 3 = 1 then s
    else match (s.stack die).rewrites with
    | [] => s
    | l :: ls => s.updStack die (fun k => { k with rewrites := ls, rewritten := if k.rewritten.contains l then k.rewritten else k.rewritten ++ [l] }))

/-- CH_MIGRATED (R300, step 3): channel 32 takes the channel's place, with what the copy found in lines of the channel; a line of the drive reserve that it
marked is resolved by the other copy (R307). A completion after 121 ms is logged as late, and a stack in self-refresh copies nothing (R306). -/
def execChMigrated (die : Nat) (lines : List LineFinding) (s : State) : Res :=
  whenLive s (fun s =>
    match (s.stack die).failing with
    | none => s
    | some (ch, since) =>
      let p := pgDramc die + 0x100
      if s.fld p 3 3 = 1 then s else
      let own := lines.filter (fun f => lineDie f.line = die && lineChannel f.line = ch)
      let s0 := forEach own s State.lineRead
      let s := forEach (own.map (·.line)) s0 (fun s l => if s.dram.marked.contains l && s.inReserve l then s.reserveLine l false else s)
      let s1 := (((s.updStack die (fun k => { k with failing := none })).setFld p 1 1 1).setFld p 2 2 0).setFld p 12 8 ch
      let s2 := s1.recordErr (pgDramc die) 0x4407 ch
      if since + 121000000 < s.now then s2.recordErr (pgDramc die) 0x4408 ch else s2)

/-- DRAM_REFRESH (R301): one bank of a channel is refreshed; its contents do not change. A stack in self-refresh gets no command. -/
def execDramRefresh (die : Nat) (_channel : Nat) (_bank : Nat) (s : State) : Res :=
  whenLive s (fun s => if !s.stackUp die || s.fld (pgDramc die + 0x100) 3 3 = 1 then s else s.countEvent (pgDieCnt die) 6)

/-- DRIVE_RESERVE_COPY (R320): the new copy of the drive reserve is complete. -/
def execDriveReserveCopy (s : State) : Res :=
  whenLive s (fun s =>
    match s.dram.building.bind s.addCopy with
    | none => s
    | some s1 => { s1 with dram := { s1.dram with building := none } })

/-- DRAM_UE (R291–R294): a read whose command carries no findings of its own, by a unit of a hub or a convoy peer, finds spoiled symbols or a MAC that fails in a
line. One symbol is corrected; a line that cannot be corrected is marked, and the fault starts the recovery; a line of the drive reserve falls under R307.
Log entry 136. -/
def execDramUe (addr : Nat) (symbols : List Nat) (mac : Bool) (copyBad : Bool) (s : State) : Res :=
  whenLive s (fun s =>
    let l := addr / 64
    if !s.stackUp (lineDie l) || s.fld (pgDramc (lineDie l) + 0x100) 3 3 = 1 then s
    else if s.dram.marked.contains l then
      let s1 := (s.bump (pgDramc (lineDie l) + 0x120)).countErr (pgDramc (lineDie l)) 0x1405
      if s1.inReserve l then s1.reserveLine l copyBad else s1.hwFault .none
    else
      let v := s.lineVerdict symbols mac
      match v.1 with
      | .clean => v.2
      | .corrected => v.2.lineCorrected l
      | .uncorrectable | .macFail =>
        let s1 := v.2.markLine l (v.1 = .macFail) false
        if s1.inReserve l then s1.reserveLine l copyBad else s1.hwFault .none)

end Sys2Proof.Machine
end

