-- ==== Sys2Proof/Machine/Timetable.lean ====
section
/-! DEFINITION. The timetable image (R244–R246), frames and slots (R247–R250), ticks (R251–R256), and the placement orders (R257). -/

namespace Sys2Proof.Machine

open Sys2Proof

/-! ### The image (R244, R245) -/

/-- The entry that 32 bytes spell (R245). -/
def TTEntry.of (bs : List Byte) : TTEntry :=
  { handle := bytesNat bs 0 4, release := bytesNat bs 4 2, deadline := bytesNat bs 6 2, budget := bytesNat bs 8 4, pairs := bytesNat bs 0xC 1,
    pool := bytesNat bs 0xD 1, rank := bytesNat bs 0xE 1, proof := bytesNat bs 0xF 1 % 2 = 1, store16 := bytesNat bs 0x10 1,
    ibuf64 := bytesNat bs 0x11 1, arg2 := BitVec.ofNat 32 (bytesNat bs 0x14 4), arg0 := bytesNat bs 0x18 8 }

/-- Every field of an entry lies within R245. -/
def entryOk (slots : Nat) (bs : List Byte) : Bool :=
  let e := TTEntry.of bs
  e.release < e.deadline && e.deadline ≤ slots && 1 ≤ e.budget && e.budget ≤ (e.deadline - e.release) * 25000 && 1 ≤ e.pairs && e.pairs ≤ 32
    && e.pool ≤ 15 && bytesNat bs 0xF 1 ≤ 1 && 1 ≤ e.store16 && e.store16 ≤ 80 && 1 ≤ e.ibuf64 && e.ibuf64 ≤ 32 && bytesNat bs 0x12 2 = 0

/-- Bytes of the entries of an image. -/
def entryBytes (img : List Byte) (i : Nat) : List Byte := (img.drop (256 + 32 * i)).take 32

/-- The timetable that an image spells. -/
def Timetable.of (img : List Byte) : Timetable :=
  let n := bytesNat img 6 2
  let slots := bytesNat img 8 2
  { slots := slots, floor := bytesNat img 0xA 1, internal := bytesNat img 0xB 1 = 1, proofSlot := bytesNat img 0xC 2,
    reserve := bytesNat img 0x10 8, pools := (List.range 16).map (fun i => BitVec.ofNat 32 (bytesNat img (0x20 + 4 * i) 4)),
    entries := (List.range n).map (fun i => TTEntry.of (entryBytes img i)),
    slack := (List.range slots).map (fun k => BitVec.ofNat 32 (bytesNat img (256 + 32 * n + 4 * k) 4)),
    digest := (img.drop 0x60).take 64 }

/-- Header and entries lie within R244 and R245. -/
def imageOk (img : List Byte) : Bool :=
  let n := bytesNat img 6 2
  let slots := bytesNat img 8 2
  bytesNat img 0 4 = 0x54544C53 && bytesNat img 4 2 = 1 && 1 ≤ n && n ≤ 4096 && 100 ≤ slots && slots ≤ 2000
    && [8, 12, 16, 20].contains (bytesNat img 0xA 1) && bytesNat img 0xB 1 ≤ 1 && decide (bytesNat img 0xC 2 < slots)
    && bytesNat img 0xE 2 = 0 && bytesNat img 0x18 8 = 0 && bytesNat img 0xA0 96 = 0 && img.length = 256 + 32 * n + 4 * slots
    && (List.range n).all (fun i => entryOk slots (entryBytes img i))

namespace State

/-- Pairs of the populated sites, as a mask (R4, R246). -/
def sitePairs (s : State) : Nat := listMask (s.sites.flatMap (fun d => (List.range 8).map (fun k => 8 * d + k)))

/-- The proving-run entry's own conditions (R246). -/
def proofOk (s : State) (tt : Timetable) : Bool :=
  match tt.entries.filter (·.proof) with
  | [e] => e.release = tt.proofSlot && e.deadline = tt.proofSlot + 1 && e.rank = 0xFF && e.pairs = 8 * s.sites.length
      && (tt.pools.getD e.pool 0).toNat = s.sitePairs
  | _ => false

/-- The checks of R246, besides the digest. -/
def timetableOk (s : State) (img : List Byte) : Bool :=
  let tt := Timetable.of img
  imageOk img && tt.entries.all (fun e => (s.programOf e.handle 0).isSome) && s.proofOk tt
    && tt.entries.all (fun e => e.proof || !(e.release ≤ tt.proofSlot && tt.proofSlot < e.deadline))
    && (tt.slack.getD tt.proofSlot 0) = 0

/-- Loads a timetable (R246): FLOOR goes to every tile, and the tick source of drive service is the timetable's (R251). -/
def loadTimetable (s : State) (img : List Byte) : State :=
  let tt := Timetable.of img
  let s1 := s.updDisp (fun d => { d with tt := some tt, runs := [], inFrame := false, lastFrame := false, tickOwed := false, lastTick := none })
  let s2 := forEach (List.range 68) s1 (fun s t => s.setFld (pgTile t + 0x108) 12 8 tt.floor)
  s2.setFld (pgTick + 0x104) 1 0 (if tt.internal then 1 else 0)

/-- The frame period in nanoseconds (R244). -/
def framePeriod (s : State) : Nat := ((s.disp.tt).map (fun t => t.slots * 50000)).getD 0

/-! ### Ticks -/

/-- A tick falls at a station time: it is the last tick from then on, and in drive service a frame is owed (R51, R251, R256). -/
def takeTick (s : State) (at_ : Nat) : State :=
  let s1 := (s.setReg (pgTick + 0x10C) (BitVec.ofNat 32 at_)).setReg (pgTick + 0x110) (BitVec.ofNat 32 (at_ / 2 ^ 32))
  s1.updDisp (fun d => { d with lastTick := some at_, tickOwed := s.driveRuns && !d.lastFrame, tickDelay := 0 })

/-- TICK_STAT.SRC: 0 FRAME_SYNC, 1 internal in drive, 2 internal in depot, 3 PTP. -/
def tickSource (s : State) : Nat := s.fld (pgTick + 0x104) 1 0

/-- The internal timebase takes over, and the islands act (R252). -/
def useInternal (s : State) : State :=
  let s1 := ((s.setFld (pgTick + 0x104) 1 0 1).setFld (pgTick + 0x104) 3 3 1).setFld (pgTick + 0x104) 7 4 0
  (s1.updDisp (fun d => { d with lastPulse := none })).islandAct evFallback 0x5903

/-- The device falls back to the internal timebase (R252). -/
def tickFallback (s : State) : State := (s.recordErr pgTick 0x5903).useInternal

/-- The drive service's tick source is watched: a timetable is loaded and the device is not in depot service. -/
def watchesSync (s : State) : Bool :=
  s.service ≠ 2 && (match s.disp.tt with
    | some t => !t.internal
    | none => false)

/-- A FRAME_SYNC pulse on the normal source (R252), its rising edge now and high for `high` ns. -/
def syncEdge (s : State) (high : Nat) : State :=
  let p := s.framePeriod
  if high < 200 then s.bump (pgTick + 0x11C)
  else
    let early := match s.disp.lastTick with
      | some t => decide (2 * s.now < 2 * t + p)
      | none => false
    let late := match s.disp.lastTick with
      | some t => decide (2 * t + 3 * p ≤ 2 * s.now)
      | none => false
    if early then s.bump (pgTick + 0x114)
    else if late then s
    else
      let s1 := ((s.takeTick s.now).updDisp (fun d => { d with tickDelay := 1000 })).setFld (pgTick + 0x104) 9 8 0
      if 50000 < high then s1.bump (pgTick + 0x120) else s1

/-- A pulse while the device runs on its fallback (R253): good pulses are counted in a row. -/
def fallbackPulse (s : State) (high : Nat) : State :=
  let p := s.framePeriod
  if high < 200 then s.bump (pgTick + 0x11C)
  else
    let good := high ≤ 50000 && (match s.disp.lastPulse with
      | some t => decide (99 * p ≤ 100 * (s.now - t)) && decide (100 * (s.now - t) ≤ 101 * p)
      | none => false)
    let n := if good then min 8 (s.fld (pgTick + 0x104) 7 4 + 1) else 0
    ((s.setFld (pgTick + 0x104) 7 4 n).setFld (pgTick + 0x104) 2 2 0).updDisp (fun d => { d with lastPulse := some s.now, syncHigh := false })

end State

/-- FRAME_SYNC_EDGE (R252, R253): a pulse that rises now and stays high for `high` ns; one that stays high beyond 100 µs is no pulse but FRAME_SYNC_STUCK's
line. -/
def execFrameSyncEdge (high : Nat) (s : State) : Res :=
  whenLive s (fun s =>
    if !s.watchesSync then s
    else if s.tickSource = 0 then (if 100000 < high then s else s.syncEdge high)
    else if s.fld (pgTick + 0x104) 3 3 = 1 then s.fallbackPulse high
    else s)

/-- FRAME_SYNC_STUCK (R252): high beyond 100 µs. -/
def execFrameSyncStuck (s : State) : Res :=
  whenLive s (fun s =>
    if !s.watchesSync || s.tickSource ≠ 0 then s
    else (((s.setFld (pgTick + 0x104) 2 2 1).bump (pgTick + 0x124)).updDisp (fun d => { d with syncHigh := true })).tickFallback)

/-- MISSING_TICK (R252): no rising edge by 1.5 P; the third in a row changes to the internal timebase. -/
def execMissingTick (s : State) : Res :=
  whenLive s (fun s =>
    match s.disp.lastTick with
    | none => s
    | some t =>
      let due := t + 3 * s.framePeriod / 2
      if !s.watchesSync || s.tickSource ≠ 0 || decide (s.now < due) then s
      else
        let n := min 3 (s.fld (pgTick + 0x104) 9 8 + 1)
        let s1 := ((s.takeTick due).bump (pgTick + 0x118)).setFld (pgTick + 0x104) 9 8 n
        if n = 3 then s1.tickFallback else s1)

/-- INTERNAL_TICK (R251–R253): the internal timebase ticks every P; after 8 good pulses the source returns to FRAME_SYNC. -/
def execInternalTick (s : State) : Res :=
  whenLive s (fun s =>
    if s.tickSource ≠ 1 || s.disp.tt.isNone then s
    else
      let due := (s.disp.lastTick.map (· + s.framePeriod)).getD s.now
      if s.now < due then s
      else
        let s1 := s.takeTick due
        if s1.fld (pgTick + 0x104) 3 3 = 1 ∧ s1.fld (pgTick + 0x104) 7 4 = 8 then
          (((s1.setFld (pgTick + 0x104) 1 0 0).setFld (pgTick + 0x104) 3 3 0).setFld (pgTick + 0x104) 7 4 0).setFld (pgTick + 0x104) 9 8 0
        else s1)

/-- A depot tick is due (R255): the period has passed, or with DEPOT_PTP in a convoy disciplined station time has crossed a multiple of it (R369). -/
def State.depotTickDue (s : State) : Bool :=
  let p := s.disp.depotMs * 1000000
  let ptp := s.tickSource = 3
  if ptp then decide (s.disp.depotTickAt / p < s.now / p) else decide (s.disp.nextDepotTick ≤ s.now)

/-- DEPOT_TICK (R255): LEDGER_EPOCH advances, batch steps may be placed, and a changed DEPOT_MS or DEPOT_PTP takes effect. The ticks of the depot source
go on through a handover (R256). -/
def execDepotTick (s : State) : Res :=
  whenLive s (fun s =>
    if s.tickSource < 2 || !s.depotTickDue then s
    else
      let ms := s.fld (pgTick + 0x100) 8 0
      let ptp := s.fld (pgTick + 0x100) 9 9 = 1 && s.fld (pgCvy + 0x104) 1 0 = 2
      let s1 := (s.takeTick s.now).updDisp (fun d =>
        { d with depotTickAt := s.now, nextDepotTick := s.now + ms * 1000000, depotMs := ms })
      let s2 := s1.setFld (pgTick + 0x104) 1 0 (if ptp then 3 else 2)
      s2.setFld (pgLedger + 0x118) 9 0 (s2.fld (pgLedger + 0x118) 9 0 + 1))

/-! ### Frames and slots -/

namespace State

/-- Entries that the early end of a frame finds unreleased are skipped and counted; released ones that still wait keep their latest start, and are placed
or shed by it (R254, R249; log entry 46). -/
def skipEntries (s : State) : State :=
  match s.disp.tt with
  | none => s
  | some tt =>
    if !s.disp.inFrame then s
    else forEach (List.range tt.entries.length) s (fun s i =>
      match tt.entries[i]? with
      | none => s
      | some e =>
        if (s.entryRun i).phase = .idle then s.bump (pgTick + 0x128)
        else if (s.entryRun i).phase = .released && !s.disp.ahead.any (fun p => p.entry = some i && s.thisFrame p) then
          let q := s.newPlacement (entryWaybill i e) 0 (some i) [] true false
          s.updDisp (fun d => { d with
            ahead := d.ahead ++ [{ q with releaseClk := d.lastFrameAt, latest := d.frameStart + 50000 * e.deadline - 2 * e.budget }]
            nextWid := d.nextWid + 1 })
        else s)

/-- A frame starts (R247, R251, R254): FRAME_OUT goes high for 1 µs, FRAME_NO advances, every entry is unreleased again. -/
def startFrame (s : State) (start : Nat) : State :=
  let s1 := if s.now < s.disp.frameStart + s.framePeriod then s.skipEntries else s
  let n := ((s1.disp.tt).map (·.entries.length)).getD 0
  let s2 := forEach (List.range n) s1 (fun s i => s.setEntryRun i { s.entryRun i with phase := .idle })
  let s3 := s2.updDisp (fun d => { d with inFrame := true, frameStart := start, tickOwed := false, lastFrameAt := s.clk })
  let s4 : State := { s3 with pins := { s3.pins with frameOut := start + 1000 } }
  s4.setReg (pgTick + 0x108) (s4.reg (pgTick + 0x108) + 1)

/-- Latest start of an entry (R249). -/
def latestStart (s : State) (e : TTEntry) : Nat := s.disp.frameStart + 50000 * e.deadline - 2 * e.budget

/-- An entry of the loaded timetable. -/
def entryAt (s : State) (i : Nat) : Option TTEntry := (s.disp.tt).bind (fun t => t.entries[i]?)

end State

/-- TICK (R247, R251): the frame of a drive-service tick starts, 1 µs after a FRAME_SYNC tick. -/
def execTick (s : State) : Res :=
  whenLive s (fun s =>
    match s.disp.lastTick with
    | none => s
    | some t =>
      if !s.disp.tickOwed || s.disp.lastFrame || !s.driveRuns || decide (s.now < t + s.disp.tickDelay) then s else s.startFrame (t + s.disp.tickDelay))

/-- SLOT_START (R247, R248): entries of this slot are released and placed, and tenant 0's rings are searched. -/
def execSlotStart (s : State) : Res :=
  whenLive s (fun s =>
    match s.disp.tt with
    | none => s
    | some tt =>
      if !s.disp.inFrame || !s.driveRuns || decide (s.now < s.disp.frameStart) then s
      else
        let k := s.slotNow
        let s1 := forEach (List.range tt.entries.length) s (fun s i =>
          match tt.entries[i]? with
          | none => s
          | some e => if !e.proof && e.release = k && (s.entryRun i).phase = .idle then s.setEntryRun i { s.entryRun i with phase := .released } else s)
        s1.dispatchOnce)

/-- LATEST_START (R249): a sheddable entry that is still unplaced is shed. -/
def execLatestStart (entry : Nat) (s : State) : Res :=
  whenLive s (fun s =>
    match s.entryAt entry with
    | none => s
    | some e =>
      if e.rank = 0xFF || (s.entryRun entry).phase ≠ .released || decide (s.now < s.latestStart e) then s
      else (s.setEntryRun entry { s.entryRun entry with phase := .shed }).bump (pgTick + 0x12C))

namespace State

/-- Pairs of an entry's pool that are in service. -/
def poolServes (s : State) (tt : Timetable) (e : TTEntry) : List Nat :=
  (List.range 32).filter (fun p => bitAt (tt.pools.getD e.pool 0).toNat p && s.pairServes p
    && !(e.rank = 0xFF && (s.safeBit 0x10C (2 * p) || s.safeBit 0x10C (2 * p + 1))))

/-- Running work of a pool in the order of R249: tenant-0 waybills, then sheddable tasks in ascending RANK, higher index first. -/
def abortOrder (s : State) (tt : Timetable) (pool : List Nat) : List Placement :=
  let here := s.disp.placements.filter (fun p => !p.ended && !p.aborting && p.units.any pool.contains)
  let bills := here.filter (fun p => p.entry.isNone)
  let rank := fun (p : Placement) => ((p.entry.bind (fun i => tt.entries[i]?)).map (·.rank)).getD 0xFF
  let tasks := here.filter (fun p => p.entry.isSome && rank p ≠ 0xFF)
  let before := fun (a b : Placement) => decide (rank a < rank b) || (rank a = rank b && decide (b.entry.getD 0 < a.entry.getD 0))
  bills ++ tasks.foldl (fun l p => l.takeWhile (fun q => before q p) ++ [p] ++ l.dropWhile (fun q => before q p)) []

/-- Aborts one piece of running work; a sheddable task counts as shed (R249, R250). -/
def shedOne (s : State) (p : Placement) : State :=
  let s1 := s.shedWork p.wid
  match p.entry with
  | none => s1
  | some i =>
    let s2 := if s1.disp.lastFrameAt ≤ p.releaseClk then s1.setEntryRun i { s1.entryRun i with phase := .shed } else s1
    s2.bump (pgTick + 0x12C)

/-- Aborts work of a list until `need` more pairs of the pool come free. -/
def shedUntil (pool : List Nat) : List Placement → Nat → State → State
  | [], _, s => s
  | p :: ps, need, s =>
    if need = 0 then s else shedUntil pool ps (need - (p.units.filter pool.contains).length) (s.shedOne p)

end State

/-- SAFETY_RANK_EVALUATION (R249): 30 µs before the latest start of a safety-rank entry that is still unplaced. -/
def execSafetyRankEvaluation (entry : Nat) (s : State) : Res :=
  whenLive s (fun s =>
    match s.disp.tt, s.entryAt entry with
    | some tt, some e =>
      if e.rank ≠ 0xFF || e.proof || (s.entryRun entry).phase ≠ .released || decide (s.now + 30000 < s.latestStart e) then s
      else
        let pool := s.poolServes tt e
        if pool.length < e.pairs then (s.setEntryRun entry { s.entryRun entry with phase := .shed }).taskFailed entry
        else
          let s1 := s.placeEntry entry
          if (s1.entryRun entry).phase ≠ .released then s1
          else
            let free := (pool.filter (fun p => s.pairFree p true)).length
            let coming := ((s.disp.placements.filter (fun p => p.aborting && !p.ended && (p.status = csShed || p.entry.isSome))).flatMap (·.units)).filter
              pool.contains
            State.shedUntil pool (s.abortOrder tt pool) (e.pairs - free - coming.length) s
    | _, _ => s)

/-- ABORT_COMPLETE (R249): the last move of an aborted pair has stopped; the pair is free. -/
def execAbortComplete (pair : Nat) (s : State) : Res :=
  whenLive s (fun s =>
    match s.disp.placements.find? (fun p => p.aborting && !p.ended && p.status = csShed && p.units.contains pair) with
    | none => s
    | some p =>
      let s1 := (s.freeTile (2 * pair)).freeTile (2 * pair + 1)
      let left := p.units.filter (· ≠ pair)
      let s2 := s1.updPlaced p.wid (fun q => { q with units := left })
      let s3 := if left = [] then s2.endShed p else s2
      if s3.dispatches then s3.placeAhead.placeEntries else s3)

/-! ### The proving run (R250) -/

namespace State

/-- A pair fails the proving run: its digest differs, or it has not finished within the slot, which is a pair compare mismatch. -/
def provingFailed (s : State) (pair : Nat) : State :=
  (s.recordErr (pgTile (2 * pair + 1)) 0x2602).startRecovery (.unit (.pair pair))

end State

/-- PROVING_RUN (R250): at the start of PROOF_SLOT every pair of the pool that is neither vacant nor isolated takes part; work still
running there is aborted. Pairs that have not finished the run before, whose slot is over, fail it. -/
def execProvingRun (s : State) : Res :=
  whenLive s (fun s =>
    match s.disp.tt with
    | none => s
    | some tt =>
      if !s.disp.inFrame || !s.driveRuns || s.disp.stopped || s.slotNow ≠ tt.proofSlot then s
      else if !s.disp.proving.isEmpty then
        (if s.now ≤ s.disp.provingBy then s
        else forEach s.disp.proving (s.updDisp (fun d => { d with proving := [] })) State.provingFailed)
      else
        match (List.range tt.entries.length).find? (fun i => ((tt.entries[i]?).map (·.proof)).getD false) with
        | none => s
        | some i =>
          if (s.entryRun i).phase ≠ .idle then s
          else
            let pool := ((tt.entries[i]?).map (fun e => (tt.pools.getD e.pool 0).toNat)).getD 0
            let pairs := (List.range 32).filter (fun p => bitAt pool p && s.pairServes p)
            let busy := s.disp.placements.filter (fun p => !p.ended && !p.aborting && p.units.any pairs.contains)
            let s1 := forEach busy s (fun s p =>
              match p.entry with
              | some e =>
                if ((tt.entries[e]?).map (·.rank)).getD 0 = 0xFF then
                  let s' := s.shedWork p.wid
                  let s'' := if s'.disp.lastFrameAt ≤ p.releaseClk then s'.setEntryRun e { s'.entryRun e with phase := .shed } else s'
                  s''.taskFailed e
                else s.shedOne p
              | none => s.shedOne p)
            (s1.updDisp (fun d => { d with proving := pairs, provingBy := s.disp.frameStart + 50000 * (tt.proofSlot + 1) })).setEntryRun i { s1.entryRun i with phase := .running })

/-- PROVING_RUN_END (R250): the digest of a pair's output is compared with PROOF_DIGEST; a difference, or an end past the slot in which the run began, is a pair
compare mismatch. A run that an early tick has left behind (R254) ends nothing in the frame that runs then. -/
def execProvingRunEnd (pair : Nat) (output : List Byte) (s : State) : Res :=
  whenLive s (fun s =>
    match s.disp.tt with
    | none => s
    | some tt =>
      if !s.disp.proving.contains pair then s
      else
        let s1 := s.updDisp (fun d => { d with proving := d.proving.filter (· ≠ pair) })
        let i := ((List.range tt.entries.length).find? (fun i => ((tt.entries[i]?).map (·.proof)).getD false)).getD 0
        let here := s.disp.provingBy = s.disp.frameStart + 50000 * (tt.proofSlot + 1)
        let s2 := if s1.disp.proving = [] && here then s1.setEntryRun i { s1.entryRun i with phase := .ended } else s1
        if sha512 output = tt.digest && decide (s.now ≤ s.disp.provingBy) then s2 else s2.provingFailed pair)

/-! ### Placement orders (R257) -/

namespace State

/-- The entries that a run of registers of four byte fields holds. -/
def orderEntries (s : State) (base n width : Nat) : List Nat :=
  (List.range n).flatMap (fun i => (List.range 4).map (fun j => s.fld (base + 4 * i) (8 * j + width - 1) (8 * j)))

/-- PO_LOAD: the shadow becomes the order if it is a permutation of 0–63. -/
def loadOrder (s : State) : State :=
  let l := s.orderEntries (pgDispatch + 0x110) 16 6
  if (List.range 64).all l.contains then s.updDisp (fun d => { d with order := l }) else s.regAccess pgDispatch

/-- PP_LOAD: the same for the 32 pairs. -/
def loadPairOrder (s : State) : State :=
  let l := s.orderEntries (pgDispatch + 0x150) 8 5
  if (List.range 32).all l.contains then s.updDisp (fun d => { d with pairOrder := l }) else s.regAccess pgDispatch

end State

/-- DISP_CTL written with PO_LOAD (R257). -/
def execPoLoad (who : Writer) (s : State) : Res := whenLive s (fun s => s.regWrite who (pgDispatch + 0x104) State.loadOrder)
/-- DISP_CTL written with PP_LOAD (R257). -/
def execPpLoad (who : Writer) (s : State) : Res := whenLive s (fun s => s.regWrite who (pgDispatch + 0x104) State.loadPairOrder)

end Sys2Proof.Machine
end

