-- ==== Sys2Proof/Machine/Recovery.lean ====
section
/-! DEFINITION. Coupled pairs and fault handling (R311–R332): the phases of the recovery, the verdict on a suspect, the spare and its fill, the
injection tests and the periodic self-test. -/

namespace Sys2Proof.Machine

open Sys2Proof

namespace State

/-! ### Events for the islands (R335) -/

/-- A pair or lane pair is withdrawn, or a die quarantined (R45, R324, R335). -/
def withdrawn (s : State) (code : Nat) : State := s.setDegraded.islandAct evWithdrawn code

/-- A safety-rank entry needs more pairs than its pool has in service (R335). -/
def poolShort (s : State) : Bool :=
  match s.disp.tt with
  | none => false
  | some tt => s.driveRuns && tt.entries.any (fun e => e.rank = 0xFF && !e.proof && decide ((s.poolServes tt e).length < e.pairs))

/-- The islands act where a safety pool falls short; the spec gives the event no code (log entry 40). -/
def poolCheck (s : State) : State := if s.poolShort then let x := s.fresh; x.2.islandAct evPoolShort (x.1 % 65536) else s

/-- A lane pair is withdrawn: there are no spare lanes (R316, R324). -/
def loseLane (s : State) (j code : Nat) : State :=
  let s1 := s.isolateLane j
  ({ s1 with ilk := { s1.ilk with lanesLost := j :: s1.ilk.lanesLost.filter (· ≠ j) } } : State).withdrawn code

/-! ### Contexts, the spare and vacancy (R21–R24, R321) -/

/-- Zeroes a tile's store and every mark on its rows. -/
def clearStore (s : State) (t : Nat) : State :=
  (s.zero (tileStoreBase t) 0xA0000).updTile t (fun T => { T with poison := T.poison.filter (fun r => 1280 ≤ r), scrubQueue := [] })

/-- A tile loads the images of its RESIDENT berths; every other row becomes zero (R321). -/
def loadContexts (s : State) (t : Nat) : State :=
  let s1 := forEach ((List.range 8).filter (fun n => s.berthState t n = 2)) (s.clearStore t) (fun s n => s.loadImage t n)
  s1.updTile t (fun T => { T with reload := false })

/-- The berth and dock registers of one tile are copied to another (R325, step 2). -/
def copyBerths (s : State) (src dst : Nat) : State :=
  let s1 := forEach (List.range 32) s (fun s i => s.setReg (pgBerth dst + 0x100 + 4 * i) (s.reg (pgBerth src + 0x100 + 4 * i)))
  let s2 := forEach (List.range 256) s1 (fun s i => s.setReg (pgDock dst + 0x100 + 4 * i) (s.reg (pgDock src + 0x100 + 4 * i)))
  s2.updTile dst (fun T => { T with berths := (s.tile src).berths, unitTenant := (s.tile src).unitTenant })

/-- A survivor's whole store and instruction buffer are copied to the spare (R325, step 1). -/
def copyStore (s : State) (src dst : Nat) : State :=
  let s1 := s.clearStore dst
  let rows := s.mem.filter (fun e => tileStoreBase src ≤ e.1 && e.1 < tileStoreBase src + 0xA0000)
  (forEach rows s1 (fun s e => s.write (tileStoreBase dst + (e.1 - tileStoreBase src)) [e.2])).updTile dst (fun T => { T with ibuf := (s.tile src).ibuf })

/-- Position `n` of a die is retired (R24). -/
def retirePosition (s : State) (d n : Nat) : State := (s.setFld (pgDie d + 0x114) n n 1).bump (pgSafety + 0x128)

/-- The failing rows of a tile that its repair rows stand in for (R73, R105). -/
def setRepair (s : State) (t : Nat) (rows : List Nat) : State :=
  (s.updTile t (fun T => { T with rowMap := rows })).setFld (pgTile t + 0x10C) 4 0 rows.length

/-- The map of R24 names a position for a logical tile; 31 leaves its number vacant (R22). -/
def setPhys (s : State) (t n : Nat) : State :=
  (s.setFld (pgDie (t / 16) + 0x100 + 4 * (t / 4 % 4)) (8 * (t % 4) + 4) (8 * (t % 4)) n).setFld (pgTile t + 0x100) 20 16 n

/-- A logical number becomes vacant (R22). -/
def vacate (s : State) (t : Nat) : State :=
  ((s.updTile t (fun T => { Tile.initial with health := .vacant, coupled := T.coupled })).setPhys t 31).setSafeBit 0x104 t false

/-- Retires a logical tile's unit; `true` where the die's spare takes over its number (R21, R22, R24). -/
def retireTile (s : State) (t : Nat) : Bool × State :=
  let d := t / 16
  let n := s.phys t
  let s1 := s.retirePosition d n
  if n = 16 then
    (false, ((s1.setFld (pgDie d + 0x110) 1 0 2).setFld (pgDie d + 0x110) 13 8 0).vacate t)
  else if s.spareState d ≠ 0 ∨ (s.tile (64 + d)).health = .withdrawn ∨ (s.tile (64 + d)).health = .verdict then (false, s1.vacate t)
  else
    let s2 := ((s1.setFld (pgDie d + 0x110) 1 0 1).setFld (pgDie d + 0x110) 13 8 t).setPhys t 16
    (true, ((s2.clearStore t).updTile t (fun T =>
      { T with health := .injecting, reload := true, corrected := (s.tile (64 + d)).corrected, ibuf := (s.tile (64 + d)).ibuf, worn := false, segsDone := 0, poison := [],
               lastPass := (s.tile (64 + d)).lastPass })).setRepair t (s.tile (64 + d)).rowMap)

/-! ### Returns -/

/-- A tile's die is halted by band 5 (R306). -/
def dieHalted (s : State) (t : Nat) : Bool := s.fld (pgTile t + 0x108) 4 0 = 0 && s.fld (pgDramc (dieOf t) + 0x104) 2 0 = 5

/-- A tile returns to placement. -/
def returnTile (s : State) (t : Nat) : State :=
  if s.dieHalted t then s.isolateTile t .halted
  else ((s.updTile t (fun T => { T with health := .inService, stopped := false })).setTileState t 1).setSafeBit 0x104 t false

/-- A tile stays out of placement for good (R316, R324). -/
def withdrawTile (s : State) (t : Nat) : State := s.isolateTile t .withdrawn

/-- Rows of a tile are poisoned, so that it reloads its contexts before it rejoins (R324). -/
def needsReload (s : State) (t : Nat) : Bool := (s.tile t).poison.any (· < 1280)

/-- A verdict self-test that a tile passed holds one full pass (R323): its diagnostic interval starts again (R331). -/
def countPass (s : State) (t : Nat) : State :=
  (s.updTile t (fun T => { T with segsDone := 0, lastPass := s.now })).setSafeBit 0x10C t false

/-- A tile that passed its verdict waits to rejoin. -/
def passTile (s : State) (t : Nat) : State := (s.countPass t).updTile t (fun T => { T with health := .injecting, reload := s.needsReload t })

/-- The number of the other tile of a coupled pair. -/
def partner (t : Nat) : Nat := if t % 2 = 0 then t + 1 else t - 1

/-- A spare that joins a pair while drive-ready is still to come owes tests of the steps before (R56): at start-up from step 6 on, in a handover from
step 4 on. -/
def owesTests (s : State) : Bool :=
  decide (6 ≤ s.start.step) || s.svc.any (fun h => !h.toDepot && decide (4 ≤ h.step))

/-- A tile of a pair failed for good (R324, R325): the spare joins the survivor, or the pair is withdrawn. -/
def failPaired (s : State) (t code : Nat) : State :=
  let u := partner t
  let x := s.retireTile t
  let s1 : State := { x.2 with safety := { x.2.safety with
    fills := x.2.safety.fills.filter (fun f => f.tile ≠ t && f.survivor ≠ t)
    owed := x.2.safety.owed.filter (· ≠ t) ++ (if x.1 && s.owesTests then [t] else []) } }
  if x.1 then
    let s2 := (s1.copyBerths u t).updTile u (fun T => { T with health := if T.health = .verdict then .verdict else .injecting })
    let s3 := (s2.setTileState t 4).setSafeBit 0x104 t true
    { s3 with safety := { s3.safety with
        fills := s3.safety.fills ++ [{ die := t / 16, tile := t, survivor := u, cut := s.safety.phase ≠ .none }] } }
  else ((s1.withdrawTile u).withdrawn code).poolCheck

/-- A spare that serves no number has failed: its position is retired, and no tile can take it (R24). -/
def spareGone (s : State) (d : Nat) : State :=
  (((s.retirePosition d 16).setFld (pgDie d + 0x110) 1 0 2).setFld (pgDie d + 0x110) 13 8 0).withdrawTile (64 + d)

/-- A tile of depot service, or a spare that serves no number, failed its verdict (R324). -/
def failSolo (s : State) (t code : Nat) : State :=
  if 64 ≤ t then s.spareGone (t - 64)
  else
  let x := s.retireTile t
  if x.1 then (x.2.setTileState t 4).setSafeBit 0x104 t true else x.2.withdrawn code

/-! ### Quarantine (R320) -/

/-- The first span of a sequence that has a page on a stack. -/
def spanOn (s : State) (n d : Nat) : Option Nat :=
  (s.ledger.entries.filter (fun e => e.2.valid && e.2.seqTag = n && e.2.ppn / stackPages = d)).foldl (fun m e =>
    let x := spanOf (s.seq n) e.1
    some (match m with
      | none => x
      | some y => min x y)) none

/-- Ledger spans and tenant pages of a stack are lost, and its pages leave the pool (R308, R320). -/
def loseStack (s : State) (d : Nat) : State :=
  let s1 := forEach (s.ledger.seqs.map (·.1)) s (fun s n => match s.spanOn n d with
    | none => s
    | some sp => s.dropFrom n sp)
  let mine := fun (p : Nat) => p / stackPages = d
  let pages := (s1.dram.owner.filter (fun e => mine e.1 && e.2.assigned && !s1.ledger.pending.any (fun x => x.ppn = e.1))).map (fun e => (e.1, e.2.tenant))
  let s2 := forEach pages s1 (fun s x => s.notice 8 0 x.2 (x.1 * pageBytes))
  { s2 with
    ledger := { s2.ledger with pool := s2.ledger.pool.filter (fun r => !mine r.1), pending := s2.ledger.pending.filter (fun x => !mine x.ppn) }
    dram := { s2.dram with
      owner := s2.dram.owner.filter (fun e => !mine e.1), marked := s2.dram.marked.filter (fun l => lineDie l ≠ d)
      stackTab := smErase s2.dram.stackTab d } }

/-- A copy of the drive reserve on a lost stack is built anew on another one (R320). -/
def moveReserve (s : State) (d : Nat) : State :=
  if s.dram.reserveSites.contains d ∨ s.dram.building = some d then
    let s0 := s.dropCopy d
    let s1 : State := { s0 with dram := { s0.dram with building := none } }
    { s1 with dram := { s1.dram with building := s1.rebuildSite d } }
  else s

/-- A die is cut off: its tiles, spare, controller and stack power down; its fabric and Viaducts stay (R320). -/
def cutDie (s : State) (d : Nat) : State :=
    let s1 := (s.bump (pgSafety + 0x12C)).recordErr (pgDie d) 0x4705
    let s2 := forEach ((s1.allTiles ++ [64 + d]).filter (fun t => dieOf t = d)) s1 (fun s t => (s.clearStore t).withdrawTile t)
    let s3 : State := { s2 with safety := { s2.safety with fills := s2.safety.fills.filter (fun f => f.die ≠ d), owed := s2.safety.owed.filter (fun t => t / 16 ≠ d) } }
    (((((s3.loseStack d).setFld (pgDramc d + 0x100) 4 4 1).setFld (pgDramc d + 0x100) 0 0 0).setFld (pgDramc d + 0x100) 3 3 0).moveReserve d).setDegraded

/-- A die is quarantined (R320). -/
def quarantine (s : State) (d : Nat) : State :=
  if !s.sites.contains d || s.fld (pgDramc d + 0x100) 4 4 = 1 then s
  else ((s.cutDie d).withdrawn 0x4705).poolCheck

/-! ### Bundles (R427, R432) -/

/-- Width of a Viaduct in units of 64 GB/s, as its running bundles give it (R424, R430). -/
def viaWidth (s : State) (page : Nat) : Nat :=
  let a := viaPages.getD page 0 + 0x100
  (List.range 4).foldl (fun n b => n + if s.fld a b b = 0 then 0 else if s.fld a (4 + b) (4 + b) = 1 then 1 else 2) 0

/-- A Viaduct below 384 GB/s in drive service degrades the device (R432). -/
def viaNarrow (s : State) (page : Nat) : State :=
  if s.viaWidth page < 6 ∧ s.driveRuns then s.withdrawn 0x4503 else s

/-- One end of a bundle after every frame in flight has been discarded (R428). -/
def clearedLink (l : Link) : Link :=
  { l with expect := 0, discarding := false, replay := [], waiting := [], credits := [8, 16, 96, 8], held := false, asked := none }

/-- The set of running bundles changes: every frame in flight is discarded (R428), and the ends of a bundle that has gone hold nothing. -/
def clearLinks (s : State) (pages : List Nat) (b : Nat) : State :=
  { s with links := (s.links.filter (fun e => !(pages.contains (e.1 / 4) && e.1 % 4 = b))).map (fun e => (e.1, clearedLink e.2)) }

/-- A bundle is taken out of service by a retry storm (R427); the loss of a Viaduct's last running bundle is a level-5 fault (R18). -/
def outBundle (s : State) (page b : Nat) : State :=
  let ends := [page / 2 * 2, page / 2 * 2 + 1]
  let s1 := forEach ends s (fun s e => ((s.setFld (viaPages.getD e 0 + 0x100) b b 0).setFld (viaPages.getD e 0 + 0x100) (8 + b) (8 + b) 1))
  let s2 := s1.clearLinks ends b
  if s2.fld (viaPages.getD page 0 + 0x100) 3 0 = 0 then (s2.recordErr (viaPages.getD page 0) 0x5504).safeReset 0x5504
  else s2.viaNarrow page

/-! ### The phases (R318–R322) -/

/-- Lost work joins the work that waits to be placed again, in the order of original placement (R242). -/
def mergeLost (lost ahead : List Placement) : List Placement :=
  lost.foldl (fun l p => l.takeWhile (fun q => q.ord ≤ p.ord) ++ [p] ++ l.dropWhile (fun q => q.ord ≤ p.ord)) ahead

/-- All running work is lost (R242, R319). An abort that was shedding a piece of work ends it. -/
def loseWork (s : State) : State :=
  let lost := (s.disp.placements.filter (fun p => !p.ended)).map s.lostRecord
  let s1 := forEach lost s (fun s p =>
    let s0 := s.freeUnits p
    match p.entry with
    | some e =>
      let s2 := s0.dropPlaced p.wid
      if p.status = csShed ∨ s.disp.lastFrameAt > p.releaseClk then s2 else s2.setEntryRun e { s2.entryRun e with phase := .released }
    | none =>
      if p.status = csShed then s0.endShed p else s0.dropPlaced p.wid)
  s1.updDisp (fun d => { d with ahead := mergeLost (lost.filter (fun p => p.status ≠ csShed)) d.ahead })

/-- Docks of lost work close and their counts are discarded (R319). -/
def dropDocks (s : State) (p : Placement) : State :=
  forEach p.tiles s (fun s t => forEach (List.range 16) s (fun s k =>
    if s.fld (dockReg t k 0) 10 8 = s.berth t then (s.closeDock t k).setReg (dockReg t k 8) 0 else s))

/-- The skip of a proving run is logged by both islands (R322); the spec gives it no code (log entry 40). -/
def logSkip (s : State) : State := let x := s.fresh; x.2.logIslands (x.1 % 65536) 0

/-- A proving run whose slot began while the recovery ran, and that has not started, is skipped (R322). -/
def skipProof (s : State) : State :=
  match s.disp.tt with
  | none => s
  | some tt =>
    let t := s.disp.frameStart + 50000 * tt.proofSlot
    match (List.range tt.entries.length).find? (fun i => ((tt.entries[i]?).map (·.proof)).getD false) with
    | none => s
    | some i =>
      if s.disp.inFrame && s.driveRuns && (s.entryRun i).phase = .idle && decide (t ≤ s.now) && decide (s.safety.began < t + 50000)
      then (s.setEntryRun i { s.entryRun i with phase := .skipped }).logSkip else s

/-- With its ingress buffer dropped, every CLOSING dock of a tile is CLOSED (R98, R318), and a berth that waited for it EMPTY. -/
def dropClosing (s : State) (t : Nat) : State :=
  (forEach (List.range 16) s (fun s k => if s.fld (dockReg t k 0) 1 0 = 2 then s.setFld (dockReg t k 0) 1 0 0 else s)).settleBerths t

/-- Discard (R318): moves, ingress buffers, fills and outbound messages are dropped, and all running work is lost. -/
def discard (s : State) : State :=
  let s1 := forEach (s.tiles.map (·.1)) s (fun s t => (s.updTile t (fun T => { T with moves := [], ingress := [] })).dropClosing t)
  let s2 := forEach (s1.disp.placements.filter (fun p => !p.ended)) s1 (fun s p => s.dropDocks p)
  let proof := (s2.disp.tt.bind (fun tt => (List.range tt.entries.length).find? (fun i => ((tt.entries[i]?).map (·.proof)).getD false)))
  let s3 := match proof with
    | some i => if s2.disp.proving.isEmpty then s2 else (s2.setEntryRun i { s2.entryRun i with phase := .skipped }).logSkip
    | none => s2
  let s4 := (s3.updDisp (fun d => { d with proving := [] })).updConvoy (fun c => { c with ops := [] })
  let s5 : State := { s4 with
    signals := []
    safety := { s4.safety with fills := s4.safety.fills.map (fun f => { f with cut := true }) } }
  s5.loseWork.releasePages

/-- Cuts a suspect off (R320). -/
def isolateSuspect (s : State) (x : Suspect) : State :=
  match x with
  | .unit u => s.isolateUnit u
  | .die d => s.quarantine d
  | .dieTiles d => s.isolateHalted d
  | .dieSlack d => forEach (s.allTiles.filter (fun t => t / 16 = d && s.tileJudged t)) s (fun s t => s.isolateTile t .verdict)
  | .bundle p b => s.outBundle p b
  | .none => s

/-- Isolate (R318): every suspect named before its deadline (R327). -/
def isolate (s : State) : State := forEach s.safety.suspects s (fun s x => s.isolateSuspect x)

/-- Spare load (R321): spares whose fill was cut off, and spares of depot service that replace a retired tile. -/
def spareLoad (s : State) : State :=
  let s1 := forEach s.safety.fills s (fun s f => if (s.tile f.tile).health = .injecting then s.loadContexts f.tile else s)
  forEach (s1.allTiles.filter (fun t => (s1.tile t).reload && (s1.tile t).health = .injecting && !(s1.tile t).coupled && s1.phys t = 16)) s1
    (fun s t => (s.loadContexts t).returnTile t)

/-- A lost serving step that had committed is applied and completes without running again (R209); one in a stack in self-refresh is read when it is placed again (R306). -/
def checkLost (s : State) : State :=
  let done := s.disp.ahead.filter (fun p => p.serving && !s.stepHeld p.wb && s.stepCommitted p.wb)
  let s1 := s.updDisp (fun d => { d with ahead := d.ahead.filter (fun p => !done.contains p) })
  forEach done s1 (fun s p => (s.applyRecord p.wb.arg0).endAhead p csOk)

/-- Fills that a recovery cut off start again where both tiles wait to rejoin. -/
def resumeFills (s : State) : State :=
  { s with safety := { s.safety with fills := s.safety.fills.map (fun f =>
      if (s.tile f.tile).health = .injecting && (s.tile f.survivor).health = .injecting then { f with cut := false } else f) } }

/-- Resume (R318, R322): marked lines are cleared, lost steps checked, and dispatch goes on. -/
def resume (s : State) : State :=
  let s1 := (((s.loseLines.checkLost).restartIlk).resumeFills).skipProof
  let s2 := s1.updDisp (fun d => { d with stopped := false })
  let s3 : State := { s2 with safety := { s2.safety with phase := .none, suspects := [] } }
  (s3.setReg (pgSafety + 0x11C) (BitVec.ofNat 32 ((s.now - s.safety.detectedAt) / 1000))).bump (pgSafety + 0x120)

/-- The state with the recovery in a phase. -/
def setPhase (s : State) (p : Phase) : State := { s with safety := { s.safety with phase := p } }

/-- A fault found after the Isolate deadline starts the recovery again at Discard (R327). -/
def restartRecovery (s : State) (t : Nat) : State :=
  let s1 := s.quench
  { s1 with safety := { s1.safety with phase := .discard, suspects := s.safety.next, next := [], restart := none, detectedAt := t } }

/-- Ends the running phase and starts the next (R318, R327). -/
def endPhase (s : State) : State :=
  match s.safety.phase with
  | .none => s
  | .quench => s.setPhase .discard
  | .discard => s.discard.setPhase .isolate
  | .isolate => let s1 := s.isolate; if s1.live then s1.setPhase .spareLoad else s1
  | .spareLoad =>
    let s1 := s.spareLoad
    match s1.safety.restart with
    | some t => s1.restartRecovery t
    | none => s1.setPhase .resume
  | .resume =>
    match s.safety.restart with
    | some t => s.restartRecovery t
    | none => s.resume

/-- Deadline of a phase, from detection, in ns (R318). -/
def phaseDeadline : Phase → Nat
  | .none => 0
  | .quench => 2000
  | .discard => 30000
  | .isolate => 60000
  | .spareLoad => 400000
  | .resume => 1000000

/-- Escalation (R328): the other island restarts the recovery at Quench; a second one, or no other island, resets the device. -/
def handOver (s : State) : State :=
  let other : Side := if s.fld (pgSafety + 0x100) 4 4 = 0 then .b else .a
  if s.fld (pgSafety + 0x100) 3 3 = 1 ∨ !s.islandOk other then s.safeReset 0x5E04
  else
    let s1 := (s.bump (pgSafety + 0x130)).setFld (pgSafety + 0x100) 3 3 1
    let s2 := (s1.setFld (pgSafety + 0x100) 4 4 (sideNo other)).quench
    { s2 with safety := { s2.safety with phase := .quench, detectedAt := s.now } }

/-- An escalation is recorded and takes its effect. -/
def escalate (s : State) : State := (s.recordErr pgSafety 0x5E04).handOver

end State

/-- RECOVERY_PHASE_END (R318). -/
def execRecoveryPhaseEnd (s : State) : Res := whenLive s State.endPhase

/-- PHASE_LATE (R328): a phase deadline has passed. -/
def execPhaseLate (s : State) : Res :=
  whenLive s (fun s =>
    if s.safety.phase = .none || decide (s.now ≤ s.safety.detectedAt + State.phaseDeadline s.safety.phase) then s
    else (s.recordErr pgSafety 0x5E05).escalate)

/-! ### Detection -/

/-- COMPARE_MISMATCH (R311, R314): a pair's, lane pair's or the Timetabling unit's line rises; only coupled units compare. -/
def execCompareMismatch (u : FaultUnit) (s : State) : Res :=
  whenLive s (fun s =>
    match u with
    | .pair p =>
      if s.pairServes p then (s.recordErr (pgTile (2 * p + 1)) 0x2601).hwFault (.unit (.pair p)) else s
    | .tile t =>
      if s.pairServes (t / 2) then (s.recordErr (pgTile (t / 2 * 2 + 1)) 0x2601).hwFault (.unit (.pair (t / 2))) else s
    | .lane j =>
      if s.ilk.coupled && !s.ilk.lanesOut.contains j then (s.recordErr pgIlk 0x2603 j).hwFault (.unit (.lane j)) else s
    | .timetabling => if s.ilk.coupled && !s.timetablingOut then (s.recordErr pgIlk 0x2604).hwFault (.unit .timetabling) else s)

/-- ROUTER_FAULT (R317): without a job on the die's tiles the die is quarantined at once. -/
def execRouterFault (die : Nat) (region : Nat) (s : State) : Res :=
  whenLive s (fun s =>
    if !s.sites.contains die || s.fld (pgDramc die + 0x100) 4 4 = 1 then s
    else
      let s1 := s.recordErr (pgDie die) 0x3704 region
      if s1.suspectBusy (.die die) then s1.startRecovery (.die die) else s1.quarantine die)

/-- FABRIC_FAULT (R317): a level-5 fault. -/
def execFabricFault (_die : Nat) (s : State) : Res :=
  whenLive s (fun s => (s.recordErr pgSafety 0x5E02).safeReset 0x5E02)

/-! ### The verdict (R323–R326) -/

namespace State

/-- A passed verdict (R324): the event was transient. -/
def transient (s : State) : State := s.bump (pgSafety + 0x124)

/-- A survivor of a cut-off fill that reloads its contexts needs no further fill (R326). -/
def settleFill (s : State) (t : Nat) : State :=
  { s with safety := { s.safety with fills := (s.safety.fills.filter (fun f => !(f.survivor = t && s.needsReload t))).map (fun f =>
      if f.tile = t ∨ f.survivor = t then { f with cut := s.safety.phase ≠ .none } else f) } }

/-- Verdict on one tile of a pair. -/
def judgePaired (s : State) (t : Nat) (pass : Bool) : State :=
  if pass then (s.transient.settleFill t).passTile t
  else ((s.recordErr (pgTile t) 0x2702).failPaired t 0x2702)

/-- Verdict on a tile of depot service. -/
def judgeSolo (s : State) (t : Nat) (pass : Bool) : State :=
  if pass then (if s.needsReload t then s.transient.passTile t else (s.transient.countPass t).returnTile t)
  else (s.recordErr (pgTile t) 0x2702).failSolo t 0x2702

/-- Verdict on a pair (R324): with both tiles failing, the die is quarantined by a recovery. -/
def judgePair (s : State) (p : Nat) (a b : Bool) : State :=
  match a, b with
  | true, true => (s.transient.passTile (2 * p)).passTile (2 * p + 1)
  | false, false => ((s.recordErr (pgTile (2 * p)) 0x2702).recordErr (pgTile (2 * p + 1)) 0x2702).startRecovery (.die (p / 8))
  | false, true => (s.passTile (2 * p + 1)).judgePaired (2 * p) false
  | true, false => (s.passTile (2 * p)).judgePaired (2 * p + 1) false

end State

/-- VERDICT (R324): the verdict self-test of a suspect has ended; `passes` gives its tiles or lanes in ascending order. -/
def execVerdict (u : FaultUnit) (passes : List Bool) (s : State) : Res :=
  whenLive s (fun s =>
    match u with
    | .pair p =>
      if (s.tile (2 * p)).health = .verdict && (s.tile (2 * p + 1)).health = .verdict then s.judgePair p (passes.getD 0 false) (passes.getD 1 false) else s
    | .tile t =>
      if (s.tile t).health ≠ .verdict then s
      else if (s.tile t).coupled then s.judgePaired t (passes.getD 0 false) else s.judgeSolo t (passes.getD 0 false)
    | .lane j =>
      if !s.ilk.lanesOut.contains j || s.ilk.lanesLost.contains j then s
      else if passes.all (fun b => b) then
        (({ s with ilk := { s.ilk with lanesOut := s.ilk.lanesOut.filter (· ≠ j) } } : State).setFld (pgSafety + 0x114) j j 0).transient
      else (s.recordErr pgIlk 0x2702 j).loseLane j 0x2702
    | .timetabling =>
      if !s.ilk.timetablingFault || s.safety.injFailed.contains .timetabling then s
      else if passes.all (fun b => b) then { s.transient with ilk := { s.ilk with timetablingFault := false } }
      else s.recordErr pgIlk 0x2702)

/-- SPARE_FILL (R325): the copy of a survivor's store has ended. -/
def execSpareFill (die : Nat) (s : State) : Res :=
  whenLive s (fun s =>
    match s.safety.fills.find? (fun f => f.die = die && !f.cut && (s.tile f.tile).health = .injecting && (s.tile f.survivor).health = .injecting
        && !(s.tile f.survivor).reload) with
    | none => s
    | some f =>
      if s.safety.phase ≠ .none then s
      else
        let s1 := ((s.copyStore f.survivor f.tile).copyBerths f.survivor f.tile).updTile f.tile (fun T => { T with reload := false })
        { s1 with safety := { s1.safety with fills := s1.safety.fills.filter (· ≠ f) } })

/-- CONTEXT_LOAD (R321, R324): a tile outside a recovery has its contexts back from their images; a tile of depot service returns, one of a
pair goes on to its injection test. -/
def execContextLoad (tile : Nat) (s : State) : Res :=
  whenLive s (fun s =>
    if !(s.tile tile).reload || (s.tile tile).health ≠ .injecting || s.safety.phase ≠ .none || s.safety.fills.any (fun f => f.tile = tile) then s
    else
      let s1 := s.loadContexts tile
      if (s1.tile tile).coupled then s1 else s1.returnTile tile)

/-! ### Comparator injection (R315, R316) -/

namespace State

/-- Remembers or forgets a first failure of an injection test. -/
def noteInjection (s : State) (u : FaultUnit) (failed : Bool) : State :=
  { s with safety := { s.safety with injFailed := s.safety.injFailed.filter (· ≠ u) ++ (if failed then [u] else []) } }

/-- Both tiles of a pair wait for their injection test. -/
def pairWaits (s : State) (p : Nat) : Bool :=
  [2 * p, 2 * p + 1].all (fun t => (s.tile t).health = .injecting && !(s.tile t).reload && (s.fillOf t).isNone)

/-- A pair whose comparators are tested: it waits to rejoin, or is in service and holds no work. -/
def pairTested (s : State) (p : Nat) : Bool := s.pairWaits p || (s.pairServes p && !s.tileTaken (2 * p))

/-- Second failure of a unit's injection test (R316). -/
def failInjection (s : State) (u : FaultUnit) : State :=
  match u with
  | .lane j => s.loseLane j 0x2605
  | .timetabling =>
    let s1 : State := { s with ilk := { s.ilk with timetablingFault := true } }
    if s1.service = 2 then s1 else s1.logIslands 0x2605 0
  | .pair p => s.failPaired (2 * p + 1) 0x2605
  | .tile t => s.failPaired (t / 2 * 2 + 1) 0x2605

/-- A failed injection test is logged at level 2 and counted (R316). -/
def logInjection (s : State) (u : FaultUnit) : State :=
  (match u with
   | .pair p => s.recordErr (pgTile (2 * p + 1)) 0x2605
   | .tile t => s.recordErr (pgTile (t / 2 * 2 + 1)) 0x2605
   | .lane j => s.recordErr pgIlk 0x2605 j
   | .timetabling => s.recordErr pgIlk 0x2605).bump (pgSafety + 0x134)

end State

/-- INJECTION_TEST (R315, R316): one test of a pair, lane pair or the Timetabling comparator has ended. After a first failure the unit is tested
once more and is out of service until then; the Timetabling comparator is out by the remembered failure. -/
def execInjectionTest (u : FaultUnit) (ok : Bool) (s : State) : Res :=
  whenLive s (fun s =>
    let v : FaultUnit := match u with
      | .tile t => .pair (t / 2)
      | u => u
    match v with
    | .pair p =>
      if !s.pairTested p then s
      else if ok then (([2 * p, 2 * p + 1].foldl (fun s t => s.returnTile t) (s.noteInjection v false)))
      else if s.safety.injFailed.contains v then ((s.noteInjection v false).logInjection v).failInjection v
      else forEach [2 * p, 2 * p + 1] ((s.noteInjection v true).logInjection v) (fun s t => s.isolateTile t .injecting)
    | _ =>
      if !s.ilk.coupled || s.ilk.running.isSome || s.ilk.loading.isSome || (v = .timetabling && s.ilk.timetablingFault) then s
      else if ok then
        let s1 := s.noteInjection v false
        match v with
        | .lane j => if s.safety.injFailed.contains v && !s.ilk.lanesLost.contains j then
            (({ s1 with ilk := { s1.ilk with lanesOut := s1.ilk.lanesOut.filter (· ≠ j) } } : State).setFld (pgSafety + 0x114) j j 0) else s1
        | _ => s1
      else if s.safety.injFailed.contains v then (s.logInjection v).failInjection v
      else
        let s1 := (s.noteInjection v true).logInjection v
        match v with
        | .lane j => s1.isolateLane j
        | _ => s1)

/-! ### Periodic self-test (R329–R331) -/

namespace State

/-- A tile completes a full pass: its diagnostic interval starts again, and a tile that owed the pass returns (R306, R331). -/
def passDone (s : State) (t : Nat) : State :=
  let s1 := s.countPass t
  if (s1.tile t).health = .rejoining then s1.returnTile t else s1

/-- One segment more of a tile's pass of 80 (R329). -/
def segmentDone (s : State) (t : Nat) : State :=
  if (s.tile t).segsDone + 1 = 80 then s.passDone t else s.updTile t (fun T => { T with segsDone := T.segsDone + 1 })

/-- One segment more of a lane pair's pass of 40 (R329). -/
def laneSegment (s : State) (j : Nat) : State :=
  let n := smGet s.ilk.laneSegs 0 j + 1
  { s with ilk := { s.ilk with laneSegs := if n = 40 then smErase s.ilk.laneSegs j else smPut s.ilk.laneSegs j n } }

/-- A failed segment or self-test pass is a fault of its unit without a running job (R317, R330). -/
def testFailed (s : State) (u : FaultUnit) : State :=
  match u with
  | .lane j => (s.recordErr pgIlk 0x2701 j).isolateUnit u
  | .timetabling => (s.recordErr pgIlk 0x2701).isolateUnit u
  | .pair p => (s.recordErr (pgTile (2 * p)) 0x2701).isolateUnit u
  | .tile t => (s.recordErr (pgTile t) 0x2701).isolateUnit u

end State

/-- SELFTEST_SEGMENT (R329, R330): a segment on a unit without work has ended; in drive service it is one that the dispatcher has placed. -/
def execSelftestSegment (u : FaultUnit) (ok : Bool) (s : State) : Res :=
  whenLive s (fun s =>
    match u with
    | .lane j => if s.ilk.lanesOut.contains j || decide (16 ≤ j) then s else if ok then s.laneSegment j else s.testFailed u
    | .timetabling => if ok then s else s.testFailed u
    | u =>
      let ts := s.unitTiles u
      if ts.any (fun t => s.tileTaken t || !s.tilePresent t || ((s.tile t).health ≠ .inService && (s.tile t).health ≠ .rejoining)) then s
      else if s.driveRuns && ts.any (fun t => (s.tile t).health = .inService && (s.tile t).segment.isNone) then s
      else
        let s1 := forEach ts s (fun s t => s.updTile t (fun T => { T with segment := none }))
        if ok then forEach ts s1 (fun s t => s.segmentDone t) else s1.testFailed u)

/-- The diagnostic interval of the running service, in ns (R331). -/
def State.diagInterval (s : State) : Nat :=
  1000000 * (if s.service = 2 then s.fld (pgSafety + 0x118) 31 16 else s.fld (pgSafety + 0x118) 15 0)

/-- DIAGNOSTIC_INTERVAL (R331): a tile, with its pair in drive service, has gone longer than its interval without a completed pass. -/
def execDiagnosticInterval (tile : Nat) (s : State) : Res :=
  whenLive s (fun s =>
    if !s.tilePresent tile || decide (64 ≤ tile) || decide (s.now ≤ (s.tile tile).lastPass + s.diagInterval) then s
    else (forEach (s.unitTiles (.tile tile)) s (fun s t => s.setSafeBit 0x10C t true)).poolCheck)

end Sys2Proof.Machine
end

