-- ==== Sys2Proof/Machine/Islands.lean ====
section
/-! DEFINITION. The Calmi islands' supervision (R34, R332–R335, R338). -/

namespace Sys2Proof.Machine

open Sys2Proof

/-- The other island. -/
def otherSide : Side → Side
  | .a => .b
  | .b => .a

namespace State

/-- An island is faulty (R333, R334): its hardware asserts its pin and it stops; the survivor supervises alone and acts by the safety table. Faults
of both islands reset the device. An island that handled a recovery escalates it (R328). -/
def islandGone (s : State) (x : Side) : State :=
  if !s.islandOk x then s
  else
    let s1 := (s.setIsland x { s.island x with faulty := true }).setFld (pgIsl (sideNo (otherSide x)) + 0x100) 2 2 0
    let s2 := s1.assertPin x
    if !s2.islandOk (otherSide x) then s2.safeReset 0x5E03
    else
      let s3 := (s2.notice 7 0 0 (sideNo x)).islandAct evIslandLost 0x5E03
      if s3.safety.phase ≠ .none ∧ s3.fld (pgSafety + 0x100) 4 4 = sideNo x then s3.escalate else s3

/-- An island that becomes faulty is recorded. -/
def islandFails (s : State) (x : Side) : State := if s.islandOk x then (s.recordErr pgSafety 0x5E03).islandGone x else s

/-- A fault that resets the device (R317, R333). -/
def deviceFault (s : State) (page code : Nat) : State := (s.recordErr page code).safeReset code

/-- A healthy island's record is changed. -/
def updIsland (s : State) (x : Side) (f : Island → Island) : State := if s.islandOk x then s.setIsland x (f (s.island x)) else s

end State

/-- Missed arrivals in a row, up to 3. -/
def missRun (came : Bool) (n : Nat) : Nat := if came then 0 else min 3 (n + 1)

/-- ISLAND_FAULT (R333): an island's own cores differ. -/
def execIslandFault (island : Side) (s : State) : Res := whenLive s (fun s => s.islandFails island)

/-- ISLAND_STATE_WORD (R333): whether each island's state word reached the other; three missed in a row make its sender faulty. -/
def execIslandStateWord (fromA : Bool) (fromB : Bool) (s : State) : Res :=
  whenLive s (fun s =>
    let s1 := (s.updIsland .a (fun i => { i with peerMissed := missRun fromB i.peerMissed })).updIsland .b
      (fun i => { i with peerMissed := missRun fromA i.peerMissed })
    let s1 := [Side.a, Side.b].foldl (fun s x => if s.islandOk x && s.fld (pgIsl (State.sideNo x) + 0x100) 1 0 ≠ 0 then
      s.setFld (pgIsl (State.sideNo x) + 0x100) 2 2 (b2n (if x = .a then fromB else fromA)) else s) s1
    let badB := s1.islandOk .a && s1.safety.islA.peerMissed = 3
    let badA := s1.islandOk .b && s1.safety.islB.peerMissed = 3
    let s2 := if badB then s1.islandFails .b else s1
    if badA then s2.islandFails .a else s2)

/-- Timetable progress (R333): a safety-rank entry of the running frame that the dispatcher has not reported released by its latest start, or neither ended
nor aborted by its DEADLINE slot. The proving run is judged by R250. -/
def State.progressMissing (s : State) : Bool :=
  match s.disp.tt with
  | none => false
  | some tt => s.driveRuns && s.disp.inFrame && !s.disp.stopped && (List.range tt.entries.length).any (fun i => match tt.entries[i]? with
    | none => false
    | some e => e.rank = 0xFF && !e.proof
        && (((s.entryRun i).phase = .idle && decide (s.latestStart e < s.now))
          || (((s.entryRun i).phase = .idle || (s.entryRun i).phase = .released || (s.entryRun i).phase = .running)
              && decide (s.disp.frameStart + 50000 * e.deadline < s.now))))

/-- HEARTBEAT_CHECK (R333): whether each Stationmaster's heartbeat came; three missed in a row are a hub fault. The
islands look at the dispatcher's progress reports in the same cycle (log entry 50): a missing one is a dispatcher fault of Hub A. -/
def execHeartbeatCheck (hubA : Bool) (hubB : Bool) (s : State) : Res :=
  whenLive s (fun s =>
    let f := fun (i : Island) => { i with beatMissedA := missRun hubA i.beatMissedA, beatMissedB := missRun hubB i.beatMissedB }
    let s1 := (s.updIsland .a f).updIsland .b f
    let bad := [Side.a, Side.b].any (fun x => s1.islandOk x && ((s1.island x).beatMissedA = 3 || (s1.island x).beatMissedB = 3))
    if bad || s1.progressMissing then s1.deviceFault pgSafety 0x5E01 else s1)

/-- Two clocks agree within 3 % (R34), each measured against the other. -/
def clocksAgree (a b : Int) : Bool := decide (100 * (a - b).natAbs ≤ 3 * a) && decide (100 * (a - b).natAbs ≤ 3 * b)

/-- CLOCK_CHECK (R34): the three clocks' frequencies, each relative to its nominal. The one that two agreeing clocks disagree with is faulty. -/
def execClockCheck (refclk : Int) (oscA : Int) (oscB : Int) (s : State) : Res :=
  whenLive s (fun s =>
    let rA := clocksAgree refclk oscA
    let rB := clocksAgree refclk oscB
    let ab := clocksAgree oscA oscB
    if ab && !rA && !rB then s.deviceFault pgTick 0x5901
    else if rB && !rA && !ab then (s.recordErr pgTick 0x5902).islandFails .a
    else if rA && !rB && !ab then (s.recordErr pgTick 0x5902).islandFails .b
    else s)

/-- Rails of R440, in its order: nominal mV (VDD_CMP is set by AVS), window in %, and the PMBus interface. -/
def rails : List (Nat × Nat × Nat) :=
  [(0, 3, 0), (800, 3, 0), (750, 3, 0), (800, 3, 1), (800, 3, 0), (1100, 3, 1), (1800, 5, 1), (500, 3, 1), (1050, 3, 1), (900, 3, 1),
   (1200, 3, 1), (1800, 5, 1), (3300, 5, 1)]

/-- A rail's reading in mV lies outside its window (R440). -/
def State.railOut (s : State) (rail mv : Nat) : Bool :=
  let r := rails.getD rail (0, 3, 0)
  let v := if rail = 0 then s.fld (pgPwr + 0x108) 9 0 else r.1
  decide (r.2.1 * v < 100 * ((mv : Int) - v).natAbs)

/-- VOLTAGE_SAMPLE (R333, R440): an island's readings of the rails on its own PMBus. Three samples out in a row reset the device, or make the
island faulty whose rail it is. -/
def execVoltageSample (island : Side) (readings : List (Nat × Nat)) (s : State) : Res :=
  whenLive s (fun s =>
    if !s.islandOk island then s
    else
      let mine := readings.filter (fun r => decide (r.1 < 13) && (rails.getD r.1 (0, 3, 2)).2.2 = State.sideNo island)
      let s1 := forEach mine s (fun s r => s.updIsland island (fun i =>
        { i with railsOut := if s.railOut r.1 r.2 then smPut i.railsOut r.1 (min 3 (smGet i.railsOut 0 r.1 + 1)) else smErase i.railsOut r.1 }))
      let bad := (mine.filter (fun r => smGet (s1.island island).railsOut 0 r.1 = 3)).map (·.1)
      if bad.any (fun r => r ≠ 3 && r ≠ 4) then s1.deviceFault pgSafety 0x5807
      else
        let s2 := if bad.contains 3 then s1.islandFails .a else s1
        if bad.contains 4 then s2.islandFails .b else s2)

/-- FRAME_LOST (R333): no frame has started within 2 P in drive service. -/
def execFrameLost (s : State) : Res :=
  whenLive s (fun s =>
    if s.service ≠ 1 || s.disp.tt.isNone || decide (s.now ≤ s.disp.frameStart + 2 * s.framePeriod) then s
    else (s.recordErr pgTick 0x5904).islandAct State.evFrameLost 0x5904)

end Sys2Proof.Machine
end

