-- ==== Sys2Proof/Machine/LedgerOps.lean ====
section
/-! DEFINITION. The drop engine in the background (R210), release of pages (R202), and the sequence requests of the control rings
(R204, R215, R230). -/

namespace Sys2Proof.Machine

open Sys2Proof

/-! ### Drops and releases -/

/-- LEDGER_WM in pages (R222). -/
def State.lowMark (s : State) : Nat := 256 * s.fld (pgLedger + 0x110) 15 0
def State.highMark (s : State) : Nat := 256 * s.fld (pgLedger + 0x110) 31 16

/-- DROP_SPAN (R210): while free pages are below LOW, and until free and pending pages reach HIGH, the oldest candidate's tail span is
dropped; with no candidate left the engine stops. -/
def execDropSpan (s : State) : Res :=
  whenLive s (fun s =>
    let target := if s.ledger.dropTarget ≠ 0 then s.ledger.dropTarget else if s.freePages < s.lowMark then s.highMark else 0
    let stop : State := { s with ledger := { s.ledger with dropTarget := 0 } }
    if target ≤ s.freePages + s.ledger.pending.length then stop
    else match s.oldestCandidate with
      | none => stop
      | some n => State.dropTail { s with ledger := { s.ledger with dropTarget := target } } n)

/-- PAGE_RELEASE (R202): a page given up joins the free pool once no move that translated it is left; a placement that waits for pages
goes on (R206). -/
def execPageRelease (idx : Nat) (s : State) : Res :=
  whenLive s (fun s =>
    match s.ledger.pending[idx]? with
    | none => s
    | some p =>
      if s.translationHeld p then s
      else
        let s1 : State := { s with ledger := { s.ledger with pending := s.ledger.pending.eraseIdx idx } }
        let s2 := s1.freePage p.ppn
        match s2.disp.placements.find? (·.waiting) with
        | some q => s2.continueStep q.wid
        | none => s2)

/-! ### Control rings (R230) -/

/-- An entry of a control ring. -/
structure CtlEntry where
  tenant : Nat
  op : Nat
  cring : Nat
  tag : Nat
  seqTag : Nat
  layers : Nat
  tpKib : Nat
  lmax : Nat
  evictable : Bool
  param : Nat
deriving DecidableEq, Repr

/-- The entry that 64 bytes spell (R230, R403). -/
def CtlEntry.of (bs : List Byte) : CtlEntry :=
  { tenant := bytesNat bs 4 2 % 4096, op := bytesNat bs 6 2, cring := bytesNat bs 8 4 % 2 ^ 21, tag := bytesNat bs 0xC 2,
    seqTag := bytesNat bs 0xE 2, layers := bytesNat bs 0x10 2, tpKib := bytesNat bs 0x12 2, lmax := bytesNat bs 0x14 4,
    evictable := bytesNat bs 0x18 1 % 2 = 1, param := bytesNat bs 0x20 8 }

namespace State

/-- Control rings that hold entries, in ascending index. -/
def controlRings (s : State) : List Nat :=
  (s.disp.rings.filter (fun e => e.2.kind = 2 && e.2.fill ≠ 0 && s.bellBit e.1)).map (·.1)

/-- The control ring that the Stationmaster serves next: ascending ring index, one entry per ring per pass (R230). -/
def nextControl (s : State) : Option Nat :=
  match s.controlRings.find? (fun r => s.disp.ctlCursor < r) with
  | some r => some r
  | none => s.controlRings.head?

/-- The Stationmaster takes the head of a control ring. -/
def takeControl (s : State) (r : Nat) : State :=
  let s1 := (s.takeHead r).updDisp (fun d => { d with ctlCursor := r })
  if (s1.ring r).fill = 0 then s1.clearBell r else s1

/-- Completion of a control operation (R228, R230). -/
def completeControl (s : State) (r index : Nat) (e : CtlEntry) (status value : Nat) : State :=
  s.pushCompletion { cring := e.cring, ring := r, index := index, status := status, code := 0, tag := e.tag, stlo := 0, value := value,
                     wid := none }

/-- Operations that a ring may carry (R230, R403). -/
def controlListed (r op : Nat) : Bool := (1 ≤ op && op ≤ 4) || (op = 5 && ringTenant r = 0) || op = 6 || ((op = 7 || op = 8) && ringTenant r ≠ 0) || op = 9

/-- Serves the head of a control ring with the operation `op`: an unlisted operation completes FORMAT, another one is left for its own
command. The operation's effect gets the state with the entry taken, the entry and its index. An entry in a stack in self-refresh waits (R306). -/
def serveControl (s : State) (r op : Nat) (f : State → CtlEntry → Nat → State) : State :=
  if s.nextControl ≠ some r then s
  else
    let i := (s.ring r).head.toNat
    if s.devHeld ((s.ring r).entryAddr i) 64 then s
    else if s.devMarked ((s.ring r).entryAddr i) 64 then s.devPoison ((s.ring r).entryAddr i) 64
    else
    let e := CtlEntry.of (s.ringEntry r i)
    let s1 := s.takeControl r
    if !controlListed r e.op then s1.completeControl r i e csFormat 0
    else if e.op ≠ op then s
    else f s1 e i

/-! ### Sequence requests (R204) -/

/-- Pages of a tenant's non-evictable sequences (R215). -/
def firmPages (s : State) (t : Nat) : Nat :=
  (s.ledger.seqs.filter (fun e => e.2.state ≠ .free && !e.2.evictable && e.2.tenant = t)).foldl (fun n e => n + e.2.pages) 0

/-- A region would take a tenant's non-evictable pages above its reserve; never for tenant 0 (R215). -/
def overReserve (s : State) (t pages : Nat) : Bool :=
  t ≠ 0 && decide ((smGet s.disp.tenants (0, 0, 0) t).2.2 < s.firmPages t + pages)

/-- Lowest free SEQ_TAG. -/
def freeTag (s : State) : Option Nat :=
  let used := s.ledger.seqs.filter (fun e => e.2.state ≠ .free)
  let n := used.foldl (fun n e => if e.1 = n then n + 1 else n) 0
  if n < 65536 then some n else none

/-- Regions in use, by first page. -/
def regionsUsed (s : State) : List (Nat × Nat) :=
  (s.ledger.seqs.filter (fun e => e.2.state ≠ .free)).foldl (fun l e =>
    l.takeWhile (fun x => x.1 ≤ e.2.region) ++ [(e.2.region, e.2.pages)] ++ l.dropWhile (fun x => x.1 ≤ e.2.region)) []

/-- Lowest run of free aperture pages that fits (R204). -/
def freeRun (s : State) (pages : Nat) : Option Nat :=
  let x := s.regionsUsed.foldl (fun (acc : Option Nat × Nat) r =>
    match acc.1 with
    | some a => (some a, acc.2)
    | none => if acc.2 + pages ≤ r.1 then (some acc.2, acc.2) else (none, max acc.2 (r.1 + r.2))) (none, 0)
  match x.1 with
  | some a => some a
  | none => if x.2 + pages ≤ s.ledgerPages then some x.2 else none

/-- An OPEN has a field outside R197, or its token log is not in the tenant's pages. -/
def openBad (s : State) (e : CtlEntry) : Bool :=
  e.layers = 0 || decide (256 < e.layers) || e.tpKib = 0 || decide (32 < e.tpKib) || e.lmax % 32 ≠ 0 || decide (e.lmax < 32)
    || decide (65504 < e.lmax) || decide (2 ^ 40 ≤ e.param) || !s.inTenantPages e.param (4 * e.lmax) e.tenant

/-- OPEN (R204), with its refusals in their order. -/
def doOpen (s : State) (r : Nat) (e : CtlEntry) (i : Nat) : State :=
  let t := ringTenant r
  let e' := { e with tenant := t }
  let pages := 2 * e.layers * e.lmax * e.tpKib / 32
  if s.openBad e' then s.completeControl r i e csFormat 0
  else if !e.evictable && s.overReserve t pages then s.completeControl r i e csReserve 0
  else match s.freeTag with
    | none => s.completeControl r i e csSeqFull 0
    | some n =>
      match s.freeRun pages with
      | none => s.completeControl r i e csApertureFull 0
      | some base =>
        let q : Seq := { state := .opened, evictable := e.evictable, pinned := false, tenant := t, region := base, pages := pages,
                         layers := e.layers, tpKib := e.tpKib, lmax := e.lmax, tokens := 0, kvLen := 0, mappedSpans := 0, toklog := e.param,
                         lastServed := 0, droppedSpans := 0 }
        let u : LedgerEntry := { LedgerEntry.unmapped with tenant := t, seqTag := n }
        let s1 := (s.setEntries (smFill s.ledger.entries base pages u)).setSeq n q
        s1.completeControl r i e csOk (n + (ledgerBase + base * pageBytes) * 2 ^ 16)

/-- A request names a sequence of another tenant or a FREE descriptor (R204). -/
def seqForeign (s : State) (t n : Nat) : Bool := (s.seq n).state = .free || (s.seq n).tenant ≠ t

/-- APPEND_TOKENS (R204). -/
def doAppend (s : State) (r : Nat) (e : CtlEntry) (i : Nat) : State :=
  let q := s.seq e.seqTag
  if s.seqForeign (ringTenant r) e.seqTag then s.completeControl r i e csNotOwner 0
  else if q.pinned then s.completeControl r i e csPinned 0
  else if q.lmax < q.tokens + e.lmax then s.completeControl r i e csFull 0
  else (s.setSeq e.seqTag { q with tokens := q.tokens + e.lmax }).completeControl r i e csOk 0

/-- SET_EVICTABLE (R204, R215). -/
def doEvictable (s : State) (r : Nat) (e : CtlEntry) (i : Nat) : State :=
  let q := s.seq e.seqTag
  let v := e.lmax % 2 = 1
  if s.seqForeign (ringTenant r) e.seqTag then s.completeControl r i e csNotOwner 0
  else if !v && q.evictable && s.overReserve (ringTenant r) q.pages then s.completeControl r i e csReserve 0
  else (s.setSeq e.seqTag { q with evictable := v }).completeControl r i e csOk 0

/-- A sequence closes (R204): CLOSING, and FREE at once where no step pins it. -/
def closeSequence (s : State) (n : Nat) : State :=
  let s1 := s.setSeq n { s.seq n with state := .closing }
  if (s.seq n).pinned then s1 else s1.unpin n

/-- CLOSE (R204). -/
def doClose (s : State) (r : Nat) (e : CtlEntry) (i : Nat) : State :=
  if s.seqForeign (ringTenant r) e.seqTag then s.completeControl r i e csNotOwner 0
  else (s.closeSequence e.seqTag).completeControl r i e csOk 0

end State

/-- OPEN (R204). -/
def execOpenSeq (ring : Nat) (s : State) : Res := whenLive s (fun s => s.serveControl ring 1 (fun s e i => s.doOpen ring e i))
/-- APPEND_TOKENS (R204). -/
def execAppendTokens (ring : Nat) (s : State) : Res := whenLive s (fun s => s.serveControl ring 2 (fun s e i => s.doAppend ring e i))
/-- SET_EVICTABLE (R204, R215). -/
def execSetEvictable (ring : Nat) (s : State) : Res := whenLive s (fun s => s.serveControl ring 3 (fun s e i => s.doEvictable ring e i))
/-- CLOSE (R204). -/
def execCloseSeq (ring : Nat) (s : State) : Res := whenLive s (fun s => s.serveControl ring 4 (fun s e i => s.doClose ring e i))

end Sys2Proof.Machine
end

