-- ==== Sys2Proof/Machine/Sessions.lean ====
section
/-! DEFINITION. Tenant sessions over the control rings (R403–R410, R419) and the sweeps of key rotation
(R412–R417). -/

namespace Sys2Proof.Machine

open Sys2Proof

/-- Every one of `n` bytes at an offset is 0. -/
def zeroAt (bs : List Byte) (off n : Nat) : Bool := ((bs.drop off).take n).all (fun b => b = 0)

namespace State

/-! ### Parameter blocks and results (R403, R404) -/

/-- `n` bytes at a device address lie in the host area of a port's Platform SRAM (R350). -/
def inHostArea (a n : Nat) : Bool :=
  (List.range 2).any (fun p => psramBase p ≤ a && a + n ≤ psramBase p + hostArea)

/-- A parameter block lies in the host area, aligned to 64 B, with room for its result header. -/
def paramOk (a : Nat) : Bool := a % 64 = 0 && inHostArea a 0x108

/-- Writes an operation's result: status, LEN and the result bytes that the host area holds. -/
def writeResult (s : State) (param status : Nat) (bs : List Byte) : State :=
  if !paramOk param then s
  else
    let room := psramBase (portOfAddr param) + hostArea - (param + 0x108)
    s.write (param + 0x100) (natLE 4 status ++ natLE 4 bs.length ++ bs.take room)

/-- A control operation ends: its result in the parameter block, then its completion. -/
def endControl (s : State) (r i : Nat) (e : CtlEntry) (status : Nat) (bs : List Byte := []) : State :=
  (s.writeResult e.param status bs).completeControl r i e status 0

/-- A deferred control operation completes. -/
def completeDeferred (s : State) (d : Deferred) (status : Nat) : State :=
  (s.writeResult d.param status []).pushCompletion { cring := d.cring, ring := d.ring, index := d.index, status := status, code := 0, tag := d.tag,
                                                     stlo := 0, value := 0, wid := none }

/-- Bytes with their length before them (R404). -/
def item (bs : List Byte) : List Byte := natLE 4 bs.length ++ bs

/-- MANIFEST (R403, R404): the service Manifest is returned again without being signed again. -/
def doManifest (s : State) (r : Nat) (e : CtlEntry) (i : Nat) : State :=
  let t := s.nat e.param 2
  let nonce := s.bytes (e.param + 0x40) 64
  if t ≠ 0 && !s.depotOpen then s.endControl r i e csServiceWrong
  else if !paramOk e.param then s.endControl r i e csFormat
  else if ringTenant r ≠ 0 ∧ ringTenant r ≠ t then s.endControl r i e csFormat
  else if t ≠ 0 ∧ (s.session t).isNone then s.endControl r i e csNoSession
  else
    let certs := item s.sec.attestCert ++ item Config.identityCert
    if t = 0 ∧ nonce.all (fun b => b = 0) ∧ s.sec.serviceManifest ≠ [] then s.endControl r i e csOk (item s.sec.serviceManifest ++ certs)
    else
      let x := s.signManifest t nonce
      x.2.endControl r i e csOk (item x.1 ++ certs)

/-! ### SESSION_OPEN (R405, R406) -/

/-- Pages of DRAM outside the drive reserve. -/
def dramPages (s : State) : Nat :=
  let ok := s.sites.filter (fun d => s.fld (pgDramc d + 0x100) 4 4 = 0)
  ok.length * stackPages - (s.dram.reserveSites.filter ok.contains).length * s.dram.reservePages

/-- LEDGER_POOL (R222): free, awaiting release, or mapped. -/
def poolSize (s : State) : Nat :=
  s.freePages + s.ledger.pending.length + (s.ledger.entries.filter (fun e => e.2.valid)).length

/-- RESERVE of every open session. -/
def reserved (s : State) : Nat := s.sec.sessions.foldl (fun n e => n + e.2.reserve) 0

/-- The random generator serves key generation (R401). -/
def keysServed (s : State) : Bool := s.fld (pgSec + 0x10C) 0 0 = 1 && s.fld (pgSec + 0x10C) 1 1 = 1

/-- A SESSION_OPEN is refused with SESSION_BAD (R405). Reserved bits are ignored (R12). -/
def openSessionBad (s : State) (a : Nat) : Bool :=
  let bs := s.bytes a 0xE0
  let t := bytesNat bs 0 2
  let reserve := bytesNat bs 4 4 % 2 ^ 23
  let quota := bytesNat bs 8 4 % 2 ^ 23
  t = 0 || decide (4096 ≤ t) || (s.session t).isSome || bytesNat bs 2 1 = 0 || decide (3 < bytesNat bs 3 1)
    || !(s.sec.life = 2 || s.sec.life = 3) || !s.keysServed || (ecPoint ((bs.drop 0x10).take 133)).isNone
    || decide (s.poolSize < s.reserved + reserve) || decide (s.dramPages < quota)

/-- The Stationmaster sets up a ring descriptor (R224); an existing one starts empty again. -/
def provideRing (s : State) (x : RingSpec) : State :=
  let s1 := if s.ringKnown x.ring then s.clearBell x.ring else s
  s1.setRing x.ring { base := x.base, sizeLog2 := x.sizeLog2, kind := x.kind, enable := x.enable, head := 0, tail := 0, dbseq := 0, inflight := 0 }

/-- Grants ordinary pages to a tenant out of the free pool, at most `quota` of them, each written with zeros (R44, R296). -/
def grantPages (t : Nat) (gen : Bool) : List Nat → Nat → State → State
  | [], _, s => s
  | p :: ps, quota, s =>
    if quota = 0 then s
    else if poolHas s.ledger.pool p then
      let s1 : State := { s with ledger := { s.ledger with pool := poolTake s.ledger.pool p } }
      grantPages t gen ps (quota - 1) ((s1.zeroPage p).setOwner p { tenant := t, keygen := gen, assigned := true })
    else grantPages t gen ps quota s

/-- Pages that runs of pages name. -/
def runPages (l : List (Nat × Nat)) : List Nat := l.flatMap (fun x => (List.range x.2).map (x.1 + ·))

/-- What the Stationmaster provides for a tenant: its own rings and its pages (log entry 36). -/
def provide (s : State) (t quota : Nat) (p : Provision) : State :=
  let s1 := forEach (p.rings.filter (fun x => ringTenant x.ring = t && decide (x.ring < 2 ^ 21))) s provideRing
  grantPages t (s.tenantGen t) (runPages p.pages) quota s1

/-- The keys of a session (R406): the client's public key, the device's, the private half of the latter, the nonce and the tenant. -/
def sessionKeys (qt qs nonce : List Byte) (priv t : Nat) : SessionKeys :=
  let o := hkdf512 nonce (ecShared priv qt) ("SELTIMAS-SESSION".toList.map (fun c => BitVec.ofNat 8 c.toNat) ++ natLE 2 t ++ qt ++ qs) 108
  let f := fun i n => (o.drop i).take n
  { kIn := f 0 32, kOut := f 32 32, kSeal := f 64 32, saltIn := f 96 4, saltOut := f 100 4, saltSeal := f 104 4 }

/-- SESSION_OPEN (R405): keys and memory-key generation 0, the tenant table entry, and a session Manifest. -/
def doSessionOpen (s : State) (p : Provision) (r : Nat) (e : CtlEntry) (i : Nat) : State :=
  let bs := s.bytes e.param 0xE0
  let t := bytesNat bs 0 2
  if !s.depotOpen then s.endControl r i e csServiceWrong
  else if !paramOk e.param then s.endControl r i e csFormat
  else if s.openSessionBad e.param then s.endControl r i e csSessionBad
  else
    let k := s.drbgBytes 66
    let priv := ecKey k.1
    let qt := (bs.drop 0x10).take 133
    let nonce := (bs.drop 0xA0).take 64
    let x : Session := { reserve := bytesNat bs 4 4 % 2 ^ 23, quota := bytesNat bs 8 4 % 2 ^ 23, pubKey := ecPublic priv, privKey := priv, clientKey := qt,
                         keys := sessionKeys qt (ecPublic priv) nonce priv t, genKeys := (true, false), cur := false, sealCount := 0,
                         nextSerial := 0, closing := false }
    let s1 := (k.2.setSession t x).installKey t false
    let s2 := s1.updDisp (fun d => { d with tenants := smPut d.tenants t (bytesNat bs 2 1, bytesNat bs 3 1, x.reserve) })
    let m := (s2.provide t x.quota p).signManifest t nonce
    m.2.endControl r i e csOk m.1

/-! ### SESSION_CLOSE (R419) -/

/-- A session that is open and not closing. -/
def sessionOpen (s : State) (t : Nat) : Bool := match s.session t with
  | some x => !x.closing
  | none => false

/-- Completes every entry queued in a control ring with a status; `fuel` is their number. -/
def flushControl (r status : Nat) : Nat → State → State
  | 0, s => s.clearBell r
  | fuel + 1, s =>
    let i := (s.ring r).head.toNat
    flushControl r status fuel ((s.takeHead r).completeControl r i (CtlEntry.of (s.ringEntry r i)) status 0)

/-- A ring of any kind is disabled; what it queues completes with a status. -/
def shutRing (s : State) (status r : Nat) : State :=
  if (s.ring r).kind = 0 then s.closeRing r status
  else
    let s1 := s.setRing r { s.ring r with enable := false }
    if (s.ring r).kind = 2 then flushControl r status (s.ring r).fill s1 else s1

/-- Rings of a tenant. -/
def ringsOf (s : State) (t : Nat) : List Nat := (s.disp.rings.filter (fun e => ringTenant e.1 = t)).map (·.1)

/-- The tenant's sweep stops (R417): a page that it holds locked is unlocked, and its ROTATE completes with a status. -/
def stopSweep (s0 : State) (t status : Nat) : State :=
  let mine := s0.sec.sweeps.filter (fun w => w.tenant = t)
  let s := forEach (mine.filterMap (·.locked)) s0 (fun s l => if (s.entry l.1).lock then s.setEntry l.1 { s.entry l.1 with lock := false } else s)
  forEach mine (s.updSec (fun c => { c with sweeps := c.sweeps.filter (fun w => w.tenant ≠ t) })) (fun s w => s.completeDeferred w.op status)

/-- Berths of a tenant become EMPTY on every tile. -/
def emptyBerthsOf (s : State) (t : Nat) : State :=
  forEach ((List.range 68).filter s.tilePresent) s (fun s u =>
    forEach ((List.range 8).filter (fun n => s.berthState u n ≠ 0 && s.berthTenant u n = t)) s (fun s n => s.emptyBerth u n))

/-- Grants of memory to convoy peers for a tenant are removed (R382). -/
def dropGrants (s : State) (t : Nat) : State :=
  forEach (List.range 32) s (fun s g =>
    let r := pgCvy + 0x200 + 0x10 * g
    if s.fld (r + 8) 31 31 = 1 && s.fld (r + 8) 11 0 = t then ((s.setReg r 0).setReg (r + 4) 0).setReg (r + 8) 0 else s)

/-- Steps 1 and 2 of R419. -/
def closeSession (s : State) (t : Nat) : State :=
  let rs := s.ringsOf t
  let s1 := forEach rs (s.abortRings rs csLost) (fun s r => s.shutRing csLost r)
  let s2 := forEach ((s1.ledger.seqs.filter (fun e => e.2.state = .opened && e.2.tenant = t)).map (·.1)) s1 (fun s n => s.closeSequence n)
  let s3 := (s2.emptyBerthsOf t).dropGrants t
  let s4 := forEach ((List.range 16).filter (fun n => (s3.consistRings n).any (fun r => ringTenant r = t))) s3 (fun s n => s.abortConsist n)
  let s5 := if s4.fld (pgIlk + 0x110) 11 0 = t then s4.loseIlk.changeOwner 0 else s4
  s5.stopSweep t csLost

/-- SESSION_CLOSE (R419): steps 1 and 2; the completion waits for the zeroing. -/
def doSessionClose (s : State) (r : Nat) (e : CtlEntry) (i : Nat) : State :=
  let t := s.nat e.param 2
  if !s.depotOpen then s.endControl r i e csServiceWrong
  else if !paramOk e.param then s.endControl r i e csFormat
  else if ringTenant r ≠ 0 ∧ ringTenant r ≠ t then s.endControl r i e csFormat
  else if !s.sessionOpen t then s.endControl r i e csNoSession
  else
    let s1 := match s.session t with
      | some x => s.setSession t { x with closing := true }
      | none => s
    (s1.closeSession t).updSec (fun c => { c with
      imports := c.imports.filter (fun m => m.tenant ≠ t)
      closing := c.closing ++ [{ cring := e.cring, ring := r, index := i, tag := e.tag, tenant := t, param := e.param }] })

/-- Work of a tenant, or a translation of a page of its sequences, is still in flight. -/
def tenantBusy (s : State) (t : Nat) : Bool :=
  s.disp.placements.any (fun p => p.wb.tenant = t && !p.ended)
    || s.ledger.seqs.any (fun e => e.2.state ≠ .free && e.2.tenant = t)
    || s.ledger.pending.any (fun p => (s.owner p.ppn).tenant = t && s.translationHeld p)

/-- Pages of a tenant by the owner map. -/
def pagesOf (s : State) (t : Nat) : List Nat := (s.dram.owner.filter (fun e => e.2.assigned && e.2.tenant = t)).map (·.1)

/-- Every page of a tenant is written with zeros and becomes unassigned and free (R419, step 3). -/
def zeroTenant (s : State) (t : Nat) : State :=
  let ps := s.pagesOf t
  let s1 : State := { s with ledger := { s.ledger with pending := s.ledger.pending.filter (fun p => !ps.contains p.ppn) } }
  forEach ps s1 (fun s p => (s.zeroPage p).freePage p)

/-- A tenant's keys, session and handles are destroyed, and its tenant table entry gets WEIGHT 0 (R419, step 4). -/
def endSession (s : State) (t : Nat) : State :=
  let s1 := s.updSec (fun c => { c with
    sessions := smErase c.sessions t
    handles := c.handles.filter (fun h => h.handle / 2 ^ 20 ≠ t)
    imports := c.imports.filter (fun m => m.tenant ≠ t) })
  ((s1.destroyKey t false).destroyKey t true).updDisp (fun d => { d with tenants := smPut d.tenants t (0, (smGet d.tenants (0, 0, 0) t).2.1, 0) })

/-! ### REGISTER (R410) -/

/-- Parts of a REGISTER's parameter block. -/
structure ImportPart where
  kind : Nat
  first : Bool
  last : Bool
  dest : Nat
  len : Nat
  src : Nat
  bad : Bool
deriving DecidableEq, Repr

/-- The block at an address; `bad` where a field lies outside its description. Reserved bytes are ignored (R12). -/
def importPart (s : State) (a t : Nat) : ImportPart :=
  let bs := s.bytes a 0x20
  let kind := bytesNat bs 0 1
  let flags := bytesNat bs 1 1
  let dest := bytesNat bs 8 8 % 2 ^ 40
  let len := bytesNat bs 0x10 4
  let src := bytesNat bs 0x18 8
  { kind := kind, first := bitAt flags 0, last := bitAt flags 1, dest := dest, len := len, src := src,
    bad := decide (1 < kind) || dest % 4096 ≠ 0 || decide (0x2000000000 ≤ dest) || len % 64 ≠ 0 || len = 0
      || decide (2 ^ 24 < len) || !inHostArea src (len + 64 * recordCount len) || !s.inTenantPages dest len t }

/-- The import of a tenant in progress. -/
def importOf (s : State) (t : Nat) : Option Import := s.sec.imports.find? (fun m => m.tenant = t)
/-- An import is discarded. -/
def dropImport (s : State) (t : Nat) : State := s.updSec (fun c => { c with imports := c.imports.filter (fun m => m.tenant ≠ t) })

/-- A part follows on from the import in progress, or begins one. -/
def partFollows (s : State) (t : Nat) (p : ImportPart) : Bool :=
  match s.importOf t with
  | none => p.first
  | some m => !p.first && m.next = p.dest && m.kind = p.kind

/-- At LAST the handle is assigned (R410). -/
def assignHandle (s : State) (t : Nat) (x : Session) (m : Import) (next : Nat) (r : Nat) (e : CtlEntry) (i : Nat) : State :=
  let s1 := s.dropImport t
  let digest := sha512 m.data
  if 256 ≤ (s.sec.handles.filter (fun h => h.handle / 2 ^ 20 = t)).length ∨ 2 ^ 18 ≤ x.nextSerial then s1.endControl r i e csHandleFull
  else
    let h := t * 2 ^ 20 + m.kind * 2 ^ 18 + x.nextSerial
    let s2 := (s1.setSession t { x with nextSerial := x.nextSerial + 1 }).updSec (fun c => { c with
      handles := c.handles ++ [{ handle := h, digest := digest, dest := m.dest, len := next - m.dest, serving := m.serving }] })
    s2.endControl r i e csOk (natLE 4 h ++ fitBytes 64 digest)

/-- REGISTER (R410). `serving`: the serving-program mark of a first part's header. -/
def doRegister (s : State) (serving : Bool) (r : Nat) (e : CtlEntry) (i : Nat) : State :=
  let t := ringTenant r
  let p := s.importPart e.param t
  match s.session t with
  | none => s.endControl r i e (if !s.depotOpen then csServiceWrong else csNoSession)
  | some x =>
    if !s.depotOpen then s.endControl r i e csServiceWrong
    else if !paramOk e.param || p.bad || !s.partFollows t p then (s.dropImport t).endControl r i e csFormat
    else
      let m := (s.importOf t).getD { tenant := t, kind := p.kind, dest := p.dest, next := p.dest, data := [], serving := serving && p.kind = 0 }
      let z := s.recordsOpen t p.src p.len
      let m' := { m with next := p.dest + p.len, data := m.data ++ z.1 }
      let s1 := s.writeKeys ((List.range z.1.length).map (p.dest + ·)) z.1
      if !z.2 then ((s1.bump (pgSec + 0x148)).dropImport t).endControl r i e csNotOwner
      else if p.last then s1.assignHandle t x m' m'.next r e i
      else ((s1.dropImport t).updSec (fun c => { c with imports := c.imports ++ [m'] })).endControl r i e csOk

/-! ### ROTATE (R412–R417) -/

/-- The sweep at the front ends: the old generation's keys are destroyed and its ROTATE completes (R413). -/
def endSweep (s : State) (w : Sweep) : State :=
  let s1 := s.updSec (fun c => { c with sweeps := c.sweeps.filter (fun x => x.tenant ≠ w.tenant) })
  let s2 := match s1.session w.tenant with
    | some x => (s1.setSession w.tenant { x with genKeys := (!x.cur, x.cur) }).destroyKey w.tenant (!x.cur)
    | none => s1
  s2.completeDeferred w.op csOk

/-- ROTATE (R413): keys of the other generation, CUR inverted, and the tenant's pages to sweep. -/
def doRotate (s : State) (r : Nat) (e : CtlEntry) (i : Nat) : State :=
  let t := ringTenant r
  match s.session t with
  | none => s.completeControl r i e (if !s.depotOpen then csServiceWrong else csNoSession) 0
  | some x =>
    if !s.depotOpen then s.completeControl r i e csServiceWrong 0
    else if s.sec.sweeps.any (fun w => w.tenant = t) || !s.keysServed then s.completeControl r i e csKeyBusy 0
    else
      let s1 := (s.setSession t { x with cur := !x.cur, genKeys := (true, true) }).installKey t (!x.cur)
      let w : Sweep := { tenant := t, pages := s.pagesOf t, op := { cring := e.cring, ring := r, index := i, tag := e.tag, tenant := t, param := 0 }, locked := none }
      let s2 := s1.updSec (fun c => { c with sweeps := c.sweeps ++ [w] })
      if w.pages = [] then s2.endSweep w else s2

/-- LOCK is set on a page of the sweep and its cached copies are invalidated (R414). -/
def lockPage (s : State) (w : Sweep) (a : Nat) : State :=
  (s.setEntry a { s.entry a with lock := true }).updSec (fun c => { c with
    sweeps := c.sweeps.map (fun x => if x.tenant = w.tenant then { x with locked := some (a, s.clk) } else x) })

/-- The sweep goes on with its next page, or ends. -/
def nextPage (s : State) (w : Sweep) (ps : List Nat) : State :=
  if ps = [] then s.endSweep w
  else s.updSec (fun c => { c with sweeps := c.sweeps.map (fun x => if x.tenant = w.tenant then { x with pages := ps } else x) })

/-- The locked page (R414): rewritten once the drain is done, given up when it is not 1 µs after LOCK. -/
def sweepLocked (s : State) (w : Sweep) (a t0 : Nat) (drained : Bool) : State :=
  if drained && !s.translationHeld { ppn := (s.entry a).ppn, apPage := a, drop := false } && !s.pageHeld (s.entry a).ppn then
    (if w.pages.tail = [] then (s.rekeyLocked w).endSweep w else s.rekeyLocked w)
  else if t0 + 1000 ≤ s.clk then s.backOff w a
  else s

/-- The sweep's next page, or its end. -/
def sweepStep (s : State) (w : Sweep) (drained : Bool) : State :=
  match w.locked with
  | some (a, t0) => s.sweepLocked w a t0 drained
  | none =>
    match w.pages with
    | [] => s.endSweep w
    | p :: ps =>
      let gen := s.tenantGen w.tenant
      if !s.pageOwned p w.tenant || (s.owner p).keygen = gen || s.ledger.pending.any (fun x => x.ppn = p) then s.nextPage w ps
      else if s.pageHeld p then s
      else match s.mappedAt p with
        | none => (s.rekeyPage p gen).nextPage w ps
        | some a => (s.lockPage w a).sweepLocked w a s.clk drained

end State

/-- SESSION_OPEN (R405). It waits for pages in a stack in self-refresh (R306). -/
def execSessionOpen (ring : Nat) (p : Provision) (s : State) : Res :=
  whenLive s (fun s => if (State.runPages p.pages).any s.pageHeld then s else s.serveControl ring 5 (fun s e i => s.doSessionOpen p ring e i))

/-- SESSION_CLOSE (R419). -/
def execSessionClose (ring : Nat) (s : State) : Res := whenLive s (fun s => s.serveControl ring 6 (fun s e i => s.doSessionClose ring e i))

/-- SESSION_CLOSE_ZEROED (R419): steps 3 and 4 end for a tenant, and its SESSION_CLOSE completes. -/
def execSessionCloseZeroed (tenant : Nat) (s : State) : Res :=
  whenLive s (fun s =>
    match s.sec.closing.find? (fun d => d.tenant = tenant) with
    | none => s
    | some d =>
      if s.tenantBusy tenant || (s.pagesOf tenant).any s.pageHeld then s
      else
        let s1 := (s.zeroTenant tenant).endSession tenant
        (s1.updSec (fun c => { c with closing := c.closing.filter (fun x => x.tenant ≠ tenant) })).completeDeferred d csOk)

/-- REGISTER (R410). It waits for a destination in a stack in self-refresh (R306). -/
def execRegister (ring : Nat) (serving : Bool) (s : State) : Res :=
  whenLive s (fun s => s.serveControl ring 7 (fun s0 e i =>
    let p := s0.importPart e.param (ringTenant ring)
    if !p.bad && s0.devHeld p.dest p.len then s else s0.doRegister serving ring e i))

/-- ROTATE (R413). -/
def execRotate (ring : Nat) (s : State) : Res := whenLive s (fun s => s.serveControl ring 8 (fun s e i => s.doRotate ring e i))

/-- MANIFEST (R404). -/
def execManifest (ring : Nat) (s : State) : Res := whenLive s (fun s => s.serveControl ring 9 (fun s e i => s.doManifest ring e i))

/-- REKEY_PAGE (R414, R415): the sweep's next page; during a recovery a locked page is rewritten or given up, and the sweep pauses (R417). A page of the Ledger is locked, and rewritten by the same command where
the invalidation and the drain are done (`drained`), by a later one otherwise. -/
def execRekeyPage (drained : Bool) (s : State) : Res :=
  whenLive s (fun s =>
    match s.sec.sweeps with
    | [] => s
    | w :: _ =>
      if s.safety.phase ≠ .none then (match w.locked with
        | some l => s.resolveLock l.1
        | none => s)
      else s.sweepStep w drained)

end Sys2Proof.Machine
end

