-- ==== Sys2Proof/Machine/Security.lean ====
section
/-! DEFINITION. Owner commands and the lifecycle (R395–R397, R420–R422), and the random generator (R401). -/

namespace Sys2Proof.Machine

open Sys2Proof

/-! ### SEC_CMD_STAT.RESULT (R423) -/

def ocRunning : Nat := 1
def ocDone : Nat := 2
def ocBadKey : Nat := 3
def ocBadSerial : Nat := 4
def ocNotPermitted : Nat := 5
def ocHandover : Nat := 6

namespace State

/-- Bytes of the command record that SEC_CMD names (R397). -/
def ownerRecord (s : State) : List Byte := s.bytes (psramBase 0 + s.fld (pgSec + 0x13C) 24 0) 388

/-- CMD, ARG and SIGNER of a command record. -/
def orCmd (bs : List Byte) : Nat := bytesNat bs 0 2
def orArg (bs : List Byte) : Nat := bytesNat bs 2 1
def orSigner (bs : List Byte) : Nat := bytesNat bs 3 1

/-- The new random challenge that follows every command and every start (R397). -/
def newChallenge (s : State) : State :=
  let x := s.drbgBytes 16
  x.2.updSec (fun c => { c with challenge := x.1 })

/-- A command ends with a result. -/
def ownerDone (s : State) (res : Nat) : State := (s.setFld (pgSec + 0x140) 2 0 res).newChallenge

/-- A write of SEC_CMD (R397, R423): GO runs the command that the record holds. -/
def writeSecCmd (s : State) (w : Word) : State :=
  let go := bitsOf w 31 31 = 1
  if go && s.fld (pgSec + 0x140) 2 0 = ocRunning then s.regAccess pgSec
  else
    let off := bitsOf w 24 0
    let s1 := if off % 64 = 0 ∧ off < hostArea then s.setFld (pgSec + 0x13C) 24 0 off else s.regAccess pgSec
    if !go then s1
    else if s1.service = 3 then s1.ownerDone ocHandover
    else if orCmd s1.ownerRecord = 0 ∨ 6 < orCmd s1.ownerRecord then s1.ownerDone ocNotPermitted
    else s1.setFld (pgSec + 0x140) 2 0 ocRunning

/-- An owner slot is programmed and not revoked. -/
def slotGood (s : State) (k : Nat) : Bool := s.fuses.ownerSet.contains k && !s.fuses.ownerRevoked.contains k

/-- SERIAL and CHALLENGE match (R397). -/
def orFresh (s : State) (bs : List Byte) : Bool :=
  (bs.drop 0x10).take 16 = fitBytes 16 s.fuses.serial && (bs.drop 0x20).take 16 = fitBytes 16 s.sec.challenge

/-- The record's signature verifies under its signing key, whose hash is `hash`. -/
def orVerified (bs hash : List Byte) : Bool :=
  signedBy { key := (bs.drop 0x70).take 133, body := bs.take 0x100, sig := (bs.drop 0x100).take 132 } hash

/-- The record is signed by the key of slot SIGNER, programmed and unrevoked. -/
def orSigned (s : State) (bs : List Byte) : Bool := s.slotGood (orSigner bs) && orVerified bs (smGet s.fuses.ownerHash [] (orSigner bs))

/-- The command in progress runs its checks and, where all hold, its effect (R397). Reserved bytes are ignored (R12). -/
def ownerCommand (s : State) (cmd : Nat) (permitted signed : List Byte → Bool) (eff : State → List Byte → State) : State :=
  let bs := s.ownerRecord
  if s.fld (pgSec + 0x140) 2 0 ≠ ocRunning ∨ orCmd bs ≠ cmd then s
  else if s.service = 3 then s.ownerDone ocHandover
  else if !permitted bs then s.ownerDone ocNotPermitted
  else if !s.orFresh bs then s.ownerDone ocBadSerial
  else if !signed bs then s.ownerDone ocBadKey
  else (eff s bs).ownerDone ocDone

/-- Changes the fuses. -/
def burn (s : State) (f : Fuses → Fuses) : State := { s with fuses := f s.fuses }

/-- Provisioned or Field. -/
def ownerState (s : State) : Bool := s.fuses.lifecycle = 2 || s.fuses.lifecycle = 3

/-- One step of the Returned transition (R420): 0 zeroes memory and what the islands hold, 1 clears the key tables, 2 to 5 burn the revocation bits, 6 overwrites the
identity seed, and 7 burns the lifecycle fuse and resets the device, whose next start is cold. -/
def eraseStep (s : State) (k : Nat) : State :=
  let s1 : State := { s with start := { s.start with hold := .erasing (k + 1) } }
  match k with
  | 0 => { s1 with
      mem := [], dram := { s1.dram with marked := [] },
      safety := { s1.safety with actions := [], gpio := [], tableOk := false, tableVer := 0, ttDigest := [] } }
  | 1 => { s1 with dram := { s1.dram with keyTable := [], integrityKey := [] }, sec := { Security.initial with life := s.sec.life } }
  | 2 | 3 | 4 | 5 => s1.burn (fun f => { f with ownerRevoked := (k - 2) :: f.ownerRevoked.filter (· ≠ k - 2) })
  | 6 => s1.burn (fun f => { f with seed := none })
  | _ =>
    let s2 := ((s.burn (fun f => { f with lifecycle := max f.lifecycle 4 })).assertBoth).warmStop
    { s2 with start := { s2.start with safeReset := true, coldOwed := true } }

end State

/-- SET_OWNER_SLOT (R397): unsigned in Provisioned, where SIGNER, key and signature are 0. -/
def execSetOwnerSlot (s : State) : Res :=
  whenLive s (fun s => s.ownerCommand 1
    (fun bs => s.ownerState && decide (State.orArg bs ≤ 3) && !s.fuses.ownerSet.contains (State.orArg bs))
    (fun bs => if s.fuses.lifecycle = 2 then State.orSigner bs = 0 && zeroAt bs 0x70 133 && zeroAt bs 0x100 132 else s.orSigned bs)
    (fun s bs => s.burn (fun f => { f with ownerSet := State.orArg bs :: f.ownerSet,
                                           ownerHash := smPut f.ownerHash (State.orArg bs) ((bs.drop 0x30).take 64) })))

/-- REVOKE_SLOT (R397): another slot signs and stays good. -/
def execRevokeSlot (s : State) : Res :=
  whenLive s (fun s => s.ownerCommand 2
    (fun bs => s.ownerState && decide (State.orArg bs ≤ 3) && (List.range 4).any (fun k => k ≠ State.orArg bs && s.slotGood k))
    (fun bs => State.orSigner bs ≠ State.orArg bs && s.orSigned bs)
    (fun s bs => s.burn (fun f => { f with ownerRevoked := State.orArg bs :: f.ownerRevoked.filter (· ≠ State.orArg bs) })))

/-- ADVANCE_ROLLBACK (R397): up to the running image's SVN. -/
def execAdvanceRollback (s : State) : Res :=
  whenLive s (fun s => s.ownerCommand 3
    (fun bs => s.ownerState && decide (s.fuses.rollback < State.orArg bs) && decide (State.orArg bs ≤ s.fld (pgSec + 0x108) 11 5))
    (fun bs => s.orSigned bs)
    (fun s bs => s.burn (fun f => { f with rollback := State.orArg bs })))

/-- TO_FIELD (R397). -/
def execToField (s : State) : Res :=
  whenLive s (fun s => s.ownerCommand 4
    (fun _ => s.fuses.lifecycle = 2 && s.fuses.ownerSet ≠ [])
    (fun bs => s.orSigned bs)
    (fun s _ => s.burn (fun f => { f with lifecycle := max f.lifecycle 3 })))

/-- TO_RETURNED (R397, R420): both islands see PARK_OK high. The transition's steps follow, one in a nanosecond (log entry 144), and nothing else runs until the device
has reset; power that fails between two of them leaves what has been burned. -/
def execToReturned (s : State) : Res :=
  whenLive s (fun s => s.ownerCommand 5
    (fun _ => s.fuses.lifecycle = 3 && s.safety.islA.park.level && s.safety.islB.park.level)
    (fun bs => s.orSigned bs)
    (fun s _ => { s with start := { s.start with hold := .erasing 0 } }))

/-- TO_SCRAPPED (R397): in Returned, the test key signs and no slot is named. -/
def execToScrapped (s : State) : Res :=
  whenLive s (fun s => s.ownerCommand 6
    (fun _ => s.ownerState || s.fuses.lifecycle = 4)
    (fun bs => if s.fuses.lifecycle = 4 then State.orVerified bs s.fuses.rom.test else s.orSigned bs)
    (fun s _ => s.burn (fun f => { f with lifecycle := 5 })))

/-! ### Entropy (R401) -/

/-- DRBG_RESEED (R401): after 2²⁰ requests the generator is reseeded, before any other request; an unhealthy source reseeds nothing. -/
def execDrbgReseed (s : State) : Res :=
  whenLive s (fun s => if s.fld (pgSec + 0x10C) 0 0 = 1 ∧ 2 ^ 20 ≤ s.sec.drbgCount then s.updSec (fun c => { c with drbgCount := 0 }) else s)

/-- TRNG_FAIL (R401): a health test of a hub's source fails; during step 6 of the drive-to-depot handover the handover is abandoned. -/
def execTrngFail (hub : Side) (s : State) : Res :=
  whenLive s (fun s =>
    let s1 := (s.setFld (pgSec + 0x10C) 0 0 0).setFld (pgSec + 0x10C) 1 1 0
    let s2 := (s1.bump (pgSec + 0x150)).recordErr pgSec 0x5B03 (State.sideNo hub)
    match s2.svc with
    | some h => if h.toDepot && h.step = 6 && h.abandoned = 0 then { s2 with svc := some { h with abandoned := 4 } } else s2
    | none => s2)

end Sys2Proof.Machine
end

