-- ==== Sys2Proof/Machine/Clock.lean ====
section
/-! DEFINITION. The device clock: one nanosecond passes when no command waits. -/

namespace Sys2Proof.Machine

open Sys2Proof

namespace State

/-- A move reads or writes lines of a stack. -/
def moveOn (s : State) (m : Move) (d : Nat) : Bool :=
  (Move.reads m ++ Move.writes m).any (fun x => (s.moveKeys m x.1 x.2).any (fun k => k / dieBytes = d))

/-- Requests queued at a DRAM controller: one for each move in flight on its stack (log entry 147). -/
def dramQueued (s : State) (d : Nat) : Nat :=
  ((s.tiles.flatMap (fun e => e.2.moves)).filter (fun m => m.status.isNone && !m.landed && s.moveOn m d)).length

/-- What an event supplies in a cycle by itself (R471, R472): cycles, enabled cycles and levels; log entry 44. -/
def cycleValue (s : State) (b : Blk) (i ev : Nat) : Nat :=
  match b with
  | .tileCnt => if ev = 0x01 then 1 else if ev = 0x02 then b2n (!s.gated i) else if ev = 0x0C then (s.tile i).moves.length
    else if ev = 0x0D then (s.heldRanges i).length else 0
  | .hubcnt => if ev = 0x01 then 1 else if ev = 0x0F then s.ilkOutstanding.length else 0
  | .diecnt => if ev = 0x01 then 1 else if ev = 0x04 then s.dramQueued i else 0
  | _ => 0

/-- Counters that count in a nanosecond: each enabled one of a hub or die page, and of a tile page in its 2 ns cycle (R33, R471); page and number. -/
def runningCounters (s : State) : List (Nat × Nat) :=
  s.regs.filterMap (fun e =>
    let page := e.1 / 0x1000 * 0x1000
    let off := e.1 % 0x1000
    match s.block page with
    | some (b, _) =>
      if decide (0x120 ≤ off) && off % 0x10 = 0 && decide ((off - 0x120) / 0x10 < blkCounters b) && bitsOf e.2 14 14 = 1
          && !(b = .tileCnt && s.clk % 2 = 1)
      then some (page, (off - 0x120) / 0x10) else none
    | none => none)

/-- An address lies in a tile's counter page, whose cycle is 2 ns (R33). -/
def tilePaced (a : Nat) : Bool := match blkAt (a / 0x1000 * 0x1000) with
  | some (.tileCnt, _) => true
  | _ => false

/-- The running counters count a cycle, in which each sees the sum of what its event has supplied (R471); a frozen block and a disabled event supply 0. -/
def countCycle (s : State) : State :=
  let s1 := forEach s.runningCounters s (fun s x =>
    let sel := s.reg (x.1 + 0x120 + 0x10 * x.2)
    let ev := bitsOf sel 7 0
    match blkAt x.1 with
    | none => s
    | some (b, i) =>
      let v := if s.fld (x.1 + 0x10) 0 0 = 1 ∨ bitsOf (s.reg (x.1 + 0xC0)) ev ev = 0 then 0
        else s.cycleValue b i ev + smGet s.evs 0 (x.1 + 16 * ev + bitsOf sel 11 8)
      if ev = 0 then s else s.countOne x.1 x.2 v)
  { s1 with evs := s1.evs.filter (fun e => s.clk % 2 = 1 && tilePaced e.1) }

end State

/-- One nanosecond of the device clock (R32, R35, R369): station time advances by 1, by 2 or by 0 while the rate is slewed,
at 500 parts per million, toward convoy time. A Returned transition takes its next step (R420; log entry 144). Nothing counts while PORST_N is low (R434). Log entry 7. -/
def idleTick (s : State) : State :=
  if s.start.hold = .porst then s
  else
    let due := s.convoy.slew ≠ 0 && s.convoy.slewPhase + 1 = 2000
    let adv := if due then (if 0 < s.convoy.slew then 2 else 0) else 1
    let slew' := if due then (if 0 < s.convoy.slew then s.convoy.slew - 1 else s.convoy.slew + 1) else s.convoy.slew
    let phase' := if s.convoy.slew = 0 ∨ due then 0 else s.convoy.slewPhase + 1
    let s1 := match s.start.hold with
      | .erasing k => s.eraseStep k
      | _ => if s.live then s.countCycle else s
    { s1 with clk := s1.clk + 1, now := s1.now + adv, convoy := { s1.convoy with slew := slew', slewPhase := phase' } }

end Sys2Proof.Machine
end

