-- ==== Sys2Proof/Machine/SlotWord.lean ====
section
/-! DEFINITION. The words of a bundle's slots (R80, R107–R109, R117, R123, R134, R140): which instruction a 64-bit word spells in each slot. -/

namespace Sys2Proof.Machine

open Sys2Proof

/-- What a slot's word is (R107, R109): a NOP, an instruction, a word with an opcode not listed for its slot, or one with a set reserved bit or an
unlisted field encoding. Encodings that an instruction itself forbids are judged by its plan. -/
inductive SlotWord where
  | nop
  | op (ins : Instr)
  | illegalOp
  | illegalField
deriving DecidableEq, Repr

/-- A slot's place in the bundle: CTL lowest (R80). -/
def slotIndex : SlotPos → Nat
  | .ctl => 0
  | .mov => 1
  | .mat => 2
  | .vec => 3

/-- Bits `lo + n - 1` to `lo` of a slot's word. -/
def fieldAt (w : BitVec 64) (lo n : Nat) : BitVec n := w.extractLsb' lo n

/-- The opcode of a slot (R80). -/
def slotOpcode (w : BitVec 64) : Nat := (fieldAt w 58 6).toNat

/-- A store row operand whose lowest bit is `lo` (R112). -/
def rowAt (w : BitVec 64) (lo : Nat) : RowOp := { r := fieldAt w (lo + 15) 1 = 1, a := fieldAt w (lo + 11) 4, off := fieldAt w lo 11 }
/-- An accumulator operand whose lowest bit is `lo` (R113). -/
def accAt (w : BitVec 64) (lo : Nat) : AccOp := { r := fieldAt w (lo + 11) 1 = 1, a := fieldAt w (lo + 8) 3, off := fieldAt w lo 8 }
/-- One bit of a slot's word. -/
def flagAt (w : BitVec 64) (lo : Nat) : Bool := fieldAt w lo 1 = 1

/-- An instruction whose reserved bits, from `lo` up `n` of them, must be 0 (R109). -/
def withReserved (w : BitVec 64) (lo n : Nat) (ins : Instr) : SlotWord := if (fieldAt w lo n).toNat = 0 then .op ins else .illegalField

/-- WAIT by its FORM (R117, R120). -/
def decodeWait (i : Issue) (w : BitVec 64) : SlotWord :=
  match (fieldAt w 55 3).toNat with
  | 0 => withReserved w 32 13 (.waitEvent i (fieldAt w 0 32))
  | 1 => withReserved w 32 13 (.waitDock i (fieldAt w 51 4) (flagAt w 50) (fieldAt w 45 5) (fieldAt w 0 32))
  | 2 => withReserved w 32 13 (.waitTime i (fieldAt w 45 5))
  | 3 => withReserved w 32 13 (.waitTags i (fieldAt w 0 32))
  | _ => .illegalField

/-- SIGNAL by its FORM (R117, R121, R122): the dock forms leave RF, SREG and TILE 0. -/
def decodeSignal (i : Issue) (w : BitVec 64) : SlotWord :=
  match (fieldAt w 56 2).toNat with
  | 0 => withReserved w 4 40 (.signalEvent i (flagAt w 55) (fieldAt w 50 5) (fieldAt w 44 6) (fieldAt w 0 4))
  | 1 => withReserved w 4 52 (.signalDockOpen i (fieldAt w 0 4))
  | 2 => withReserved w 4 52 (.signalDockClose i (fieldAt w 0 4))
  | _ => .illegalField

/-- The CTL slot (R117). -/
def decodeCtl (i : Issue) (w : BitVec 64) : SlotWord :=
  match slotOpcode w with
  | 0x01 => withReserved w 16 16 (.loop i (fieldAt w 52 6) (fieldAt w 32 20) (fieldAt w 0 16))
  | 0x02 => withReserved w 0 58 (.endloop i)
  | 0x03 => withReserved w 18 40 (.br i (fieldAt w 16 2) (fieldAt w 0 16))
  | 0x04 => withReserved w 18 25 (.brc i (fieldAt w 52 6) (fieldAt w 49 3) (fieldAt w 43 6) (fieldAt w 16 2) (fieldAt w 0 16))
  | 0x05 => decodeWait i w
  | 0x06 => decodeSignal i w
  | 0x07 => withReserved w 40 12 (.sets i (fieldAt w 52 6) (fieldAt w 0 40))
  | 0x08 => withReserved w 32 8 (.adds i (fieldAt w 52 6) (fieldAt w 46 6) (fieldAt w 40 6) (fieldAt w 0 32))
  | 0x09 => .op (.roster i (fieldAt w 53 5) (rowAt w 37) (fieldAt w 29 8) (fieldAt w 16 13) (fieldAt w 0 16))
  | 0x0A => withReserved w 32 21 (.budget i (fieldAt w 53 5) (fieldAt w 0 32))
  | 0x0B => withReserved w 3 55 (.fence i (fieldAt w 0 3))
  | 0x0C => withReserved w 16 42 (.mark i (fieldAt w 0 16))
  | 0x0D => withReserved w 16 42 (.endWaybill i (fieldAt w 0 16))
  | _ => .illegalOp

/-- LDW by its source (R123). -/
def decodeLdw (i : Issue) (w : BitVec 64) : SlotWord :=
  if flagAt w 53 then
    withReserved w 0 20 (.ldw i (fieldAt w 54 4) (fieldAt w 51 2) (flagAt w 50) (fieldAt w 44 6) (.device (fieldAt w 40 4) (fieldAt w 20 20)))
  else withReserved w 0 28 (.ldw i (fieldAt w 54 4) (fieldAt w 51 2) (flagAt w 50) (fieldAt w 44 6) (.store (rowAt w 28)))

/-- The MOV slot (R123). -/
def decodeMov (i : Issue) (w : BitVec 64) : SlotWord :=
  match slotOpcode w with
  | 0x01 => .op (.ldrow i (fieldAt w 54 4) (fieldAt w 50 4) (rowAt w 34) (fieldAt w 26 8) (flagAt w 25) (fieldAt w 20 5) (fieldAt w 0 20))
  | 0x02 => .op (.strow i (fieldAt w 54 4) (fieldAt w 50 4) (rowAt w 34) (fieldAt w 26 8) (flagAt w 25) (fieldAt w 20 5) (fieldAt w 0 20))
  | 0x03 => withReserved w 20 1 (.ldledger i (fieldAt w 54 4) (fieldAt w 50 4) (rowAt w 34) (fieldAt w 26 8) (fieldAt w 21 5) (fieldAt w 0 20))
  | 0x04 => withReserved w 11 5 (.dockwr i (fieldAt w 54 4) (rowAt w 38) (fieldAt w 35 3) (flagAt w 34) (fieldAt w 26 8) (fieldAt w 20 6)
      (fieldAt w 16 4) (fieldAt w 0 11))
  | 0x05 => withReserved w 0 41 (.platcpy i (fieldAt w 54 4) (fieldAt w 50 4) (fieldAt w 46 4) (fieldAt w 41 5))
  | 0x06 => withReserved w 0 5 (.gather i (fieldAt w 54 4) (fieldAt w 50 4) (rowAt w 34) (rowAt w 18) (fieldAt w 11 7) (flagAt w 10) (fieldAt w 5 5))
  | 0x07 => decodeLdw i w
  | 0x08 => withReserved w 20 6 (.commit i (fieldAt w 54 4) (fieldAt w 50 4) (fieldAt w 45 5) (fieldAt w 40 5) (fieldAt w 35 5) (flagAt w 34)
      (fieldAt w 26 8) (fieldAt w 0 20))
  | _ => .illegalOp

/-- The MAT slot (R134): CONV has G = 0b000, and DCONV's G is judged by its plan. -/
def decodeMat (i : Issue) (w : BitVec 64) : SlotWord :=
  match slotOpcode w with
  | 0x01 => withReserved w 0 2 (.mma i (rowAt w 42) (accAt w 30) (fieldAt w 22 8) (fieldAt w 18 4) (rowAt w 2))
  | 0x02 => withReserved w 0 2 (.mmaz i (rowAt w 42) (accAt w 30) (fieldAt w 22 8) (fieldAt w 18 4) (rowAt w 2))
  | 0x03 => withReserved w 0 5 (.conv i (rowAt w 42) (accAt w 30) (fieldAt w 25 5) (fieldAt w 21 4) (rowAt w 5))
  | 0x04 => withReserved w 0 2 (.dconv i (rowAt w 42) (accAt w 30) (fieldAt w 25 5) (fieldAt w 21 4) (rowAt w 5) (fieldAt w 2 3))
  | 0x05 => withReserved w 0 58 (.swapw i)
  | 0x06 => .op (.accrd i (accAt w 46) (fieldAt w 38 8) (rowAt w 22) (fieldAt w 18 4) (rowAt w 2) (flagAt w 1) (flagAt w 0))
  | _ => .illegalOp

/-- The fields that every VEC instruction shares (R140). -/
def vecAt (w : BitVec 64) : VecOp :=
  { ty := fieldAt w 56 2, d := fieldAt w 51 5, a := fieldAt w 46 5, b := fieldAt w 41 5, c := fieldAt w 36 5, n1 := fieldAt w 28 8, satf := flagAt w 18,
    bi := flagAt w 17, bs := flagAt w 16, imm := fieldAt w 0 16 }

/-- VOP by SUB (R143). -/
def decodeVop (i : Issue) (v : VecOp) (sub : Nat) : SlotWord :=
  match sub with
  | 0x00 => .op (.vopMov i v)
  | 0x01 => .op (.vopAdd i v)
  | 0x02 => .op (.vopSub i v)
  | 0x03 => .op (.vopMul i v)
  | 0x04 => .op (.vopMax i v)
  | 0x05 => .op (.vopMin i v)
  | 0x06 => .op (.vopAbs i v)
  | 0x07 => .op (.vopNeg i v)
  | 0x08 => .op (.vopRelu i v)
  | 0x09 => .op (.vopRcp i v)
  | 0x0A => .op (.vopRsqrt i v)
  | 0x0B => .op (.vopAnd i v)
  | 0x0C => .op (.vopOr i v)
  | 0x0D => .op (.vopXor i v)
  | 0x0E => .op (.vopShl i v)
  | 0x0F => .op (.vopShr i v)
  | 0x10 => .op (.vopZero i v)
  | _ => .illegalField

/-- VRED by SUB (R143): SUB[1:0] names the reduction and SUB[2] its direction. -/
def decodeVred (i : Issue) (v : VecOp) (sub : Nat) : SlotWord :=
  match sub with
  | 0 => .op (.vredSum i v false)
  | 1 => .op (.vredMax i v false)
  | 2 => .op (.vredMin i v false)
  | 4 => .op (.vredSum i v true)
  | 5 => .op (.vredMax i v true)
  | 6 => .op (.vredMin i v true)
  | _ => .illegalField

/-- VCMP by SUB (R143). -/
def decodeVcmp (i : Issue) (v : VecOp) (sub : Nat) : SlotWord :=
  match sub with
  | 0 => .op (.vcmpEq i v)
  | 1 => .op (.vcmpNe i v)
  | 2 => .op (.vcmpLt i v)
  | 3 => .op (.vcmpLe i v)
  | 4 => .op (.vcmpGt i v)
  | 5 => .op (.vcmpGe i v)
  | _ => .illegalField

/-- VPOOL by SUB (R143): SUB[0] names the pooling, SUB[4] is COUNT_PAD. -/
def decodeVpool (i : Issue) (v : VecOp) (sub : Nat) : SlotWord :=
  match sub with
  | 0x00 => .op (.vpoolMax i v false)
  | 0x01 => .op (.vpoolAvg i v false)
  | 0x10 => .op (.vpoolMax i v true)
  | 0x11 => .op (.vpoolAvg i v true)
  | _ => .illegalField

/-- An instruction whose SUB must be 0. -/
def subZero (sub : Nat) (ins : Instr) : SlotWord := if sub = 0 then .op ins else .illegalField

/-- The VEC slot (R140, R142, R143). -/
def decodeVec (i : Issue) (w : BitVec 64) : SlotWord :=
  let v := vecAt w
  let sub := fieldAt w 20 8
  let n := sub.toNat
  if 0x0B < slotOpcode w ∨ slotOpcode w = 0 then .illegalOp
  else if flagAt w 19 then .illegalField
  else match slotOpcode w with
    | 0x01 => decodeVop i v n
    | 0x02 => subZero n (.vfma i v)
    | 0x03 => decodeVred i v n
    | 0x04 => .op (.vcvt i v (fieldAt w 24 4) (fieldAt w 20 4))
    | 0x05 => if n = 1 then .op (.vtabLoad i v) else subZero n (.vtabEval i v)
    | 0x06 => subZero n (.vexp2 i v)
    | 0x07 => if 4 ≤ n then .illegalField else .op (.vmerge i v (flagAt w 20) (flagAt w 21))
    | 0x08 => decodeVpool i v n
    | 0x09 => subZero n (.vxpose i v)
    | 0x0A => subZero n (.vsel i v)
    | _ => decodeVcmp i v n

/-- What a slot's word is: all zero is a NOP in every slot (R107). -/
def decodeSlot (i : Issue) (pos : SlotPos) (w : BitVec 64) : SlotWord :=
  if w = 0 then .nop
  else match pos with
    | .ctl => decodeCtl i w
    | .mov => decodeMov i w
    | .mat => decodeMat i w
    | .vec => decodeVec i w

end Sys2Proof.Machine
end

