-- ==== Sys2Proof/Machine/TileVec.lean ====
section
/-! DEFINITION. The VEC slot (R140–R146) and the arithmetic of the vector unit (R165–R170, R188–R191). -/

namespace Sys2Proof.Machine

open Sys2Proof

/-! ### Types and lanes (R140) -/

/-- TYPE of a vector instruction. -/
inductive VTy where
  | bf16
  | fp16
  | int16
  | fp32
deriving DecidableEq, Repr

/-- TYPE of its code. -/
def vty (b : BitVec 2) : VTy :=
  match b.toNat with
  | 0 => .bf16
  | 1 => .fp16
  | 2 => .int16
  | _ => .fp32

/-- Bits of a lane. -/
def VTy.bits : VTy → Nat
  | .fp32 => 32
  | _ => 16
/-- Lanes of a row. -/
def VTy.lanes (y : VTy) : Nat := 4096 / y.bits
/-- Floating-point format of a TYPE that has one. -/
def VTy.fmt : VTy → Option FFmt
  | .bf16 => some fBf16
  | .fp16 => some fFp16
  | .int16 => none
  | .fp32 => some fFp32
/-- Value of a lane pattern. -/
def VTy.val (y : VTy) (p : Nat) : Num :=
  match y.fmt with
  | some f => f.decode p
  | none => Num.ofInt (sext 16 p) 0
/-- A lane pattern is a NaN of its TYPE. -/
def VTy.isNan (y : VTy) (p : Nat) : Bool := (y.val p).isNan
/-- A value rounded once to TYPE; an integer rounds and clamps (R161, R165). -/
def VTy.round (y : VTy) (v : Num) : Conv :=
  match y.fmt with
  | some f => f.conv .even .infinity true v
  | none => convInt 16 (-32768) 32767 .even v
/-- The lanes of a row, as patterns. -/
def VTy.lanesOf (y : VTy) (row : List Byte) : List Nat := unpackElems y.bits y.lanes row
/-- A row of lane patterns. -/
def VTy.rowOf (y : VTy) (l : List Nat) : List Byte := packElems y.bits l

/-- A pattern that is written as it stands. -/
def plainConv (p : Nat) : Conv := { bits := p, sat := false, nan := false }
/-- The conversion with the NaN flag of operands that were read (R166). -/
def Conv.orNan (c : Conv) (b : Bool) : Conv := { c with nan := c.nan || b }

/-- An INT16 result: clamped with SATF, wrapped without (R167). -/
def intLane (satf : Bool) (i : Int) : Conv :=
  if satf then { bits := twos 16 (clampI (-32768) 32767 i), sat := i < -32768 || 32767 < i, nan := false }
  else plainConv (twos 16 i)

/-- The larger of two lanes (R143, R166): NaN if either is; the sign of a maximum of opposite zeros is open (log entry 32). -/
def maxLane (y : VTy) (a b : Nat) : Conv :=
  let u := y.val a
  let v := y.val b
  if u.isNan || v.isNan then y.round .nan
  else if u.lt v then plainConv b
  else if v.lt u then plainConv a
  else if u.sign = v.sign then plainConv a
  else y.round (.fin (Config.zeroPick a b) 0 0)

/-- The smaller of two lanes. -/
def minLane (y : VTy) (a b : Nat) : Conv :=
  let u := y.val a
  let v := y.val b
  if u.isNan || v.isNan then y.round .nan
  else if u.lt v then plainConv a
  else if v.lt u then plainConv b
  else if u.sign = v.sign then plainConv a
  else y.round (.fin (Config.zeroPick a b) 0 0)

/-! ### Operands (R141, R142) -/

/-- How an instruction uses its operands: which of D, A, B, C; whether D must be a register whatever N is; the rows a store source
gives and a store destination takes; whether overlap is forbidden; whether SATF and IMM have a meaning; and any further broken rule. -/
structure VecShape where
  d : Bool
  a : Bool
  b : Bool
  c : Bool
  dReg : Bool
  inRows : Nat
  outRows : Nat
  strict : Bool
  satOk : Bool
  immOk : Bool
  bad : Bool
deriving DecidableEq, Repr

/-- A shape that reads and writes N rows. -/
def vecShape (v : VecOp) (a b c : Bool) : VecShape :=
  { d := true, a := a, b := b, c := c, dReg := false, inRows := v.n1.toNat + 1, outRows := v.n1.toNat + 1, strict := false,
    satOk := false, immOk := false, bad := false }

/-- An operand code names a register or a store row. -/
def vecReg (c : BitVec 5) : Bool := c.toNat < 8
def vecStore (c : BitVec 5) : Bool := 8 ≤ c.toNat && c.toNat < 24
/-- First row of a store operand, relative to the share. -/
def Tile.vecFirst (T : Tile) (c : BitVec 5) : Nat := T.a (c.toNat - 8) % 2048

/-- Source operands that are read through the operand codes. -/
def vecSources (v : VecOp) (sh : VecShape) : List (BitVec 5) :=
  (if sh.a then [v.a] else []) ++ (if sh.b && !v.bs && !v.bi then [v.b] else []) ++ (if sh.c then [v.c] else [])

/-- The store source, if there is one. -/
def vecStoreSource (v : VecOp) (sh : VecShape) : Option (BitVec 5) := ((vecSources v sh).filter vecStore).head?

/-- A used operand's code names nothing. -/
def vecCodeBad (c : BitVec 5) : Bool := decide (24 ≤ c.toNat)

/-- The rules of R141, R142 and R162 that any vector instruction can break. BS and BI need an instruction that has a B operand. -/
def vecFieldBad (T : Tile) (v : VecOp) (sh : VecShape) : Bool :=
  (v.bs && v.bi) || (!sh.b && (v.bs || v.bi)) || (v.bi && v.b.toNat ≠ 31)
    || (vecSources v sh).any vecCodeBad
    || (!sh.a && v.a.toNat ≠ 31) || (!sh.b && v.b.toNat ≠ 31) || (!sh.c && v.c.toNat ≠ 31)
    || (if sh.d then vecCodeBad v.d || (sh.dReg && !vecReg v.d) || (!sh.dReg && vecReg v.d && v.n1.toNat ≠ 0) else v.d.toNat ≠ 31)
    || decide (1 < ((vecSources v sh).filter vecStore).length)
    || (v.satf && !sh.satOk) || (!v.bi && !sh.immOk && v.imm ≠ 0)
    || (match vecStoreSource v sh with
        | none => false
        | some c =>
          let f := T.vecFirst c
          let g := T.vecFirst v.d
          sh.d && vecStore v.d && decide (f < g + sh.outRows) && decide (g < f + sh.inRows) && (sh.strict || decide (f < g)))
    || sh.bad

/-- What a vector instruction needs. -/
def vecPlan (v : VecOp) (sh : VecShape) (s : State) (t : Nat) : SlotPlan :=
  let T := s.tile t
  { SlotPlan.free with
    field := vecFieldBad T v sh
    sync := true
    ranges := (match vecStoreSource v sh with
        | some c => [rdRows (T.vecFirst c) sh.inRows]
        | none => [])
      ++ (if sh.d && vecStore v.d then [wrRows (T.vecFirst v.d) sh.outRows] else []) }

/-- Row `j` of a source operand: a register is used unchanged for every row (R142). -/
def State.vecRow (s : State) (t : Nat) (c : BitVec 5) (j : Nat) : List Byte :=
  let T := s.tile t
  if vecReg c then T.vreg c.toNat else s.rowBytes t (s.absRow t (T.vecFirst c + j))

/-- The broadcast value of B (R141): a scalar register converted to TYPE, or the immediate. -/
def Tile.vecBroadcast (T : Tile) (y : VTy) (v : VecOp) : Conv :=
  if v.bs then
    let w := T.s v.b.toNat
    match y with
    | .int16 => convInt 16 (-32768) 32767 .even (Num.ofInt (sext 32 w) 0)
    | .fp32 => { bits := w, sat := false, nan := (n32 w).isNan }
    | _ => y.round (n32 w)
  else plainConv (if y = .fp32 then v.imm.toNat * 65536 else v.imm.toNat)

/-- Row `j` of operand B. -/
def State.vecRowB (s : State) (t : Nat) (y : VTy) (v : VecOp) (j : Nat) : List Byte :=
  if v.bs || v.bi then y.rowOf (List.replicate y.lanes ((s.tile t).vecBroadcast y v).bits) else s.vecRow t v.b j

/-- A row of results with its flags. -/
structure VecRow where
  bytes : List Byte
  sat : Bool
  nan : Bool
deriving DecidableEq, Repr

/-- A row of lane results. -/
def VecRow.of (y : VTy) (l : List Conv) : VecRow :=
  { bytes := y.rowOf (l.map (·.bits)), sat := l.any (·.sat), nan := l.any (·.nan) }

/-- A lane-by-lane operation on three rows. -/
def laneRow (y : VTy) (f : Nat → Nat → Nat → Conv) (ra rb rc : List Byte) : VecRow :=
  VecRow.of y (((y.lanesOf ra).zip ((y.lanesOf rb).zip (y.lanesOf rc))).map (fun p => f p.1 p.2.1 p.2.2))

/-- Poison marks of row `j` of a source operand. -/
def State.vecMark (s : State) (t : Nat) (c : BitVec 5) (j : Nat) : Nat :=
  if vecReg c then State.markVreg c.toNat else s.absRow t ((s.tile t).vecFirst c + j)
/-- Poison marks of row `j` of every source operand. -/
def State.vecMarks (s : State) (t : Nat) (v : VecOp) (sh : VecShape) (j : Nat) : List Nat := (vecSources v sh).map (fun c => s.vecMark t c j)

/-- Results go to a register or to store rows, and poison moves with them (R71); `src j` are the marks that result row `j` came from. Flags are
sticky (R115). -/
def State.vecWrite (s : State) (t : Nat) (v : VecOp) (sh : VecShape) (src : Nat → List Nat) (rows : List VecRow) : State :=
  let T := s.tile t
  let d0 := s.absRow t (T.vecFirst v.d)
  let s1 := if vecReg v.d then s.updTile t (fun T => T.setVreg v.d.toNat (rows.headD { bytes := [], sat := false, nan := false }).bytes)
    else rows.zipIdx.foldl (fun s r => s.writeRow t (d0 + r.2) r.1.bytes) s
  let bc := if sh.b && v.bs then T.vecBroadcast (vty v.ty) v else plainConv 0
  let s2 := s1.updTile t (fun T => { T with st := stArith T.st (rows.any (·.sat) || bc.sat) (rows.any (·.nan) || bc.nan) })
  (s2.movePoison t (if vecReg v.d then [(State.markVreg v.d.toNat, src 0)] else (List.range rows.length).map (fun j => (d0 + j, src j)))).countEvent
    (pgTileCnt t) 0x09 0 (max sh.inRows rows.length)

/-- A vector instruction that works row by row (R142): row `j` of the result from row `j` of each operand; `more` are further poison marks of its data. -/
def laneEff (v : VecOp) (sh : VecShape) (more : List Nat) (f : Tile → Nat → Nat → Nat → Conv) (s : State) (t : Nat) : State :=
  let y := vty v.ty
  let T := s.tile t
  s.vecWrite t v sh (fun j => more ++ s.vecMarks t v sh j) ((List.range sh.outRows).map (fun j =>
    laneRow y (f T) (if sh.a then s.vecRow t v.a j else List.replicate 512 0) (if sh.b then s.vecRowB t y v j else List.replicate 512 0)
      (if sh.c then s.vecRow t v.c j else List.replicate 512 0)))

/-- The slot of a row-by-row vector instruction. -/
def laneSlot (v : VecOp) (sh : VecShape) (f : Tile → Nat → Nat → Nat → Conv) : Slot := mkSlot .vec (vecPlan v sh) (laneEff v sh [] f)

/-! ### VOP (R143, R165–R168) -/

/-- A floating-point result from operands of which some may be NaN. -/
def fpLane (y : VTy) (r : Num) (operands : List Nat) : Conv := (y.round r).orNan (operands.any y.isNan)

/-- Shape of a VOP: SATF has a meaning for INT16 (R162). -/
def vopShape (v : VecOp) (a b : Bool) : VecShape := { vecShape v a b false with satOk := vty v.ty = .int16 }
/-- Shape of a VOP for floating-point types only. -/
def vopFp (v : VecOp) (b : Bool) : VecShape := { vopShape v true b with bad := vty v.ty = .int16 }
/-- Shape of a VOP for INT16 only. -/
def vopInt (v : VecOp) (b : Bool) : VecShape := { vopShape v true b with bad := vty v.ty ≠ .int16 }

/-- MOV passes the pattern; a NaN sets ST.NAN (R166). -/
def movLane (y : VTy) (a : Nat) : Conv := (plainConv a).orNan (y.isNan a)
/-- Binary arithmetic: exact, rounded once, or by R167 for INT16. -/
def addLane (y : VTy) (satf : Bool) (a b : Nat) : Conv :=
  if y = .int16 then intLane satf (sext 16 a + sext 16 b) else fpLane y ((y.val a).add (y.val b)) [a, b]
def subLane (y : VTy) (satf : Bool) (a b : Nat) : Conv :=
  if y = .int16 then intLane satf (sext 16 a - sext 16 b) else fpLane y ((y.val a).add (y.val b).neg) [a, b]
def mulLane (y : VTy) (satf : Bool) (a b : Nat) : Conv :=
  if y = .int16 then intLane satf (sext 16 a * sext 16 b) else fpLane y ((y.val a).mul (y.val b)) [a, b]
def absLane (y : VTy) (satf : Bool) (a : Nat) : Conv :=
  if y = .int16 then intLane satf ((sext 16 a).natAbs) else if y.isNan a then y.round .nan else plainConv (a % 2 ^ (y.bits - 1))
def negLane (y : VTy) (satf : Bool) (a : Nat) : Conv :=
  if y = .int16 then intLane satf (-sext 16 a) else fpLane y (y.val a).neg [a]
/-- RELU (R143, R160). -/
def reluLane (y : VTy) (a : Nat) : Conv :=
  if y = .int16 then plainConv (if bitAt a 15 then 0 else a) else fpLane y (reluNum (y.val a)) [a]
/-- The FP32 pattern of a lane value, by which an approximated result is picked. -/
def pat32 (v : Num) : Nat := fFp32.round v
def rcpLane (y : VTy) (a : Nat) : Conv := fpLane y (rcpNum (pat32 (y.val a)) (y.val a)) [a]
def rsqrtLane (y : VTy) (a : Nat) : Conv :=
  match y.val a with
  | .fin true 0 _ => fpLane y (.inf true) [a]
  | w => fpLane y (rsqrtNum (pat32 w) w) [a]

/-- VOP MOV (R143). -/
def slotVopMov (v : VecOp) : Slot :=
  laneSlot v (vopShape v true false) (fun _ a _ _ => movLane (vty v.ty) a)
/-- VOP ADD (R143, R165, R167). -/
def slotVopAdd (v : VecOp) : Slot :=
  laneSlot v (vopShape v true true) (fun _ a b _ => addLane (vty v.ty) v.satf a b)
/-- VOP SUB. -/
def slotVopSub (v : VecOp) : Slot :=
  laneSlot v (vopShape v true true) (fun _ a b _ => subLane (vty v.ty) v.satf a b)
/-- VOP MUL. -/
def slotVopMul (v : VecOp) : Slot :=
  laneSlot v (vopShape v true true) (fun _ a b _ => mulLane (vty v.ty) v.satf a b)
/-- VOP MAX (R166). -/
def slotVopMax (v : VecOp) : Slot :=
  laneSlot v (vopShape v true true) (fun _ a b _ => maxLane (vty v.ty) a b)
/-- VOP MIN (R166). -/
def slotVopMin (v : VecOp) : Slot :=
  laneSlot v (vopShape v true true) (fun _ a b _ => minLane (vty v.ty) a b)
/-- VOP ABS. -/
def slotVopAbs (v : VecOp) : Slot :=
  laneSlot v (vopShape v true false) (fun _ a _ _ => absLane (vty v.ty) v.satf a)
/-- VOP NEG. -/
def slotVopNeg (v : VecOp) : Slot :=
  laneSlot v (vopShape v true false) (fun _ a _ _ => negLane (vty v.ty) v.satf a)
/-- VOP RELU. -/
def slotVopRelu (v : VecOp) : Slot :=
  laneSlot v (vopShape v true false) (fun _ a _ _ => reluLane (vty v.ty) a)
/-- VOP RCP, for floating-point types (R166, R168). -/
def slotVopRcp (v : VecOp) : Slot :=
  laneSlot v (vopFp v false) (fun _ a _ _ => rcpLane (vty v.ty) a)
/-- VOP RSQRT, for floating-point types (R166, R168). -/
def slotVopRsqrt (v : VecOp) : Slot :=
  laneSlot v (vopFp v false) (fun _ a _ _ => rsqrtLane (vty v.ty) a)
/-- VOP AND, for INT16. -/
def slotVopAnd (v : VecOp) : Slot :=
  laneSlot v (vopInt v true) (fun _ a b _ => plainConv (a &&& b))
/-- VOP OR, for INT16. -/
def slotVopOr (v : VecOp) : Slot :=
  laneSlot v (vopInt v true) (fun _ a b _ => plainConv (a ||| b))
/-- VOP XOR, for INT16. -/
def slotVopXor (v : VecOp) : Slot :=
  laneSlot v (vopInt v true) (fun _ a b _ => plainConv (a ^^^ b))
/-- VOP SHL, for INT16: the count is B[3:0] (R167). -/
def slotVopShl (v : VecOp) : Slot :=
  laneSlot v (vopInt v true) (fun _ a b _ => plainConv (a * 2 ^ (b % 16) % 65536))
/-- VOP SHR, for INT16, arithmetic (R167). -/
def slotVopShr (v : VecOp) : Slot :=
  laneSlot v (vopInt v true) (fun _ a b _ => plainConv (twos 16 (Int.fdiv (sext 16 a) ((2 : Int) ^ (b % 16)))))
/-- VOP ZERO. -/
def slotVopZero (v : VecOp) : Slot :=
  laneSlot v (vopShape v false false) (fun _ _ _ _ => plainConv 0)

/-! ### VFMA, VSEL, VCMP, VEXP2, VTAB -/

/-- A × B + C with one rounding (R143, R165, R167). -/
def fmaLane (y : VTy) (satf : Bool) (a b c : Nat) : Conv :=
  if y = .int16 then intLane satf (sext 16 a * sext 16 b + sext 16 c)
  else fpLane y (((y.val a).mul (y.val b)).add (y.val c)) [a, b, c]

/-- VFMA (R143). -/
def slotVfma (v : VecOp) : Slot :=
  laneSlot v { vecShape v true true true with satOk := vty v.ty = .int16 } (fun _ a b c => fmaLane (vty v.ty) v.satf a b c)

/-- VSEL passes the pattern of A where C has a bit set, of B elsewhere (R143); a NaN that it passes sets ST.NAN (R166; DESIGN CHOICE, log entry
152: a NaN in C or in the lane that is not passed sets no flag). -/
def slotVsel (v : VecOp) : Slot :=
  laneSlot v (vecShape v true true true) (fun _ a b c => movLane (vty v.ty) (if c = 0 then b else a))

/-- A comparison: all ones or zero; false with a NaN operand but for NE, and ST.NAN is set (R143, R166). -/
def cmpLane (y : VTy) (f : Num → Num → Bool) (a b : Nat) : Conv :=
  (plainConv (if f (y.val a) (y.val b) then 2 ^ y.bits - 1 else 0)).orNan (y.isNan a || y.isNan b)

/-- VCMP EQ. -/
def slotVcmpEq (v : VecOp) : Slot :=
  laneSlot v (vecShape v true true false) (fun _ a b _ => cmpLane (vty v.ty) Num.eqv a b)
/-- VCMP NE: true with a NaN operand. -/
def slotVcmpNe (v : VecOp) : Slot :=
  laneSlot v (vecShape v true true false) (fun _ a b _ => cmpLane (vty v.ty) (fun x z => !(x.eqv z)) a b)
/-- VCMP LT. -/
def slotVcmpLt (v : VecOp) : Slot :=
  laneSlot v (vecShape v true true false) (fun _ a b _ => cmpLane (vty v.ty) Num.lt a b)
/-- VCMP LE. -/
def slotVcmpLe (v : VecOp) : Slot :=
  laneSlot v (vecShape v true true false) (fun _ a b _ => cmpLane (vty v.ty) (fun x z => x.lt z || x.eqv z) a b)
/-- VCMP GT. -/
def slotVcmpGt (v : VecOp) : Slot :=
  laneSlot v (vecShape v true true false) (fun _ a b _ => cmpLane (vty v.ty) (fun x z => z.lt x) a b)
/-- VCMP GE. -/
def slotVcmpGe (v : VecOp) : Slot :=
  laneSlot v (vecShape v true true false) (fun _ a b _ => cmpLane (vty v.ty) (fun x z => z.lt x || x.eqv z) a b)

/-- VEXP2: in FP32, rounded to TYPE (R143, R168); INT16 is ILLEGAL_FIELD. -/
def slotVexp2 (v : VecOp) : Slot :=
  laneSlot v { vecShape v true false false with bad := vty v.ty = .int16 }
    (fun _ a _ _ =>
      let y := vty v.ty
      fpLane y (n32 (exp2Pat (pat32 (y.val a)))) [a])

/-- Word `n` of a function table (R144). -/
def Tile.tab (T : Tile) (slot n : Nat) : Nat := (smGet T.tabs 0 (slot * 256 + n)).toNat

/-- Whole part of a finite value, rounded down. -/
def numFloor : Num → Int
  | .fin a m e => if 0 ≤ e then signedMant a m * (2 : Int) ^ e.toNat else Int.fdiv (signedMant a m) ((2 : Int) ^ (-e).toNat)
  | _ => 0

/-- f(x) of a table, in FP32 (R144, R170). -/
def Tile.tabEval (T : Tile) (slot x : Nat) : Nat :=
  let w := T.tab slot
  let u := mul32 (sub32 x (w 0)) (w 1)
  match n32 x with
  | .nan => fFp32.nanBits
  | .inf neg => if neg then w 2 else w 3
  | _ =>
    match n32 u with
    | .nan => fFp32.nanBits
    | .inf neg => if neg then w 2 else w 3
    | n =>
      let seg := numFloor n
      if seg < 0 then w 2
      else if 63 ≤ seg then w 3
      else
        let c := fun k => w (4 + 4 * seg.toNat + k)
        let tt := sub32 u (fFp32.round (Num.ofInt seg 0))
        add32 (mul32 (add32 (mul32 (add32 (mul32 (c 3) tt) (c 2)) tt) (c 1)) tt) (c 0)

/-- VTAB EVAL (R144, R170): table IMM[0], rounded once to TYPE. DESIGN CHOICE (log entry 153): for INT16 the FP32 result is rounded to an integer and clamped with ST.SAT. -/
def slotVtabEval (v : VecOp) : Slot :=
  let sh := { vecShape v true false false with immOk := true, bad := decide (1 < v.imm.toNat) }
  mkSlot .vec (vecPlan v sh) (laneEff v sh [State.markTab v.imm.toNat]
    (fun T a _ _ =>
      let y := vty v.ty
      fpLane y (n32 (T.tabEval v.imm.toNat (pat32 (y.val a)))) [a]))

/-- Shape of VTAB LOAD: two rows from A, no destination operand (R143). DESIGN CHOICE (log entry 150): N, to which no rule gives a use here, is ignored. -/
def vtabLoadShape (v : VecOp) : VecShape :=
  { vecShape v true false false with d := false, inRows := 2, outRows := 0, immOk := true, bad := decide (1 < v.imm.toNat) }

/-- VTAB LOAD fills table slot IMM[0] (R143, R144). -/
def slotVtabLoad (v : VecOp) : Slot :=
  mkSlot .vec (vecPlan v (vtabLoadShape v))
    (fun s t =>
      let ws := unpackElems 32 256 (s.vecRow t v.a 0 ++ s.vecRow t v.a 1)
      ((s.updTile t (fun T => { T with
        tabs := ws.zipIdx.foldl (fun m w => smPut m (v.imm.toNat * 256 + w.2) (BitVec.ofNat 32 w.1)) T.tabs })).movePoison t
          [(State.markTab v.imm.toNat, [s.vecMark t v.a 0, s.vecMark t v.a 1])]).countEvent (pgTileCnt t) 0x09 0 2)

/-! ### VRED (R143, R165, R166) -/

/-- A list reduced from its first element on. -/
def reduceLanes (f : Nat → Nat → Conv) (y : VTy) : List Nat → Conv
  | [] => plainConv 0
  | x :: xs => xs.foldl (fun (acc : Conv) b =>
      let r := f acc.bits b
      { bits := r.bits, sat := acc.sat || r.sat, nan := acc.nan || r.nan })
    (if y.isNan x then y.round .nan else plainConv x)

/-- Sum of lanes: formed in FP32, each addition rounded, then rounded once to TYPE; an INT16 sum is exact and clamped. -/
def sumLanes (y : VTy) (l : List Nat) : Conv :=
  if y = .int16 then intLane true (l.foldl (fun (i : Int) p => i + sext 16 p) 0)
  else match l.map (fun p => pat32 (y.val p)) with
    | [] => plainConv 0
    | x :: xs => (y.round (n32 (xs.foldl add32 x))).orNan (l.any y.isNan)

/-- Shape of VRED: D a register; across lanes N is at most the lane count. -/
def vredShape (v : VecOp) (lanes : Bool) : VecShape :=
  { vecShape v true false false with dReg := true, bad := lanes && decide ((vty v.ty).lanes < v.n1.toNat + 1) }

/-- VRED of a reduction: elementwise over the rows of A, or across the lanes of each row. -/
def vredEff (v : VecOp) (lanes : Bool) (red : List Nat → Conv) (s : State) (t : Nat) : State :=
  let y := vty v.ty
  let rows := (List.range (v.n1.toNat + 1)).map (fun j => y.lanesOf (s.vecRow t v.a j))
  let out := if lanes then rows.map red ++ List.replicate (y.lanes - rows.length) (plainConv 0)
    else (List.range y.lanes).map (fun k => red (rows.map (fun r => r.getD k 0)))
  s.vecWrite t v (vredShape v lanes) (fun _ => (List.range (v.n1.toNat + 1)).map (s.vecMark t v.a)) [VecRow.of y out]

/-- VRED SUM. -/
def slotVredSum (v : VecOp) (lanes : Bool) : Slot :=
  mkSlot .vec (vecPlan v (vredShape v lanes)) (vredEff v lanes (sumLanes (vty v.ty)))
/-- VRED MAX. -/
def slotVredMax (v : VecOp) (lanes : Bool) : Slot :=
  mkSlot .vec (vecPlan v (vredShape v lanes)) (vredEff v lanes (reduceLanes (maxLane (vty v.ty)) (vty v.ty)))
/-- VRED MIN. -/
def slotVredMin (v : VecOp) (lanes : Bool) : Slot :=
  mkSlot .vec (vecPlan v (vredShape v lanes)) (vredEff v lanes (reduceLanes (minLane (vty v.ty)) (vty v.ty)))

/-! ### VCVT (R143, R161) -/

/-- Element width of a VCVT code. -/
def cvtBits (c : Nat) : Nat :=
  match ofmtOf c with
  | some o => o.bits
  | none => 32

/-- Shape of VCVT: N destination rows; a widening by r reads N/r rows, a narrowing by f reads f·N. -/
def vcvtShape (v : VecOp) (src dst : BitVec 4) : VecShape :=
  let n := v.n1.toNat + 1
  let a := cvtBits src.toNat
  let b := cvtBits dst.toNat
  { vecShape v true false false with
    inRows := if a ≤ b then (n + b / a - 1) / (b / a) else n * (a / b)
    strict := true
    satOk := dst.toNat = 4 || dst.toNat = 5
    bad := vty v.ty ≠ .bf16 || decide (9 < src.toNat) || decide (9 < dst.toNat) }

/-- One converted element. A conversion to a wider or equal format of the same kind is exact; a NaN sets ST.NAN. -/
def cvtElem (src dst : Nat) (satf : Bool) (p : Nat) : Conv :=
  match ofmtOf src, ofmtOf dst with
  | some a, some b => b.fromVec satf (a.decode p)
  | _, _ => plainConv p

/-- VCVT. -/
def vcvtEff (v : VecOp) (src dst : BitVec 4) (s : State) (t : Nat) : State :=
  let a := cvtBits src.toNat
  let b := cvtBits dst.toNat
  let row := fun j => unpackElems a (4096 / a) (s.vecRow t v.a j)
  let out := (List.range (v.n1.toNat + 1)).map (fun j =>
    let es := if a ≤ b then
        let r := b / a
        ((row (j / r)).drop (j % r * (4096 / b))).take (4096 / b)
      else (List.range (a / b)).flatMap (fun k => row (j * (a / b) + k))
    let cs := es.map (cvtElem src.toNat dst.toNat v.satf)
    ({ bytes := packElems b (cs.map (·.bits)), sat := cs.any (·.sat), nan := cs.any (·.nan) } : VecRow))
  s.vecWrite t v (vcvtShape v src dst)
    (fun j => if a ≤ b then [s.vecMark t v.a (j / (b / a))] else (List.range (a / b)).map (fun k => s.vecMark t v.a (j * (a / b) + k))) out

/-- VCVT (R143). -/
def slotVcvt (v : VecOp) (src dst : BitVec 4) : Slot :=
  mkSlot .vec (vecPlan v (vcvtShape v src dst)) (vcvtEff v src dst)

/-! ### VXPOSE (R143) -/

/-- Shape of VXPOSE: N a multiple of 16, no overlap. -/
def vxposeShape (v : VecOp) : VecShape := { vecShape v true false false with strict := true, bad := (v.n1.toNat + 1) % 16 ≠ 0 }

/-- VXPOSE: in each group of 16 rows and block of 16 lanes, output row i lane j takes input row j lane i. -/
def vxposeEff (v : VecOp) (s : State) (t : Nat) : State :=
  let y := vty v.ty
  let rows := (List.range (v.n1.toNat + 1)).map (fun j => y.lanesOf (s.vecRow t v.a j))
  s.vecWrite t v (vxposeShape v) (fun i => (List.range 16).map (fun j => s.vecMark t v.a (i / 16 * 16 + j))) ((List.range (v.n1.toNat + 1)).map (fun i =>
    VecRow.of y ((List.range y.lanes).map (fun k => movLane y ((rows.getD (i / 16 * 16 + k % 16) []).getD (k / 16 * 16 + i % 16) 0)))))

/-- VXPOSE (R143). -/
def slotVxpose (v : VecOp) : Slot :=
  mkSlot .vec (vecPlan v (vxposeShape v)) (vxposeEff v)

/-! ### VMERGE (R145, R169) -/

/-- Shape of VMERGE: FP32, N at most 128, D an even register; two rows per partial. -/
def vmergeShape (v : VecOp) : VecShape :=
  { vecShape v true false false with
    dReg := true, inRows := 2 * (v.n1.toNat + 1), strict := true
    bad := vty v.ty ≠ .fp32 || decide (128 < v.n1.toNat + 1) || v.d.toNat % 2 = 1 }

/-- −infinity in FP32. -/
def negInf32 : Nat := 0xFF800000

/-- The factor 2^(x − mn), exactly 0 for x = −infinity (R169). -/
def mergeFactor (x mn : Nat) : Nat := if x = negInf32 then 0 else exp2Pat (sub32 x mn)

/-- One partial's term: a partial with m = −infinity contributes nothing (R145). -/
def mergeTerm (mj x f : Nat) : Nat := if mj = negInf32 then 0 else mul32 x f

/-- Running state m, s, o after one partial (R145). A partial with m = −infinity leaves it as it is; beside a running m of −infinity the factors are 0 (R169). -/
def mergeStep (a : Nat × Nat × List Nat) (oj : List Nat) (mj sj : Nat) : Nat × Nat × List Nat :=
  if mj = negInf32 && a.1 ≠ negInf32 then a else
  let mn := (maxLane .fp32 a.1 mj).bits
  let f := mergeFactor a.1 mn
  let g := mergeFactor mj mn
  (mn, add32 (mul32 a.2.1 f) (mergeTerm mj sj g), (a.2.2.zip oj).map (fun p => add32 (mul32 p.1 f) (mergeTerm mj p.2 g)))

/-- VMERGE. -/
def vmergeEff (v : VecOp) (init final : Bool) (s : State) (t : Nat) : State :=
  let T := s.tile t
  let lanes := fun bs => VTy.lanesOf .fp32 bs
  let st0 := lanes (T.vreg (v.d.toNat + 1))
  let start : Nat × Nat × List Nat := if init then (negInf32, 0, List.replicate 128 0) else (st0.getD 0 0, st0.getD 1 0, lanes (T.vreg v.d.toNat))
  let parts := (List.range (v.n1.toNat + 1)).map (fun j => (lanes (s.vecRow t v.a (2 * j)), lanes (s.vecRow t v.a (2 * j + 1))))
  let r := parts.foldl (fun a p => mergeStep a p.1 (p.2.getD 0 0) (p.2.getD 1 0)) start
  let o := if final then (if (n32 r.2.1).isZero then List.replicate 128 0 else r.2.2.map (fun x => div32 x r.2.1)) else r.2.2
  let nan := fun l => l.any (fun (x : Nat) => (n32 x).isNan)
  let flag := nan (start.1 :: start.2.1 :: start.2.2) || parts.any (fun p => nan p.1 || nan (p.2.take 2)) || nan (r.1 :: r.2.1 :: o)
  let reads := (if init then [] else [State.markVreg v.d.toNat, State.markVreg (v.d.toNat + 1)])
    ++ (if vecReg v.a then [State.markVreg v.a.toNat] else (List.range (2 * (v.n1.toNat + 1))).map (fun j => s.absRow t (T.vecFirst v.a + j)))
  let s1 := s.updTile t (fun T =>
    let T1 := (T.setVreg v.d.toNat (VTy.rowOf .fp32 o)).setVreg (v.d.toNat + 1) (VTy.rowOf .fp32 (r.1 :: r.2.1 :: List.replicate 126 0))
    { T1 with st := stArith T1.st false flag })
  s1.movePoison t [(State.markVreg v.d.toNat, reads), (State.markVreg (v.d.toNat + 1), reads)]

/-- VMERGE (R145). -/
def slotVmerge (v : VecOp) (init : Bool) (final : Bool) : Slot :=
  mkSlot .vec (vecPlan v (vmergeShape v)) (vmergeEff v init final)

/-! ### VPOOL (R188–R191) -/

/-- Fetches of the window of position `p`, kernel rows then columns (R188). -/
def poolFetches (w : Window) (ew p : Nat) : List Fetch :=
  (List.range w.kh).flatMap (fun kr => (List.range w.kw).map (fun kc => w.fetch ew p kr kc))

/-- Rows of the input plane that the whole instruction reads. -/
def poolRows (w : Window) (ew : Nat) : List Nat :=
  (List.range w.p).flatMap (fun p => (poolFetches w ew p).filterMap (fun f => match f with
    | .real r _ => some r
    | _ => none))

/-- Shape of VPOOL: the read rows are added by its own plan. -/
def vpoolShape (v : VecOp) : VecShape := { vecShape v true false false with strict := true }

/-- What VPOOL needs (R143, R177, R188). Its source range is the block of rows that it reads. -/
def vpoolPlan (v : VecOp) (s : State) (t : Nat) : SlotPlan :=
  let T := s.tile t
  let y := vty v.ty
  let w := T.window v.b.toNat
  let rows := poolRows w y.bits
  let lo := rows.foldl min 2048
  let hi := rows.foldl max 0
  let f := T.vecFirst v.a
  let g := T.vecFirst v.d
  { SlotPlan.free with
    field := v.bs || v.bi || v.satf || v.imm ≠ 0 || decide (24 < v.b.toNat) || v.c.toNat ≠ 31 || !vecStore v.a || !vecStore v.d
      || w.bad y.bits [6] || w.slab ≠ 0 || w.tapH ≠ 0 || w.tapW ≠ 0 || w.dwise || w.zf || w.p ≠ v.n1.toNat + 1
      || (rows ≠ [] && decide (f + lo < g + w.p) && decide (g < f + hi + 1))
    span := rows.any (fun r => decide (w.span ≤ r))
    sync := true
    ranges := (if rows = [] then [] else [rdRows (f + lo) (hi + 1 - lo)]) ++ [wrRows g (v.n1.toNat + 1)] }

/-- AVG of a lane (R190): the sum in window order, divided by the divisor. -/
def avgLane (y : VTy) (l : List Nat) (n : Nat) : Conv :=
  if y = .int16 then
    let sum := l.foldl (fun (i : Int) p => i + sext 16 p) 0
    let q := sum.natAbs / n
    let r := sum.natAbs % n
    let k := if n < 2 * r ∨ (2 * r = n ∧ q % 2 = 1) then q + 1 else q
    plainConv (twos 16 (if sum < 0 then -(k : Int) else k))
  else match l.map (fun p => pat32 (y.val p)) with
    | [] => plainConv 0
    | x :: xs => (y.round (n32 (div32 (xs.foldl add32 x) (fFp32.round (Num.ofInt n 0))))).orNan (l.any y.isNan)

/-- Output row of one position (R189–R191); none beyond the extent. -/
def poolRow (v : VecOp) (avg countPad : Bool) (w : Window) (p : Nat) (row : Nat → List Nat) : Option VecRow :=
  let y := vty v.ty
  let fs := poolFetches w y.bits p
  if fs.any (· = Fetch.beyond) then none
  else
    let real := fs.any (fun f => f ≠ Fetch.pad)
    if !real then some (VecRow.of y (List.replicate y.lanes (movLane y (if avg && countPad then w.padv else 0))))
    else
      let elems := fs.filterMap (fun f => match f with
        | .real r _ => some (some (row r))
        | _ => if avg && countPad then some none else none)
      some (VecRow.of y ((List.range y.lanes).map (fun k =>
        let l := elems.map (fun e => match e with
          | some r => r.getD k 0
          | none => w.padv)
        if avg then avgLane y l l.length else reduceLanes (maxLane y) y l)))

/-- VPOOL (R188–R191): an empty descriptor sets CONV_EMPTY. -/
def vpoolEff (v : VecOp) (avg countPad : Bool) (s : State) (t : Nat) : State :=
  let T := s.tile t
  let y := vty v.ty
  let w := T.window v.b.toNat
  if w.empty then s.updTile t (fun T => { T with st := stPut T.st stConvEmpty true })
  else
    let a0 := s.absRow t (T.vecFirst v.a)
    let d0 := s.absRow t (T.vecFirst v.d)
    let row := fun r => y.lanesOf (s.rowBytes t (a0 + r))
    let out := (List.range w.p).filterMap (fun p => (poolRow v avg countPad w p row).map (fun r => (p, r)))
    let s1 := out.foldl (fun s o => s.writeRow t (d0 + o.1) o.2.bytes) s
    let s2 := s1.updTile t (fun T => { T with st := stArith T.st (out.any (·.2.sat)) (out.any (·.2.nan)) })
    (s2.movePoison t (out.map (fun o => (d0 + o.1, (poolFetches w y.bits o.1).filterMap (fun f => match f with
      | .real r _ => some (a0 + r)
      | _ => none))))).countEvent
      (pgTileCnt t) 0x09 0 (max (poolRows w y.bits).length out.length)

/-- VPOOL MAX (R189). -/
def slotVpoolMax (v : VecOp) (countPad : Bool) : Slot :=
  mkSlot .vec (vpoolPlan v) (vpoolEff v false countPad)
/-- VPOOL AVG (R190). -/
def slotVpoolAvg (v : VecOp) (countPad : Bool) : Slot :=
  mkSlot .vec (vpoolPlan v) (vpoolEff v true countPad)

end Sys2Proof.Machine
end

