-- ==== Sys2Proof/Machine/Bundle.lean ====
section
/-! DEFINITION. Slot instructions as commands: the slot that each one stands for, the bundle that they make up together with the words of the
instruction buffer (R59, R80, R107), and its issue. -/

namespace Sys2Proof.Machine

open Sys2Proof

/-- The slot that an instruction stands for. -/
def slotOf (ins : Instr) : Option (Issue × Slot) :=
  match ins with
  | .loop i creg cimm skip => some (i, slotLoop creg cimm skip)
  | .endloop i => some (i, slotEndloop)
  | .br i pop off => some (i, slotBr pop off)
  | .brc i reg cond bit pop off => some (i, slotBrc reg cond bit pop off)
  | .waitEvent i imm => some (i, slotWaitEvent imm)
  | .waitDock i dock rf sreg imm => some (i, slotWaitDock dock rf sreg imm)
  | .waitTime i sreg => some (i, slotWaitTime sreg)
  | .waitTags i imm => some (i, slotWaitTags imm)
  | .signalEvent i rf sreg tile num => some (i, slotSignalEvent rf sreg tile num)
  | .signalDockOpen i num => some (i, slotSignalDockOpen num)
  | .signalDockClose i num => some (i, slotSignalDockClose num)
  | .sets i dst imm => some (i, slotSets dst imm)
  | .adds i dst srca srcb imm => some (i, slotAdds dst srca srcb imm)
  | .roster i sb table n1 chunk skip => some (i, slotRoster sb table n1 chunk skip)
  | .budget i sd thresh => some (i, slotBudget sd thresh)
  | .fence i mask => some (i, slotFence mask)
  | .mark i value => some (i, slotMark value)
  | .endWaybill i code => some (i, slotEndWaybill code)
  | .ldrow i tag an dst n1 sf ss off => some (i, slotLdrow tag an dst n1 sf ss off)
  | .strow i tag an src n1 sf ss off => some (i, slotStrow tag an src n1 sf ss off)
  | .ldledger i tag an dst n1 sd off => some (i, slotLdledger tag an dst n1 sd off)
  | .dockwr i tag src n1 seatf seat tile dock doff => some (i, slotDockwr tag src n1 seatf seat tile dock doff)
  | .platcpy i tag dan san lreg => some (i, slotPlatcpy tag dan san lreg)
  | .gather i tag an dst idx n1 sm ss => some (i, slotGather tag an dst idx n1 sm ss)
  | .ldw i tag mode sc n1 src => some (i, slotLdw tag mode sc n1 src)
  | .commit i tag an se sn sd seatf seat off => some (i, slotCommit tag an se sn sd seatf seat off)
  | .mma i act acc m1 fmt scl => some (i, slotMma act acc m1 fmt scl)
  | .mmaz i act acc m1 fmt scl => some (i, slotMmaz act acc m1 fmt scl)
  | .conv i act acc sd fmt scl => some (i, slotConv act acc sd fmt scl)
  | .dconv i act acc sd fmt scl g => some (i, slotDconv act acc sd fmt scl g)
  | .swapw i => some (i, slotSwapw)
  | .accrd i acc m1 dst ofmt epi sr relu => some (i, slotAccrd acc m1 dst ofmt epi sr relu)
  | .vopMov i v => some (i, slotVopMov v)
  | .vopAdd i v => some (i, slotVopAdd v)
  | .vopSub i v => some (i, slotVopSub v)
  | .vopMul i v => some (i, slotVopMul v)
  | .vopMax i v => some (i, slotVopMax v)
  | .vopMin i v => some (i, slotVopMin v)
  | .vopAbs i v => some (i, slotVopAbs v)
  | .vopNeg i v => some (i, slotVopNeg v)
  | .vopRelu i v => some (i, slotVopRelu v)
  | .vopRcp i v => some (i, slotVopRcp v)
  | .vopRsqrt i v => some (i, slotVopRsqrt v)
  | .vopAnd i v => some (i, slotVopAnd v)
  | .vopOr i v => some (i, slotVopOr v)
  | .vopXor i v => some (i, slotVopXor v)
  | .vopShl i v => some (i, slotVopShl v)
  | .vopShr i v => some (i, slotVopShr v)
  | .vopZero i v => some (i, slotVopZero v)
  | .vfma i v => some (i, slotVfma v)
  | .vsel i v => some (i, slotVsel v)
  | .vcmpEq i v => some (i, slotVcmpEq v)
  | .vcmpNe i v => some (i, slotVcmpNe v)
  | .vcmpLt i v => some (i, slotVcmpLt v)
  | .vcmpLe i v => some (i, slotVcmpLe v)
  | .vcmpGt i v => some (i, slotVcmpGt v)
  | .vcmpGe i v => some (i, slotVcmpGe v)
  | .vexp2 i v => some (i, slotVexp2 v)
  | .vtabEval i v => some (i, slotVtabEval v)
  | .vtabLoad i v => some (i, slotVtabLoad v)
  | .vredSum i v lanes => some (i, slotVredSum v lanes)
  | .vredMax i v lanes => some (i, slotVredMax v lanes)
  | .vredMin i v lanes => some (i, slotVredMin v lanes)
  | .vcvt i v src dst => some (i, slotVcvt v src dst)
  | .vxpose i v => some (i, slotVxpose v)
  | .vmerge i v init final => some (i, slotVmerge v init final)
  | .vpoolMax i v countPad => some (i, slotVpoolMax v countPad)
  | .vpoolAvg i v countPad => some (i, slotVpoolAvg v countPad)
  | _ => none

/-- A slot whose word is no instruction of its slot (R109). -/
def illegalOpSlot (pos : SlotPos) : Slot := mkSlot pos (fun _ _ => { SlotPlan.free with op := true }) (fun s _ => s)
/-- A slot whose word has a set reserved bit or an unlisted field encoding (R109). -/
def illegalFieldSlot (pos : SlotPos) : Slot := mkSlot pos (fun _ _ => { SlotPlan.free with field := true }) (fun s _ => s)

namespace State

/-- The word of a slot of the bundle at the tile's bundle address (R80). -/
def slotWord (s : State) (t : Nat) (pos : SlotPos) : BitVec 64 :=
  let a := 32 * (s.ibufBase t (s.berth t) + (s.tile t).pc) + 8 * slotIndex pos
  BitVec.ofNat 64 (leNat ((List.range 8).map (fun k => smGet (s.tile t).ibuf 0 (a + k))))

/-- The slot that the instruction buffer holds at a position: none where it holds a NOP. -/
def slotFetched (s : State) (i : Issue) (pos : SlotPos) : Option Slot :=
  match decodeSlot i pos (s.slotWord i.tile pos) with
  | .nop => none
  | .illegalOp => some (illegalOpSlot pos)
  | .illegalField => some (illegalFieldSlot pos)
  | .op ins => (slotOf ins).map (·.2)

/-- The slots of the bundle that issues, in slot order: the instructions handed over, and at the other positions what the instruction buffer holds. -/
def bundleSlots (s : State) (i : Issue) (given : List Instr) : List Slot :=
  let mine := given.filterMap (fun x => (slotOf x).map (·.2))
  [SlotPos.ctl, .mov, .mat, .vec].filterMap (fun pos => match mine.find? (·.pos = pos) with
    | some x => some x
    | none => s.slotFetched i pos)

/-- The sequencer passes bundles of four NOPs, which do nothing (R107), in a pair with its follower, and stands still in a gated cycle (R90); `fuel` bounds them. -/
def passNops (i : Issue) : Nat → State → State
  | 0, s => s
  | fuel + 1, s =>
    if s.tileIssues i.tile && !s.gated i.tile && (s.bundleSlots i []).isEmpty then
      let s1 := s.runNext [] [] i.tile
      passNops i fuel (if (s.tile i.tile).coupled && !(s1.tile (i.tile + 1)).stopped then s1.runNext [] [] (i.tile + 1) else s1)
    else s

/-- Issues the bundle whose last slot has been handed over. -/
def issueBundle (s : State) (i : Issue) (ins : Instr) : State :=
  let s1 := passNops i i.nops s
  if s1.tileIssues i.tile then s.issueSlots s1 i (s1.bundleSlots i ((s1.tile i.tile).bundle ++ [ins])) else s1

end State

/-- Hands over one slot of a bundle to a tile: the last one issues the bundle (log entry 13). -/
def handSlot (i : Issue) (ins : Instr) (s : State) : Res :=
  whenLive s (fun s =>
    if !s.tileIssues i.tile || s.follows i.tile then s
    else if i.last then s.issueBundle i ins
    else s.updTile i.tile (fun T => { T with bundle := T.bundle ++ [ins] }))

/-! ### The CTL slot (R117–R122) -/

/-- LOOP (R118). -/
def execLoop (i : Issue) (creg : BitVec 6) (cimm : BitVec 20) (skip : BitVec 16) (s : State) : Res := handSlot i (.loop i creg cimm skip) s
/-- ENDLOOP (R118): with no open level it is LOOP_DEPTH (R109). -/
def execEndloop (i : Issue) (s : State) : Res := handSlot i (.endloop i) s
/-- BR (R118). -/
def execBr (i : Issue) (pop : BitVec 2) (off : BitVec 16) (s : State) : Res := handSlot i (.br i pop off) s
/-- BRC (R118). -/
def execBrc (i : Issue) (reg : BitVec 6) (cond : BitVec 3) (bit : BitVec 6) (pop : BitVec 2) (off : BitVec 16) (s : State) : Res := handSlot i (.brc i reg cond bit pop off) s
/-- WAIT EVENT (R120): held until every named bit is set; the bits are cleared at issue. -/
def execWaitEvent (i : Issue) (imm : Word) (s : State) : Res := handSlot i (.waitEvent i imm) s
/-- WAIT DOCK (R120): held until the dock's arrival count reaches the operand. -/
def execWaitDock (i : Issue) (dock : BitVec 4) (rf : Bool) (sreg : BitVec 5) (imm : Word) (s : State) : Res := handSlot i (.waitDock i dock rf sreg imm) s
/-- WAIT TIME (R120): held until station time reaches the value in an even register pair. -/
def execWaitTime (i : Issue) (sreg : BitVec 5) (s : State) : Res := handSlot i (.waitTime i sreg) s
/-- WAIT TAGS (R120): held while a move with a named tag is queued or in flight. -/
def execWaitTags (i : Issue) (imm : Word) (s : State) : Res := handSlot i (.waitTags i imm) s
/-- SIGNAL EVENT (R121). -/
def execSignalEvent (i : Issue) (rf : Bool) (sreg : BitVec 5) (tile : BitVec 6) (num : BitVec 4) (s : State) : Res := handSlot i (.signalEvent i rf sreg tile num) s
/-- SIGNAL DOCK OPEN (R122): a refused open sets DOCK_OPFAIL and leaves the dock. -/
def execSignalDockOpen (i : Issue) (num : BitVec 4) (s : State) : Res := handSlot i (.signalDockOpen i num) s
/-- SIGNAL DOCK CLOSE (R122): a close of a dock that is not OPEN does nothing. -/
def execSignalDockClose (i : Issue) (num : BitVec 4) (s : State) : Res := handSlot i (.signalDockClose i num) s
/-- SETS writes an immediate (R116, R118). -/
def execSets (i : Issue) (dst : BitVec 6) (imm : Addr) (s : State) : Res := handSlot i (.sets i dst imm) s
/-- ADDS writes the sum of two registers and a signed immediate (R111, R118). -/
def execAdds (i : Issue) (dst : BitVec 6) (srca : BitVec 6) (srcb : BitVec 6) (imm : Word) (s : State) : Res := handSlot i (.adds i dst srca srcb imm) s
/-- ROSTER (R118, R119): SB 0–29, CHUNK 1–8,191, a NOP in the VEC slot, a free loop level. -/
def execRoster (i : Issue) (sb : BitVec 5) (table : RowOp) (n1 : BitVec 8) (chunk : BitVec 13) (skip : BitVec 16) (s : State) : Res := handSlot i (.roster i sb table n1 chunk skip) s
/-- BUDGET (R118). -/
def execBudget (i : Issue) (sd : BitVec 5) (thresh : Word) (s : State) : Res := handSlot i (.budget i sd thresh) s
/-- FENCE (R118): MAT and VEC instructions have performed their writes when the next command comes; only moves can hold it. -/
def execFence (i : Issue) (mask : BitVec 3) (s : State) : Res := handSlot i (.fence i mask) s
/-- MARK (R118, R470): value, bundle address in the instruction buffer, berth and station time; one MARK event. -/
def execMark (i : Issue) (value : BitVec 16) (s : State) : Res := handSlot i (.mark i value) s
/-- END (R118): held until every move has completed; then the tile has ended with user code CODE. -/
def execEndWaybill (i : Issue) (code : BitVec 16) (s : State) : Res := handSlot i (.endWaybill i code) s
/-! ### The MOV slot (R123–R131) -/

/-- LDROW (R127). -/
def execLdrow (i : Issue) (tag : BitVec 4) (an : BitVec 4) (dst : RowOp) (n1 : BitVec 8) (sf : Bool) (ss : BitVec 5) (off : BitVec 20) (s : State) : Res := handSlot i (.ldrow i tag an dst n1 sf ss off) s
/-- STROW (R127); a row may go to the tile's own Interlocking request slot (R266). -/
def execStrow (i : Issue) (tag : BitVec 4) (an : BitVec 4) (src : RowOp) (n1 : BitVec 8) (sf : Bool) (ss : BitVec 5) (off : BitVec 20) (s : State) : Res := handSlot i (.strow i tag an src n1 sf ss off) s
/-- LDLEDGER (R128). -/
def execLdledger (i : Issue) (tag : BitVec 4) (an : BitVec 4) (dst : RowOp) (n1 : BitVec 8) (sd : BitVec 5) (off : BitVec 20) (s : State) : Res := handSlot i (.ldledger i tag an dst n1 sd off) s
/-- DOCKWR (R127). -/
def execDockwr (i : Issue) (tag : BitVec 4) (src : RowOp) (n1 : BitVec 3) (seatf : Bool) (seat : BitVec 8) (tile : BitVec 6) (dock : BitVec 4) (doff : BitVec 11) (s : State) : Res := handSlot i (.dockwr i tag src n1 seatf seat tile dock doff) s
/-- PLATCPY (R127). -/
def execPlatcpy (i : Issue) (tag : BitVec 4) (dan : BitVec 4) (san : BitVec 4) (lreg : BitVec 5) (s : State) : Res := handSlot i (.platcpy i tag dan san lreg) s
/-- GATHER (R129). -/
def execGather (i : Issue) (tag : BitVec 4) (an : BitVec 4) (dst : RowOp) (idx : RowOp) (n1 : BitVec 7) (sm : Bool) (ss : BitVec 5) (s : State) : Res := handSlot i (.gather i tag an dst idx n1 sm ss) s
/-- LDW (R130). -/
def execLdw (i : Issue) (tag : BitVec 4) (mode : BitVec 2) (sc : Bool) (n1 : BitVec 6) (src : LdwSrc) (s : State) : Res := handSlot i (.ldw i tag mode sc n1 src) s
/-- COMMIT (R131). -/
def execCommit (i : Issue) (tag : BitVec 4) (an : BitVec 4) (se : BitVec 5) (sn : BitVec 5) (sd : BitVec 5) (seatf : Bool) (seat : BitVec 8) (off : BitVec 20) (s : State) : Res := handSlot i (.commit i tag an se sn sd seatf seat off) s
/-! ### The MAT slot (R134–R139) -/

/-- MMA (R136). -/
def execMma (i : Issue) (act : RowOp) (acc : AccOp) (m1 : BitVec 8) (fmt : BitVec 4) (scl : RowOp) (s : State) : Res := handSlot i (.mma i act acc m1 fmt scl) s
/-- MMAZ (R136). -/
def execMmaz (i : Issue) (act : RowOp) (acc : AccOp) (m1 : BitVec 8) (fmt : BitVec 4) (scl : RowOp) (s : State) : Res := handSlot i (.mmaz i act acc m1 fmt scl) s
/-- CONV (R137). -/
def execConv (i : Issue) (act : RowOp) (acc : AccOp) (sd : BitVec 5) (fmt : BitVec 4) (scl : RowOp) (s : State) : Res := handSlot i (.conv i act acc sd fmt scl) s
/-- DCONV (R137, R183): G names 2 to 32 blocks. -/
def execDconv (i : Issue) (act : RowOp) (acc : AccOp) (sd : BitVec 5) (fmt : BitVec 4) (scl : RowOp) (g : BitVec 3) (s : State) : Res := handSlot i (.dconv i act acc sd fmt scl g) s
/-- SWAPW exchanges the weight buffers once no LDW is in flight (R63). -/
def execSwapw (i : Issue) (s : State) : Res := handSlot i (.swapw i) s
/-- ACCRD (R138). -/
def execAccrd (i : Issue) (acc : AccOp) (m1 : BitVec 8) (dst : RowOp) (ofmt : BitVec 4) (epi : RowOp) (sr : Bool) (relu : Bool) (s : State) : Res := handSlot i (.accrd i acc m1 dst ofmt epi sr relu) s
/-! ### The VEC slot (R140–R150) -/

/-- VOP MOV (R143). -/
def execVopMov (i : Issue) (v : VecOp) (s : State) : Res := handSlot i (.vopMov i v) s
/-- VOP ADD (R143, R165, R167). -/
def execVopAdd (i : Issue) (v : VecOp) (s : State) : Res := handSlot i (.vopAdd i v) s
/-- VOP SUB. -/
def execVopSub (i : Issue) (v : VecOp) (s : State) : Res := handSlot i (.vopSub i v) s
/-- VOP MUL. -/
def execVopMul (i : Issue) (v : VecOp) (s : State) : Res := handSlot i (.vopMul i v) s
/-- VOP MAX (R166). -/
def execVopMax (i : Issue) (v : VecOp) (s : State) : Res := handSlot i (.vopMax i v) s
/-- VOP MIN (R166). -/
def execVopMin (i : Issue) (v : VecOp) (s : State) : Res := handSlot i (.vopMin i v) s
/-- VOP ABS. -/
def execVopAbs (i : Issue) (v : VecOp) (s : State) : Res := handSlot i (.vopAbs i v) s
/-- VOP NEG. -/
def execVopNeg (i : Issue) (v : VecOp) (s : State) : Res := handSlot i (.vopNeg i v) s
/-- VOP RELU. -/
def execVopRelu (i : Issue) (v : VecOp) (s : State) : Res := handSlot i (.vopRelu i v) s
/-- VOP RCP, for floating-point types (R166, R168). -/
def execVopRcp (i : Issue) (v : VecOp) (s : State) : Res := handSlot i (.vopRcp i v) s
/-- VOP RSQRT, for floating-point types (R166, R168). -/
def execVopRsqrt (i : Issue) (v : VecOp) (s : State) : Res := handSlot i (.vopRsqrt i v) s
/-- VOP AND, for INT16. -/
def execVopAnd (i : Issue) (v : VecOp) (s : State) : Res := handSlot i (.vopAnd i v) s
/-- VOP OR, for INT16. -/
def execVopOr (i : Issue) (v : VecOp) (s : State) : Res := handSlot i (.vopOr i v) s
/-- VOP XOR, for INT16. -/
def execVopXor (i : Issue) (v : VecOp) (s : State) : Res := handSlot i (.vopXor i v) s
/-- VOP SHL, for INT16: the count is B[3:0] (R167). -/
def execVopShl (i : Issue) (v : VecOp) (s : State) : Res := handSlot i (.vopShl i v) s
/-- VOP SHR, for INT16, arithmetic (R167). -/
def execVopShr (i : Issue) (v : VecOp) (s : State) : Res := handSlot i (.vopShr i v) s
/-- VOP ZERO. -/
def execVopZero (i : Issue) (v : VecOp) (s : State) : Res := handSlot i (.vopZero i v) s
/-- VFMA (R143). -/
def execVfma (i : Issue) (v : VecOp) (s : State) : Res := handSlot i (.vfma i v) s
/-- VSEL passes the pattern of A where C has a bit set, of B elsewhere (R143); a NaN that it passes sets ST.NAN (R166). -/
def execVsel (i : Issue) (v : VecOp) (s : State) : Res := handSlot i (.vsel i v) s
/-- VCMP EQ. -/
def execVcmpEq (i : Issue) (v : VecOp) (s : State) : Res := handSlot i (.vcmpEq i v) s
/-- VCMP NE: true with a NaN operand. -/
def execVcmpNe (i : Issue) (v : VecOp) (s : State) : Res := handSlot i (.vcmpNe i v) s
/-- VCMP LT. -/
def execVcmpLt (i : Issue) (v : VecOp) (s : State) : Res := handSlot i (.vcmpLt i v) s
/-- VCMP LE. -/
def execVcmpLe (i : Issue) (v : VecOp) (s : State) : Res := handSlot i (.vcmpLe i v) s
/-- VCMP GT. -/
def execVcmpGt (i : Issue) (v : VecOp) (s : State) : Res := handSlot i (.vcmpGt i v) s
/-- VCMP GE. -/
def execVcmpGe (i : Issue) (v : VecOp) (s : State) : Res := handSlot i (.vcmpGe i v) s
/-- VEXP2: in FP32, rounded to TYPE (R143, R168); INT16 is ILLEGAL_FIELD. -/
def execVexp2 (i : Issue) (v : VecOp) (s : State) : Res := handSlot i (.vexp2 i v) s
/-- VTAB EVAL (R144, R170): table IMM[0], rounded once to TYPE. -/
def execVtabEval (i : Issue) (v : VecOp) (s : State) : Res := handSlot i (.vtabEval i v) s
/-- VTAB LOAD fills table slot IMM[0] (R143, R144). -/
def execVtabLoad (i : Issue) (v : VecOp) (s : State) : Res := handSlot i (.vtabLoad i v) s
/-- VRED SUM. -/
def execVredSum (i : Issue) (v : VecOp) (lanes : Bool) (s : State) : Res := handSlot i (.vredSum i v lanes) s
/-- VRED MAX. -/
def execVredMax (i : Issue) (v : VecOp) (lanes : Bool) (s : State) : Res := handSlot i (.vredMax i v lanes) s
/-- VRED MIN. -/
def execVredMin (i : Issue) (v : VecOp) (lanes : Bool) (s : State) : Res := handSlot i (.vredMin i v lanes) s
/-- VCVT (R143). -/
def execVcvt (i : Issue) (v : VecOp) (src dst : BitVec 4) (s : State) : Res := handSlot i (.vcvt i v src dst) s
/-- VXPOSE (R143). -/
def execVxpose (i : Issue) (v : VecOp) (s : State) : Res := handSlot i (.vxpose i v) s
/-- VMERGE (R145). -/
def execVmerge (i : Issue) (v : VecOp) (init : Bool) (final : Bool) (s : State) : Res := handSlot i (.vmerge i v init final) s
/-- VPOOL MAX (R189). -/
def execVpoolMax (i : Issue) (v : VecOp) (countPad : Bool) (s : State) : Res := handSlot i (.vpoolMax i v countPad) s
/-- VPOOL AVG (R190). -/
def execVpoolAvg (i : Issue) (v : VecOp) (countPad : Bool) (s : State) : Res := handSlot i (.vpoolAvg i v countPad) s

end Sys2Proof.Machine
end

