-- ==== Sys2Proof/Machine/Thermal.lean ====
section
/-! DEFINITION. Temperature, power and coolant control (R303–R306, R442–R458). Diode, sensor and NTC readings come in 1/8 °C, power in
W, voltages in mV. -/

namespace Sys2Proof.Machine

open Sys2Proof

/-! ### Calibration (R468, R469) -/

namespace State

/-- CAL_FACT of a word, from the fuses. -/
def calFact (s : State) (page n : Nat) : Int := sext 16 (smGet s.fuses.calFact 0 (page + 0x40 + 4 * n)).toNat
/-- CAL_USER of a word. -/
def calUser (s : State) (page n : Nat) : Int := sext 16 (s.reg (page + 0x80 + 4 * n)).toNat
/-- The effective value: the sum, clamped to ± `lim`. -/
def calEff (s : State) (page n : Nat) (lim : Int) : Int := clampI (-lim) lim (s.calFact page n + s.calUser page n)
/-- Range of a calibration word (R469), in the word's unit. -/
def calLimit (b : Blk) (n : Nat) : Int :=
  match b with
  | .therm => 64
  | .cool => if n < 2 then 32 else 100
  | .pwr => if n = 0 then 20 else 10
  | _ => 0
/-- A clamp applies to some word of a block (R468). -/
def calClamped (s : State) (page : Nat) (b : Blk) (i : Nat) : Bool :=
  (List.range (blkCalWords b i)).any (fun n => s.calEff page n (calLimit b n) ≠ s.calFact page n + s.calUser page n)

/-! ### Dies' thermal records -/

/-- THERM page of a compute die, or of Hub A and B for 4 and 5. -/
def pgThermAt (d : Nat) : Nat := if d < 4 then pgTherm d else pgThermHub (d - 4)

/-- A die that has taken no sample. -/
def thermZero : DieTherm :=
  { called := 0, cool := 0, refCool := 0, apart := [], flagged := [], lost := [], allLost := false, samples := [], degraded := false,
    refreshX2 := false, hubHot := false }

def therm (s : State) (d : Nat) : DieTherm := smGet s.dram.therm thermZero d
def updTherm (s : State) (d : Nat) (f : DieTherm → DieTherm) : State :=
  { s with dram := { s.dram with therm := smPut s.dram.therm d (f (s.therm d)) } }

/-- The drive floor, 0 in depot service (R91, R105). -/
def driveFloor (s : State) : Nat := s.fld (pgTile 0 + 0x108) 12 8
/-- k at an index of the steps 0, 8, 12, 16, 20. -/
def kAt (i : Nat) : Nat := [0, 8, 12, 16, 20].getD i 20
/-- k of a band (R303). -/
def bandK (b : Nat) : Nat := [20, 20, 16, 12, 8, 0].getD b 0
/-- The floor band of a FLOOR (R305); without a floor every band applies. -/
def floorBand (f : Nat) : Nat := if f = 20 then 1 else if f = 16 then 2 else if f = 12 then 3 else if f = 8 then 4 else 5

/-- The band in force on a die (R305). -/
def heldBand (s : State) (d : Nat) : Nat :=
  let c := (s.therm d).called
  if c = 5 then 5 else min c (floorBand s.driveFloor)

/-- A die is in thermal-degraded state (R305, R445). -/
def degradedNow (s : State) (d : Nat) : Bool :=
  s.driveFloor ≠ 0 && (decide (floorBand s.driveFloor < (s.therm d).called) || decide (kAt s.power.kc < s.driveFloor))

/-- Issue allowance of a die (R303, R445). -/
def dieK (s : State) (d : Nat) : Nat :=
  let b := s.heldBand d
  if b = 5 then 0 else max s.driveFloor (min (bandK b) (kAt s.power.kc))

/-- Stack limit of a die: 0 none, 1 75 %, 2 50 %, 3 25 % (R303, R445). -/
def dieBw (s : State) (d : Nat) : Nat := if s.power.kc = 0 then 3 else [0, 0, 1, 2, 3, 3].getD (s.heldBand d) 3

/-- ARG of the THERMAL notices (R359). -/
def thermArg (s : State) (d band : Nat) : Nat := d + band * 256 + s.fld (pgThermAt d + 0x120) 7 0 * 65536

/-- A tile's issue allowance changes; the one before stays in force up to the next window boundary (R89). -/
def setIssueK (s : State) (t k : Nat) : State :=
  let a := pgTile t + 0x108
  let s1 := if (s.tile t).kWas.2 = s.now / 40 then s else s.updTile t (fun T => { T with kWas := (s.fld a 4 0, s.now / 40) })
  if s.fld a 4 0 = k then s else s1.setFld a 4 0 k

/-- Sets a die's allowance, stack limit and thermal-degraded state (R304, R305). -/
def throttleDie (s : State) (d : Nat) : State :=
  let p := pgDramc d + 0x104
  let now := s.degradedNow d
  let was := (s.therm d).degraded
  let s1 := forEach ((List.range 68).filter (fun t => dieOf t = d)) s (fun s t => s.setIssueK t (s.dieK d))
  let s2 := ((s1.setFld p 2 0 (s.heldBand d)).setFld p 5 4 (s.dieBw d)).setFld p 6 6 (b2n now)
  let s3 := s2.updTherm d (fun t => { t with degraded := now })
  if now && !was then
    (((s3.recordErr (pgDramc d) 0x4801).notice 4 0x4801 0 (s.thermArg d (s.heldBand d) + 2 ^ 24))).islandAct evThermal 0x4801
  else if !now && was then (s3.recordErr (pgDramc d) 0x4801).notice 4 0x4801 0 (s.thermArg d (s.heldBand d))
  else s3

/-- Every populated die takes its limits. -/
def throttle (s : State) : State := forEach s.sites s (fun s d => s.throttleDie d)

/-! ### Diodes and sensors (R446–R449) -/

/-- A reading in range (R447). -/
def tempOk (x : Int) : Bool := -400 ≤ x && x ≤ 1200
/-- An NTC reading in range: −45 to 130 °C (R487). -/
def ntcOk (x : Int) : Bool := -360 ≤ x && x ≤ 1040
/-- Whole degrees of a reading. -/
def degrees (x : Int) : Int := Int.fdiv x 8

/-- The reading of a hot spot (R447); a pair apart that is not yet flagged reads the higher. -/
def spotReading (flagged : Bool) (d0 d1 : Int) : Option Int :=
  match tempOk d0, tempOk d1 with
  | true, true => some (max d0 d1 + if flagged then 24 else 0)
  | true, false => some (d0 + 40)
  | false, true => some (d1 + 40)
  | false, false => none

/-- Hot spots of a die whose flag is set. -/
def flaggedSpots (s : State) (d : Nat) : List Nat := (s.therm d).flagged
/-- Hot spots of a die that are lost. -/
def lostSpots (s : State) (d : Nat) : List Nat := (s.therm d).lost

/-- One hot spot's sample: the flag, the register and its reading. -/
def sampleSpot (s : State) (d k : Nat) (raw : Int × Int) : State × Option Int :=
  let p := pgThermAt d
  let d0 := raw.1 + s.calEff p (2 * k) 64
  let d1 := raw.2 + s.calEff p (2 * k + 1) 64
  let T := s.therm d
  let both := tempOk d0 && tempOk d1
  let run := if both && decide (48 < (d0 - d1).natAbs) then smGet T.apart 0 k + 1 else 0
  let newFlag := decide (10 ≤ run) && !T.flagged.contains k
  let flagged := newFlag || T.flagged.contains k
  let r := spotReading flagged d0 d1
  let s1 := s.updTherm d (fun t => { t with
    apart := smPut t.apart k (min run 10)
    flagged := if newFlag then k :: t.flagged else t.flagged
    lost := if r.isNone then (if t.lost.contains k then t.lost else k :: t.lost) else t.lost.filter (· ≠ k) })
  let s2 := s1.setReg (p + 0x100 + 4 * k) (BitVec.ofNat 32 (twos 8 (degrees d0) + twos 8 (degrees d1) * 256 + b2n flagged * 2 ^ 16
    + b2n (!tempOk d0) * 2 ^ 17 + b2n (!tempOk d1) * 2 ^ 18 + b2n r.isNone * 2 ^ 19))
  (s2, r)

/-- Hot spots of a die, in order. -/
def spotsOf (d : Nat) : List Nat := List.range (if d < 4 then 8 else 4)

/-- The readings of all hot spots of a die, and the highest. -/
def readSpots (s : State) (d : Nat) (diodes : List (Int × Int)) : State × Option Int :=
  (spotsOf d).foldl (fun (acc : State × Option Int) k =>
    let x := acc.1.sampleSpot d k (diodes.getD k (1201, 1201))
    (x.1, match acc.2, x.2 with
      | some a, some b => some (max a b)
      | some a, none => some a
      | none, b => b)) (s, none)

/-- All hot spots of a die: the state and the controlling temperature, if any spot is left (R448). The sample's errors are recorded in ascending code, those
of one code by hot spot (R463). -/
def sampleSpots (s : State) (d : Nat) (diodes : List (Int × Int)) : State × Option Int :=
  let x := s.readSpots d diodes
  let p := pgThermAt d
  let s1 := forEach ((spotsOf d).filter (fun k => (x.1.flaggedSpots d).contains k && !(s.flaggedSpots d).contains k)) x.1 (fun s k => s.recordErr p 0x4803 k)
  (forEach ((spotsOf d).filter (fun k => (x.1.lostSpots d).contains k && !(s.lostSpots d).contains k)) s1 (fun s k => s.recordErr p 0x4804 k), x.2)

/-- The slope of R449 in 0.01 °C/s, from samples newest first. -/
def slopeSum (l : List Int) : Int := (l.take 50).foldl (· + ·) 0 - ((l.drop 250).take 50).foldl (· + ·) 0

/-- Difference of the means of R449 in 0.1 °C/s, from samples newest first. -/
def slopeOf (l : List Int) : Int := slopeSum l / 10

/-- A die's slope, once 300 samples are there. -/
def slope (s : State) (d : Nat) : Int := let l := (s.therm d).samples; if l.length < 300 then 0 else slopeOf l

/-- A die's slope in 0.01 °C/s. -/
def fineSlope (s : State) (d : Nat) : Int := let l := (s.therm d).samples; if l.length < 300 then 0 else slopeSum l

/-- Package power has changed by less than 10 % over the last 300 ms (R449). -/
def powerSteady (s : State) : Bool :=
  match s.power.watts.head?, s.power.watts.getLast? with
  | some a, some b => decide (((a : Int) - b).natAbs * 10 < b)
  | _, _ => false

/-- Lower edge of a band in 1/8 °C (R303). -/
def bandEdge (b : Nat) : Int := 640 + 40 * (b : Int)

/-- Band that a temperature and the DRAM sensors call for (R303). -/
def bandCalled (temp : Option Int) (sensors : List Int) : Nat :=
  let byT := match temp with
    | none => 4
    | some t => if t < 680 then 0 else if t < 720 then 1 else if t < 760 then 2 else if t < 800 then 3 else if t < 840 then 4 else 5
  let byS := if sensors.any (800 ≤ ·) then 5 else if sensors.any (760 ≤ ·) then 4 else 0
  max byT byS

/-- A sample lies at least 2 °C below the lower edge of a band (R304), the sensors' own edges for bands 4 and 5 (R303). -/
def coolFor (b : Nat) (temp : Option Int) (sensors : List Int) : Bool :=
  (match temp with
    | none => false
    | some t => decide (t ≤ bandEdge b - 16)) && (b < 4 || sensors.all (· ≤ (if b = 4 then 744 else 784)))

/-- Refresh at the doubled rate (R301), with the hysteresis of R304. -/
def refreshNext (T : DieTherm) (temp : Option Int) (sensors : List Int) : Bool × Nat :=
  let hot := (match temp with
    | none => true
    | some t => decide (680 ≤ t)) || sensors.any (680 ≤ ·)
  let cool := (match temp with
    | none => false
    | some t => decide (t ≤ 664)) && sensors.all (· ≤ 664)
  if hot then (true, 0)
  else if !T.refreshX2 then (false, 0)
  else if cool then (if T.refCool + 1 = 10 then (false, 0) else (true, T.refCool + 1))
  else (true, 0)

/-- Band 5 begins (R306): self-refresh, the tiles halted, and a level-4 fault of the die's tiles. -/
def haltDie (s : State) (d : Nat) : State :=
  (((s.setFld (pgDramc d + 0x100) 3 3 1).bump (pgDramc d + 0x134)).recordErr (pgDramc d) 0x4802).hwFault (.dieTiles d)

/-- Band 5 ends (R306): the stack leaves self-refresh, and the die's tiles owe one full pass of the periodic self-test. -/
def resumeDie (s : State) (d : Nat) : State :=
  forEach ((List.range 68).filter (fun t => dieOf t = d && (s.tile t).health = .halted)) (s.setFld (pgDramc d + 0x100) 3 3 0)
    (fun s t => (s.updTile t (fun T => { T with health := .rejoining, segsDone := 0 })).setTileState t 5)

/-- The next band of a die and its run of cool samples (R304). -/
def bandNext (T : DieTherm) (temp : Option Int) (sensors : List Int) : Nat × Nat :=
  let want := bandCalled temp sensors
  if T.called < want then (want, 0)
  else if 0 < T.called ∧ coolFor T.called temp sensors then
    (if T.cool + 1 = 10 then (T.called - 1, 0) else (T.called, T.cool + 1))
  else (T.called, 0)

/-- A compute die's sample (R303–R306). -/
def sampleDie (s : State) (d : Nat) (temp : Option Int) (raw : List Int) : State :=
  let sensors := raw.filter tempOk
  let T := s.therm d
  let b := bandNext T temp sensors
  let rf := refreshNext T temp sensors
  let p := pgDramc d + 0x104
  let word := fun i => ((List.range 4).foldl (fun n j =>
    let x := raw.getD (4 * i + j) 1201
    n + (if tempOk x then twos 8 (degrees x) else 0x80) * 2 ^ (8 * j)) 0)
  let s0 := if T.degraded then s.bump (pgDramc d + 0x138) else s
  let s1 := (s0.setReg (pgTherm d + 0x124) (BitVec.ofNat 32 (word 0))).setReg (pgTherm d + 0x128) (BitVec.ofNat 32 (word 1))
  let s2 := (s1.setFld p 3 3 (b2n rf.1)).setFld p 15 8 (s.fld (pgTherm d + 0x120) 7 0)
  let s3 := match sensors with
    | [] => s2
    | x :: xs => s2.setFld p 23 16 (twos 8 (degrees (xs.foldl max x)))
  let before := s.heldBand d
  let s4 := (s3.updTherm d (fun t => { t with called := b.1, cool := b.2, refCool := rf.2, refreshX2 := rf.1, allLost := temp.isNone })).throttleDie d
  let s5 := if temp.isNone && !T.allLost then s4.faultNotice 0x4804 else s4
  let s6 := if s5.heldBand d = 4 ∧ before < 4 then s5.notice 3 0 0 (s5.thermArg d 4) else s5
  if T.called < 5 ∧ b.1 = 5 then s6.haltDie d
  else if T.called = 5 ∧ b.1 < 5 then s6.resumeDie d
  else s6

/-- A hub's sample (R445, R448): it is hot from 105 °C until it reads below 100 °C. -/
def sampleHub (s : State) (d : Nat) (temp : Option Int) : State :=
  s.updTherm d (fun t => { t with
    allLost := temp.isNone
    hubHot := match temp with
      | none => t.hubHot
      | some x => if 840 ≤ x then true else if x < 800 then false else t.hubHot })

end State

/-- THERMAL_SAMPLE (R304, R446–R449): every 1 ms one die's diodes and DRAM die sensors. -/
def execThermalSample (die : Nat) (diodes : List (Int × Int)) (sensors : List Int) (s : State) : Res :=
  whenLive s (fun s =>
    if die < 4 && !s.sites.contains die then s
    else
      let x := s.sampleSpots die diodes
      let s1 := match x.2 with
        | none => x.1
        | some t => (x.1.setFld (State.pgThermAt die + 0x120) 7 0 (twos 8 (State.degrees t))).updTherm die (fun r => { r with samples := (t :: r.samples).take 300 })
      let s2 := s1.setFld (State.pgThermAt die + 0x120) 15 8 (twos 8 (s1.slope die))
      if die < 4 then s2.sampleDie die x.2 sensors else s2.sampleHub die x.2)

/-! ### Package power (R443, R445) -/

namespace State

/-- Watts of a coolant cap index: 4 none, 3 360, 2 240, 1 150, 0 60 (R453). -/
def capWatts (i : Nat) : Option Nat := [some 60, some 150, some 240, some 360].getD i none

/-- Coolant is lost (R454). -/
def coolLost (s : State) : Bool := s.fld (pgCool + 0x104) 17 17 = 1
/-- Flow readings are not to be trusted (R452). -/
def flowFault (s : State) : Bool := s.fld (pgCool + 0x104) 18 18 = 1
/-- The coolant cap in force (R452, R453): under FLOW_FAULT control runs on temperature alone, so no cap of the flow is in force. -/
def capIndex (s : State) : Nat := if s.flowFault then s.power.inletCap else min s.power.inletCap s.power.flowCap
/-- Shows the cap in COOL_STAT.CAP: 0 none, 1 360 W to 4 60 W. -/
def showCap (s : State) : State := s.setFld (pgCool + 0x104) 23 21 (4 - min 4 s.capIndex)

/-- The lowest power limit in force. -/
def lowestLimit (s : State) : Nat :=
  let l0 := s.fld (pgPwr + 0x100) 9 0
  let l1 := match capWatts s.capIndex with
    | some w => min l0 w
    | none => l0
  if s.coolLost && s.service = 2 then min l1 60 else l1

/-- A hub holds kc down: hot, or without a reading (R445, R448). -/
def hubHot (s : State) : Bool := (s.therm 4).hubHot || (s.therm 5).hubHot
def hubBlind (s : State) : Bool := (s.therm 4).allLost || (s.therm 5).allLost

/-- kc takes a value: the dies' limits follow, and kc = 0 aborts every running waybill THROTTLED, in whichever service (R445). -/
def setKc (s : State) (i : Nat) : State :=
  let was := s.power.kc
  let s1 : State := { s with power := { s.power with kc := i } }
  let s2 := (s1.setFld (pgPwr + 0x104) 12 10 (4 - i)).throttle
  if i = 0 ∧ 0 < was then
    forEach (s2.disp.placements.filter (fun p => p.started && !p.ended && !p.aborting && p.entry.isNone)) s2
      (fun s p => (s.bump (pgPwr + 0x10C)).abortWork p.wid csThrottled 0)
  else s2

/-- kc after a power sample (R445, R448). -/
def nextKc (s : State) (w : Nat) : Nat × Nat :=
  let kc := s.power.kc
  let low := s.lowestLimit
  let down := decide (low < w) || s.hubHot
  let below := if w * 10 < low * 9 && !s.coolLost then s.power.below + 1 else 0
  let k1 := if s.coolLost then 0 else if down then kc - 1 else if below = 100 ∧ kc < 4 then kc + 1 else kc
  (if s.hubBlind then min k1 1 else k1, if below = 100 then 0 else below)

end State

/-- PWR_LIMIT holds kc (R458): kc is below its highest step, and the power is at or above 90 % of PWR_LIMIT, so that kc does not step up under it. -/
def State.limitHolds (s : State) (kc w : Nat) : Bool := decide (kc < 4) && decide (s.fld (pgPwr + 0x100) 9 0 * 9 ≤ w * 10)

/-- A hub reads 105 °C or above (R458). -/
def State.hubAt105 (s : State) : Bool := [4, 5].any (fun d => match (s.therm d).samples with
  | x :: _ => !(s.therm d).allLost && decide (840 ≤ x)
  | [] => false)

/-- POWER_SAMPLE (R445): every 1 ms the package power moves kc by at most one step. -/
def execPowerSample (watts : Nat) (s : State) : Res :=
  whenLive s (fun s =>
    let w := ((watts : Int) + s.calEff pgPwr 1 10).toNat
    let n := s.nextKc w
    let s1 := ((s.setFld (pgPwr + 0x104) 9 0 (min 1023 w)).setFld (pgPwr + 0x104) 13 13 (b2n (s.limitHolds n.1 w))).setFld
      (pgPwr + 0x104) 14 14 (b2n s.hubAt105)
    let s2 : State := { s1 with power := { s1.power with below := n.2, watts := (w :: s1.power.watts).take 300 } }
    if n.1 = s.power.kc then s2 else s2.setKc n.1)

/-- AVS_UPDATE (R443): the target moves by at most 5 mV toward the highest request plus 10 mV, within 650 to 850 mV; before the first
target it is set at once. -/
def execAvsUpdate (requests : List Nat) (read : Nat) (s : State) : Res :=
  whenLive s (fun s =>
    let p := pgPwr + 0x108
    let want := max 650 (min 850 (requests.foldl max 0 + 10))
    let cur := s.fld p 9 0
    let next := if requests = [] then cur else if cur = 0 then want else if cur < want then min want (cur + 5) else max want (cur - 5)
    (s.setFld p 9 0 next).setFld p 25 16 (((read : Int) + s.calEff pgPwr 0 20).toNat))

/-- SLACK_FAULT (R443): a level-4 fault of the die; its tiles are judged by their verdict self-tests. -/
def execSlackFault (die : Nat) (s : State) : Res :=
  whenLive s (fun s => if s.sites.contains die then (s.recordErr (pgTherm die) 0x4805).hwFault (.dieSlack die) else s)

/-- BROWNOUT (R442): both pins and SAFE_RESET. -/
def execBrownout (_rail : Nat) (s : State) : Res :=
  whenLive s (fun s => ((s.recordErr (pgHub 0) 0x5806).assertBoth).safeReset 0x5806)

/-- A diode's reading with CAL_FACT alone (R469), where it is in range: die, calibration word and raw reading. -/
def State.factReading (s : State) (x : Nat × Nat × Int) : Option Int :=
  let v := x.2.2 + s.calFact (State.pgThermAt x.1) x.2.1
  if State.tempOk v then some v else none

/-- The diodes among some that read at or above a temperature by CAL_FACT alone. -/
def State.hotDiodes (s : State) (ds : List (Nat × Nat × Int)) (lim : Int) : List (Nat × Nat × Int) := ds.filter (fun x => (s.factReading x).any (lim ≤ ·))

/-- THERMAL_TRIP (R450, R469): hardware; where a diode reads 115 °C or above, both pins and ERR_N, every stack in self-refresh, and the logic held until
PORST_N. -/
def execThermalTrip (diodes : List (Nat × Nat × Int)) (s : State) : Res :=
  .next (if s.start.hold = .porst ∨ s.start.hold = .trip ∨ s.hotDiodes diodes 920 = [] then s
    else
      let s1 := (forEach (s.hotDiodes diodes 920) s (fun s x => s.recordErr (State.pgThermAt x.1) 0x5808 (x.2.1 / 2))).assertBoth
      let s2 := forEach s1.sites s1 (fun s d => s.setFld (pgDramc d + 0x100) 3 3 1)
      let s3 := s2.setFld (pgPwr + 0x104) 15 15 1
      { s3 with start := { s3.start with hold := .trip } })

/-- A tile is marked worn, until it is retired; the mark outlives power-off (R457). -/
def State.markWorn (s : State) (t : Nat) : State :=
  let s1 := s.updTile t (fun T => { T with worn := true })
  { s1 with flash := { s1.flash with worn := s1.unitKey t :: s1.flash.worn.filter (· ≠ s1.unitKey t) } }

/-- AGING_MONITOR (R457): THERM_AGE shows the die's worst tile; below 40 ps the tile is worn. -/
def execAgingMonitor (tile : Nat) (headroom : Nat) (s : State) : Res :=
  whenLive s (fun s =>
    let p := pgTherm (State.dieOf tile) + 0x12C
    let h := min 255 headroom
    let s1 := if h < s.fld p 7 0 ∨ s.fld p 13 8 = tile then (s.setFld p 7 0 h).setFld p 13 8 tile else s
    if h < 40 ∧ !(s.tile tile).worn ∧ s.tilePresent tile then
      ((s1.markWorn tile).recordErr (pgTile tile) 0x2703).faultNotice 0x2703 tile
    else s1)

/-! ### Coolant (R452–R455) -/

namespace State

/-- A counter of samples: one more while a condition holds, otherwise 0; it stops at `cap`. -/
def runOf (c : Bool) (n cap : Nat) : Nat := if c then min cap (n + 1) else 0

/-- Cap index that a flow calls for (R453); without pulses none. -/
def flowTarget (flow nominal edges : Nat) : Nat :=
  if edges = 0 then 4 else if 50 * nominal ≤ 100 * flow then 4 else if 40 * nominal ≤ 100 * flow then 3
  else if 30 * nominal ≤ 100 * flow then 2 else if 20 * nominal ≤ 100 * flow then 1 else 0

/-- Percent of NOMINAL at or above which a cap lifts by one step (R453). -/
def liftAt (i : Nat) : Nat := [25, 35, 45, 55].getD i 0

/-- Flow control with a valid flow (R453, R454). -/
def flowControl (s : State) (flow edges : Nat) : State :=
  let nom := s.fld (pgCool + 0x100) 31 16
  let p := pgCool + 0x104
  let low := runOf (decide (100 * flow < 80 * nom)) s.power.lowFlow 600
  let ok := runOf (decide (85 * nom ≤ 100 * flow)) s.power.okFlow 600
  let deg := s.fld p 16 16 = 1
  let set := low = 600 && !deg
  let clear := ok = 600 && deg
  let s1 : State := { s with power := { s.power with lowFlow := low, okFlow := ok } }
  let s2 := if set then (s1.setFld p 16 16 1).notice 5 0 0 (flow * 1000 / nom)
    else if clear then (s1.setFld p 16 16 0).notice 5 0 0 (flow * 1000 / nom) else s1
  if s.coolLost then
    let good := decide (50 * nom ≤ 100 * flow) && (List.range 6).all (fun d => decide (s.fineSlope d < 100))
    let n := runOf good s.power.lostOk 100
    if n = 100 then
      let s3 : State := { s2 with power := { s2.power with lostOk := 0, flowCap := flowTarget flow nom edges, capUp := 0, below := 0 } }
      ((s3.setFld p 17 17 0).notice 0xC 0x5809 0 0).showCap
    else { s2 with power := { s2.power with lostOk := n } }
  else
    let t := flowTarget flow nom edges
    if t < s.power.flowCap then State.showCap { s2 with power := { s2.power with flowCap := t, capUp := 0 } }
    else
      let up := runOf (decide (s.power.flowCap < 4) && decide (liftAt s.power.flowCap * nom ≤ 100 * flow)) s.power.capUp 100
      if up = 100 then State.showCap { s2 with power := { s2.power with flowCap := s.power.flowCap + 1, capUp := 0 } }
      else { s2 with power := { s2.power with capUp := up } }

/-- The inlet rule (R452), in 1/8 °C. -/
def inletControl (s : State) (inlet : Int) : State :=
  let nom := s.fld (pgCool + 0x100) 31 16
  let hot := runOf (decide (520 < inlet)) s.power.inletHot 100
  let cool := runOf (decide (inlet < 504)) s.power.inletCool 100
  let want := if 560 < inlet then 2 else if hot = 100 then 3 else 4
  let cap := if cool = 100 then 4 else min want s.power.inletCap
  let s1 : State := { s with power := { s.power with inletHot := hot, inletCool := cool, inletCap := cap } }
  let s2 := if hot = 100 ∧ s.power.inletHot < 100 then s1.notice 5 0 0 (s.fld (pgCool + 0x104) 15 0 * 1000 / nom) else s1
  s2.showCap

end State

/-- FLOW_SAMPLE (R452, R453): every 100 ms. `edges`: FLOW_PULSE edges of the last second; `latest`: those of the last 100 ms; `overrate`: of these, the ones in windows
above 5 kHz. Under FLOW_FAULT every pulse is ignored, and counted so. -/
def execFlowSample (edges : Nat) (latest : Nat) (overrate : Nat) (inlet : Int) (outlet : Int) (s : State) : Res :=
  whenLive s (fun s =>
    let p := pgCool + 0x104
    let tIn := inlet + s.calEff pgCool 0 32
    let tOut := outlet + s.calEff pgCool 1 32
    let s1 := ((s.setFld p 19 19 (b2n (!State.ntcOk tIn))).setFld p 20 20 (b2n (!State.ntcOk tOut))).setReg (pgCool + 0x108)
      (BitVec.ofNat 32 (twos 8 (State.degrees tIn) + twos 8 (State.degrees tOut) * 256))
    let s2 := if State.ntcOk tIn then s1.inletControl tIn else s1
    if 0 < overrate then
      (State.bump { (s2.setFld p 18 18 1) with power := { s2.power with overOk := 0 } } (pgCool + 0x10C) (if s.flowFault then latest else overrate)).showCap
    else
      let n := State.runOf (s2.fld p 18 18 = 1) s2.power.overOk 100
      let s3 : State := { s2 with power := { s2.power with overOk := if n = 100 then 0 else n } }
      let s4 := if n = 100 then (s3.setFld p 18 18 0).showCap else s3
      if s4.fld p 18 18 = 1 then s4.bump (pgCool + 0x10C) latest
      else
        let f := ((edges * 60000 / s4.fld (pgCool + 0x100) 15 0 : Nat) : Int) * (1000 + s4.calEff pgCool 2 100) / 1000
        (s4.setFld p 15 0 (min 65535 f.toNat)).flowControl f.toNat edges)

/-- COOLING_LOST (R454): no pulse for 500 ms while FLOW_FAULT is clear, or a die's slope above 2 °C/s at steady power. -/
def execCoolingLost (slope : Bool) (s : State) : Res :=
  whenLive s (fun s =>
    let p := pgCool + 0x104
    let met := if slope then s.powerSteady && (List.range 6).any (fun d => decide (200 < s.fineSlope d)) else s.fld p 18 18 = 0
    if s.coolLost || !met then s
    else
      let s1 : State := { (s.setFld p 17 17 1) with power := { s.power with flowCap := 4, capUp := 0, lostOk := 0, below := 0 } }
      let s2 := ((s1.recordErr pgCool 0x5809).showCap).notice 0xC 0x5809 0 (b2n slope + 2)
      let s3 := s2.setKc 0
      if s.service = 2 then s3 else s3.islandAct State.evThermal 0x5809)

end Sys2Proof.Machine
end

