-- ==== Sys2Proof/Machine/Bringup.lean ====
section
/-! DEFINITION. What start-up and the handovers share (R49, R51, R435): scrubs, coupling, self-test and injection, tables of the drive reserve, the
training of the Viaducts (R430–R432), the safety table, the timetable, and drive-ready. -/

namespace Sys2Proof.Machine

open Sys2Proof

namespace State

/-! ### Service registers (R45) -/

/-- SERVICE_STAT.RESULT. -/
def serviceResult (s : State) : Nat := s.fld (pgService + 0x104) 23 16
def setResult (s : State) (v : Nat) : State := s.setFld (pgService + 0x104) 23 16 v
def setService (s : State) (v : Nat) : State := s.setFld (pgService + 0x104) 1 0 v
def setStep (s : State) (v : Nat) : State := s.setFld (pgService + 0x104) 7 4 v
/-- A service notice (R359). -/
def serviceNotice (s : State) : State := s.notice 1 0 0 (s.serviceResult + 256 * s.service)

/-! ### Scrubs (R418) -/

/-- Every tile store, spares included, and the Interlocking store are zeroed; no berth holds a context any more. -/
def scrubStores (s : State) : State :=
  let s0 := (s.zero (tileStoreBase 0) (68 * 0x100000)).zero ilkBase ilkBytes
  let s1 := forEach (s0.tiles.map (·.1)) s0 (fun s t => (s.updTile t (fun T => { T with ingress := [] })).dropClosing t)
  let s2 := forEach ((List.range 68).filter s1.tilePresent) s1 (fun s t => forEach (List.range 8) s (fun s n => s.emptyBerth t n))
  forEach (s2.tiles.map (·.1)) s2 (fun s t => s.updTile t (fun T => { T with poison := [], scrubQueue := [], unitTenant := [] }))

/-- Bytes of Platform SRAM that the scrub of a handover spares: completion rings and notice rings (R49, step 3). -/
def spared (s : State) (a : Nat) : Bool :=
  [0, 1].any (fun p => psramBase p + noticeRing ≤ a && a < psramBase p + noticeRing + 0x8000)
    || s.disp.rings.any (fun e => e.2.kind = 1 && e.2.base ≤ a && a < e.2.base + 32 * e.2.size)

/-- The doorbell bits of rings that hold entries are set (R232). -/
def ringBells (s : State) : State :=
  forEach ((s.disp.rings.filter (fun e => e.2.kind ≠ 1 && e.2.fill ≠ 0)).map (·.1)) s (fun s r => s.setBell r)

/-- Platform SRAM is scrubbed, sparing what the host still reads, and the bits of rings that hold entries are kept. -/
def scrubPsram (s : State) : State :=
  let s1 : State := { s with mem := s.mem.filter (fun e => !(psramBase 0 ≤ e.1 && e.1 < psramBase 2) || s.spared e.1) }
  s1.ringBells

/-- Every page of tenants 1–4,095 is zeroed and free again, their Ledger entries and descriptors are cleared (R49, R204, R243). -/
def scrubTenants (s : State) : State :=
  let ts := ((s.dram.owner.filter (fun e => e.2.assigned && e.2.tenant ≠ 0)).map (fun e => e.2.tenant)).eraseDups
  let s1 : State := { s with ledger := { s.ledger with
    entries := s.ledger.entries.filter (fun e => e.2.tenant = 0), caches := [], seqs := s.ledger.seqs.filter (fun e => e.2.tenant = 0) } }
  forEach ts s1 (fun s t => s.zeroTenant t)

/-- Every session, key and handle of tenants 1–4,095 is destroyed; their tenant table entries get WEIGHT 0. -/
def dropSessions (s : State) : State :=
  let s1 := s.updSec (fun c => { c with
    sessions := [], handles := c.handles.filter (fun h => h.handle / 2 ^ 20 = 0), imports := [], sweeps := [], closing := [],
    devicePub := [], devicePriv := 0, serviceManifest := [] })
  let s1 : State := { s1 with dram := { s1.dram with keyTable := s1.dram.keyTable.filter (fun e => decide (e.1 < 2)) } }
  s1.updDisp (fun d => { d with tenants := d.tenants.map (fun e => if e.1 = 0 then e else (e.1, (0, e.2.2.1, 0))) })

/-! ### Coupling (R20, R105) -/

/-- A tile's membership of a coupled pair. -/
def setCoupled (s : State) (b : Bool) (t : Nat) : State :=
  ((s.updTile t (fun T => { T with coupled := b })).setFld (pgTile t + 0x100) 3 3 (b2n b)).setFld (pgTile t + 0x100) 4 4 (b2n (b && t % 2 = 0))

/-- Every populated pair couples or decouples. -/
def coupleAll (s : State) (b : Bool) : State := forEach s.allTiles s (fun s t => s.setCoupled b t)

/-- DEGRADED where a fitted pair or lane pair is missing (R45). -/
def noteDegraded (s : State) : State :=
  if (List.range 32).any (fun p => s.sites.contains (p / 8) && !s.pairServes p) || s.ilk.lanesOut ≠ [] then s.setDegraded else s

/-- A die's spare can take a number. -/
def spareReady (s : State) (d : Nat) : Bool :=
  s.spareState d = 0 && (s.tile (64 + d)).health ≠ .withdrawn && (s.tile (64 + d)).health ≠ .verdict

/-- A pair is withdrawn at a start or handover (R22, R316, R324): the islands act once they hold a table. -/
def pairLost (s : State) (t code : Nat) : State :=
  let s1 := if s.tileJudged t then s.withdrawTile t else s
  if s1.safety.tableOk then s1.withdrawn code else s1.setDegraded

/-- A tile's unit is retired at a start or handover (R21, R22, R56). A spare that takes its number in a pair owes the tests of the steps before it is in
service; one that serves alone is in service at once. With no spare the number becomes vacant and its pair is withdrawn. -/
def retireNow (s : State) (t code : Nat) : State :=
  let x := s.retireTile t
  if x.1 then
    if (s.tile t).coupled then
      let s1 := x.2.updTile t (fun T => { T with reload := false })
      { s1 with safety := { s1.safety with owed := s1.safety.owed.filter (· ≠ t) ++ [t] } }
    else ((x.2.updTile t (fun T => { T with health := .inService, reload := false })).setTileState t 1).setSafeBit 0x104 t false
  else
    let s1 : State := { x.2 with safety := { x.2.safety with owed := x.2.safety.owed.filter (· ≠ t) } }
    if (s.tile t).coupled then s1.pairLost (partner t) code else s1.setDegraded

/-- Worn tiles are retired where the spare is available (R457). -/
def retireWorn (s : State) : State :=
  forEach s.allTiles s (fun s t => if (s.tile t).worn && s.spareReady (t / 16) then s.retireNow t 0x1303 else s)

/-- A spare that serves no number fails its self-test (R24). -/
def retireSpare (s : State) (d : Nat) : State := (s.recordErr (pgTile (64 + d)) 0x2701).spareGone d

/-- Tiles that fail a whole self-test pass are retired, spares that serve no number first, so that none of them takes a number; every other tile has
completed a pass (R49, step 6; R436). -/
def selfTestAll (s : State) (fails : List Nat) : State :=
  let s1 := forEach ((List.range 4).filter (fun d => fails.contains (64 + d) && s.spareState d = 0 && s.tilePresent (64 + d))) s (fun s d => s.retireSpare d)
  let s2 := forEach (s1.allTiles ++ (List.range 4).map (64 + ·)) s1 (fun s t => s.updTile t (fun T => { T with lastPass := s.now, segsDone := 0 }))
  forEach (fails.filter (fun t => decide (t < 64) && s2.tilePresent t)) s2 (fun s t => (s.recordErr (pgTile t) 0x2701).retireNow t 0x2701)

/-- Units whose comparators fail twice (R316): the follower is retired, or the lane pair withdrawn. Both failures are logged and counted. -/
def injectAll (s : State) (pairs lanes : List Nat) : State :=
  let s1 := forEach (pairs.filter (fun p => s.tilePresent (2 * p + 1))) s (fun s p =>
    ((s.logInjection (.pair p)).logInjection (.pair p)).retireNow (2 * p + 1) 0x2605)
  forEach (lanes.filter (fun j => decide (j < 16) && !s.ilk.lanesLost.contains j)) s1 (fun s j =>
    let s2 := ((s.logInjection (.lane j)).logInjection (.lane j)).isolateLane j
    let s3 : State := { s2 with ilk := { s2.ilk with lanesLost := j :: s2.ilk.lanesLost.filter (· ≠ j) } }
    if s3.safety.tableOk then s3.withdrawn 0x2605 else s3.setDegraded)

/-- Units that fail their injection test once and pass it when it is made again: the failure is logged and counted (R316). -/
def injectOnce (s : State) (pairs lanes : List Nat) : State :=
  let s1 := forEach (pairs.filter (fun p => s.tilePresent (2 * p + 1))) s (fun s p => s.logInjection (.pair p))
  forEach (lanes.filter (fun j => decide (j < 16) && !s.ilk.lanesLost.contains j)) s1 (fun s j => s.logInjection (.lane j))

/-- The pairs couple. A unit that still waits for its verdict, its contexts or its injection test owes the tests of a new pair before it serves, and its partner waits with
it (R56). -/
def coupleWaiting (s : State) : State :=
  let s1 := s.coupleAll true
  let wait := s1.allTiles.filter (fun t => (s1.tile t).health = .injecting || (s1.tile t).health = .verdict)
  let s2 := forEach wait s1 (fun s t => if (s.tile (partner t)).health = .inService then s.isolateTile (partner t) .injecting else s)
  { s2 with safety := { s2.safety with owed := s2.safety.owed ++ wait.filter (fun t => !s2.safety.owed.contains t) } }

/-- A tile that owes the tests of its new pair holds its contexts, so that the tests can run. -/
def owesNow (s : State) (t : Nat) : Bool := !(s.tile t).reload && (s.fillOf t).isNone && (s.tile t).health ≠ .verdict

/-- A replaced unit has passed what it owed: the pair returns to its pool (R56, R325). -/
def settleOwed (s : State) (t : Nat) : State :=
  let s1 := forEach [t, partner t] s (fun s u => if (s.tile u).health = .injecting then s.returnTile u else s)
  { s1 with safety := { s1.safety with owed := s1.safety.owed.filter (· ≠ t) } }

/-- Replaced units that owed tests before a report and that it does not name have passed them (R56). -/
def settlePassed (s : State) (owed : List Nat) (r : StepReport) : State :=
  forEach (owed.filter (fun t => s.safety.owed.contains t && s.owesNow t && !r.injFailPairs.contains (t / 2) && !r.failTiles.contains t)) s
    (fun s t => s.settleOwed t)

/-- The injection test of the pairs whose units were replaced (R315, R316). -/
def injectOwed (s : State) (r : StepReport) : State :=
  let mine := fun (p : Nat) => s.safety.owed.any (fun t => t / 2 = p && s.owesNow t)
  (s.injectOnce (r.injOncePairs.filter mine) []).injectAll (r.injFailPairs.filter mine) []

/-- A step is repeated for the units replaced so far alone (R56): the injection test of their pairs and their self-test. -/
def retest (s : State) (r : StepReport) : State :=
  let s1 := s.injectOwed r
  let s2 := forEach (s1.safety.owed.filter (fun t => s1.owesNow t && r.failTiles.contains t)) s1 (fun s t => (s.recordErr (pgTile t) 0x2701).retireNow t 0x2701)
  s2.settlePassed s.safety.owed r

/-! ### Viaduct training (R430–R432) -/

/-- A lane of the lower or the upper group: data lanes 0–63, sideband lanes 64–67. -/
def lowerLane (l : Nat) : Bool := l < 32 || l = 64 || l = 65
def upperLane (l : Nat) : Bool := (32 ≤ l && l < 64) || l = 66 || l = 67

/-- Width of a half by its failing lanes: 2 full, 1 half, 0 none; the group at half width, and the sidings in use at full width. -/
def halfWidth (failing : List Nat) : Nat × Nat :=
  if failing.length ≤ 4 then (2, 0)
  else if (failing.filter lowerLane).length ≤ 4 then (1, 0)
  else if (failing.filter upperLane).length ≤ 4 then (1, 1)
  else (0, 0)

/-- SIDINGS of a half that runs at a width and group. -/
def sidings (failing : List Nat) (width group : Nat) : Nat :=
  if width = 2 then (failing.filter (· < 68)).length
  else if width = 0 then 0
  else (failing.filter (if group = 0 then lowerLane else upperLane)).length

/-- Failing lanes at a receiving end (R431): those whose eye margin lies below MARGIN_MIN, and those of the fuses. -/
def failingAt (s : State) (fs : List HalfFinding) (page b : Nat) : List Nat :=
  let margins := ((fs.find? (fun f => f.page = page && f.bundle = b)).map (·.margins)).getD []
  (List.range 72).filter (fun l => decide (margins.getD l 64 < s.fld (viaPages.getD page 0 + 0x104) 21 16)
    || (smGet s.fuses.viaFuse [] (4 * page + b)).contains l)

/-- Registers of one end of a trained bundle. -/
def setBundle (s : State) (page b width group sid fail : Nat) : State :=
  let p := viaPages.getD page 0
  let s1 := ((s.setFld (p + 0x100) b b (b2n (width ≠ 0))).setFld (p + 0x100) (4 + b) (4 + b) (b2n (width = 1))).setFld (p + 0x100) (8 + b) (8 + b) 0
  ((s1.setFld (p + 0x110 + 4 * b) 2 0 sid).setFld (p + 0x110 + 4 * b) 3 3 (b2n (width = 1) * group)).setFld (p + 0x110 + 4 * b) 10 4 fail

/-- A bundle is trained: either half at half width holds both to it. -/
def trainBundle (s : State) (fs : List HalfFinding) (link b : Nat) : State :=
  let fa := s.failingAt fs (2 * link) b
  let fb := s.failingAt fs (2 * link + 1) b
  let a := halfWidth fa
  let c := halfWidth fb
  let w := min a.1 c.1
  let s1 := (s.setBundle (2 * link) b w a.2 (sidings fa w a.2) fa.length).setBundle (2 * link + 1) b w c.2 (sidings fb w c.2) fb.length
  let log := fun (s : State) (page : Nat) (own : Nat) =>
    if own = 2 then s else s.recordErr (viaPages.getD page 0) (if w = 0 then 0x4502 else 0x4501) b
  log (log s1 (2 * link) a.1) (2 * link + 1) c.1

/-- The populated Viaducts. -/
def viaLinks (s : State) : List Nat := (List.range 7).filter (fun l => s.blkPresent .via (2 * l))

/-- Every Viaduct is trained (R431). -/
def trainViaducts (s : State) (fs : List HalfFinding) : State :=
  let s1 := forEach s.viaLinks s (fun s l => forEach (List.range 4) s (fun s b => s.trainBundle fs l b))
  let s2 := forEach s1.viaLinks s1 (fun s l =>
    (s.setFld (viaPages.getD (2 * l) 0 + 0x100) 12 12 1).setFld (viaPages.getD (2 * l + 1) 0 + 0x100) 12 12 1)
  { s2 with links := [] }

/-- Viaducts without a running bundle (R18), and Viaducts below 384 GB/s (R432). -/
def deadLinks (s : State) : List Nat := s.viaLinks.filter (fun l => s.viaWidth (2 * l) = 0)
def narrowLinks (s : State) : List Nat := s.viaLinks.filter (fun l => s.viaWidth (2 * l) < 6)

/-! ### Stacks and tables (R298, R299, R307, R435 step 5) -/

/-- A stack that is not brought up: its die is quarantined (R299). -/
def stackDown (s : State) (d : Nat) : State := (s.recordErr (pgDramc d) 0x440B).cutDie d

/-- A channel replaced by channel 32 at a start (R299). -/
def replaceChannel (s : State) (d ch : Nat) : State :=
  ((s.setFld (pgDramc d + 0x100) 1 1 1).setFld (pgDramc d + 0x100) 12 8 ch).recordErr (pgDramc d) 0x440A ch

/-- The rows and columns that the repair log of a stack names. -/
def loggedUnits (s : State) (d : Nat) : List DramUnit :=
  ((s.repairLog d).map (fun e => match e with
    | .line l => lineUnit l
    | .unit u => u)).eraseDups

/-- Spare rows or spare columns of a bank that a list of repairs takes (R289). -/
def sparesUsed (us : List DramUnit) (ch bank : Nat) (column : Bool) : Nat :=
  (us.filter (fun u => u.channel = ch && u.bank = bank && u.column = column)).length

/-- A channel needs more spare rows or columns than one of its banks holds (R299). -/
def channelOver (us : List DramUnit) (ch : Nat) : Bool :=
  (List.range 32).any (fun b => decide (64 < sparesUsed us ch b false) || decide (8 < sparesUsed us ch b true))

/-- Repairs of a stack at a start in the order of R298, as (fuse, logged, found): at a warm start there is no march test. -/
def repairsOf (s : State) (r : StepReport) (warm : Bool) (d : Nat) : List DramUnit × List DramUnit × List DramUnit :=
  let fuse := (smGet s.fuses.dramFuse [] d).eraseDups
  let logd := (if r.logBad.contains d then [] else s.loggedUnits d).filter (fun u => !fuse.contains u)
  let found := if warm then [] else (((r.march.filter (fun x => x.1 = d)).map (·.2)).eraseDups).filter (fun u => !fuse.contains u && !logd.contains u)
  (fuse, logd, found)

/-- A stack comes up with its repairs: what the march test found is appended to the log (R298), a channel that cannot be repaired or trained is replaced by
channel 32, and with two of them the stack is not brought up (R299). -/
def bringStack (s : State) (r : StepReport) (warm : Bool) (d : Nat) : State :=
  let x := s.repairsOf r warm d
  let all := x.1 ++ x.2.1 ++ x.2.2
  let bad := (List.range 32).filter (fun ch => channelOver all ch || r.untrained.contains (d, ch))
  let s1 := forEach x.2.2 s (fun s u => s.logRepair d (.unit u))
  if 2 ≤ bad.length then s1.stackDown d
  else
    let s2 := s1.updStack d (fun k => { k with repairs := all })
    let s3 := s2.setFld (pgDramc d + 0x128) 7 0 (min 255 (x.2.1 ++ x.2.2).length)
    let s4 := forEach bad s3 (fun s ch => s.replaceChannel d ch)
    (s4.setFld (pgDramc d + 0x100) 0 0 1).setFld (pgDramc d + 0x100) 3 3 0

/-- The stacks come up (R298, R299). -/
def bringStacks (s : State) (r : StepReport) (warm : Bool) : State := forEach s.sites s (fun s d => s.bringStack r warm d)

/-- The drive reserve is placed on the stacks of R307. -/
def placeReserve (s : State) (pages at_ : Nat) : State :=
  let sites := s.chooseReserve
  let s1 : State := { s with dram := { s.dram with reservePages := pages, reserveAt := at_, reserveMoved := [], reserveSites := sites, building := none } }
  if sites.length < 2 then s1.setDegraded else s1

/-- Free pages of the stacks in service outside the drive reserve and the owned pages (R206, R222). -/
def buildPool (s : State) : State :=
  let n := s.dram.reservePages
  let runs := s.reserveStacks.flatMap (fun d =>
    let r := s.reserveStart d
    if s.dram.reserveSites.contains d then [(d * stackPages, r), (d * stackPages + r + n, stackPages - (r + n))].filter (fun x => x.2 ≠ 0)
    else [(d * stackPages, stackPages)])
  let pool := (s.dram.owner.filter (fun e => e.2.assigned)).foldl (fun p e => poolTake p e.1) runs
  { s with ledger := { s.ledger with pool := pool, pending := [] } }

/-- A warm start places the drive reserve anew (R307): copies are made on the chosen stacks that hold none, and those on stacks not chosen are given up. A
single copy that a quarantine has left stays the only one until the next cold start (R320). -/
def renewReserve (s : State) : State :=
  if s.dram.reserveSites.length < 2 ∧ s.dram.building = none then s
  else
    let sites := s.chooseReserve
    let s1 := forEach (sites.filter (fun d => !s.dram.reserveSites.contains d)) s (fun s d => (s.addCopy d).getD s)
    let s2 := forEach (s1.dram.reserveSites.filter (fun d => !sites.contains d && decide (2 ≤ (s1.dram.reserveSites.filter sites.contains).length))) s1
      (fun s d => s.dropCopy d)
    { s2 with dram := { s2.dram with building := none, reserveSites := s2.dram.reserveSites.filter (· < 2) ++ s2.dram.reserveSites.filter (2 ≤ ·) } }

/-- A place in the first copy of the drive reserve for a table of `len` bytes, in units of `unit` bytes, which the Stationmaster chooses: a free value. A
reserve with no room for it leaves the place open altogether. -/
def reservePlace (s : State) (unit len pick : Nat) : Nat :=
  let first := s.reserveBase (s.dram.reserveSites.headD 0)
  let lo := (first + unit - 1) / unit
  let hi := (first + s.dram.reservePages * pageBytes - len) / unit
  if len ≤ s.dram.reservePages * pageBytes ∧ lo ≤ hi then lo + pick % (hi + 1 - lo) else pick

/-- The tables of the drive reserve: the register that holds the base, its top bit, the unit of the base and the length (R199, R203, R222, R224, R233, R257,
R296, R310). -/
def reserveTables (s : State) : List (Nat × Nat × Nat × Nat) :=
  [(pgLedger + 0x100, 13, 2 ^ 26, 2 ^ 26), (pgLedger + 0x104, 17, 2 ^ 22, 2 ^ 22), (pgDispatch + 0x108, 13, 2 ^ 26, 2 ^ 26), (pgDispatch + 0x10C, 23, 2 ^ 16, 2 ^ 16)]
    ++ s.sites.map (fun d => (pgDramc d + 0x110, 18, 2 ^ 21, 2 ^ 21))

/-- The Stationmaster writes the bases of the tables in the drive reserve (R222, R257, R310). -/
def writeBases (s : State) : State :=
  forEach s.reserveTables s (fun s x => let f := s.fresh; f.2.setFld x.1 x.2.1 0 (s.reservePlace x.2.2.1 x.2.2.2 f.1))

/-- Tenant 0's entry of the tenant table, from the first stage's configuration block (R233). -/
def writeTenant0 (s : State) : State :=
  let e : Nat × Nat × Nat := match s.start.first with
    | some f => if 1 ≤ f.weight0 ∧ f.weight0 ≤ 255 ∧ f.topclass0 ≤ 3 then (f.weight0, f.topclass0, 0) else (1, 0, 0)
    | none => (1, 0, 0)
  s.updDisp (fun d => { d with tenants := smPut d.tenants 0 e })

/-- What the Stationmaster provides for tenant 0 at a cold start: rings, pages and the drive program images (R44, R246; log entry 36). -/
def provideDrive (s : State) (p : Provision) : State :=
  let s1 := s.provide 0 (s.poolSize) p
  let l := p.programs.filter (fun h => decide (h.handle < 2 ^ 18) && s1.inReserve (h.dest / 64) && s1.inReserve ((h.dest + h.data.length - 1) / 64))
  (forEach l s1 (fun s h => s.writeKeys ((List.range h.data.length).map (h.dest + ·)) h.data)).updSec (fun c => { c with
    handles := l.map (fun h => { handle := h.handle, digest := sha512 h.data, dest := h.dest, len := h.data.length, serving := h.serving }) })

/-! ### The random generator (R401) -/

/-- A start-up test of the source has passed, and the generator is reseeded. -/
def entropyUp (s : State) : State :=
  (((s.setFld (pgSec + 0x10C) 0 0 1).setFld (pgSec + 0x10C) 1 1 1)).updSec (fun c => { c with drbgCount := 0 })

/-- A start-up test has failed. -/
def entropyDown (s : State) : State :=
  ((((s.setFld (pgSec + 0x10C) 0 0 0).setFld (pgSec + 0x10C) 1 1 0)).bump (pgSec + 0x150)).recordErr pgSec 0x5B03

/-! ### The islands and the timetable (R246, R332, R435 step 7) -/

/-- ISL_STAT.STATE of every island that is not faulty: 1 enforcing, 2 health supervision. -/
def setIslands (s : State) (v : Nat) : State :=
  forEach [Side.a, Side.b] s (fun s x =>
    if s.islandOk x then (s.setFld (pgIsl (sideNo x) + 0x100) 1 0 v).setFld (pgIsl (sideNo x) + 0x100) 2 2 (b2n (s.islandOk .a && s.islandOk .b)) else s)

/-- Both islands hold a verified customer safety table. -/
def loadTable (s : State) (t : SafetyTable) : State :=
  let acts : SMap Action := t.actions.foldl (fun m x => smPut m x.1 (if x.2 then .safeHold else .notify)) []
  let gp : SMap (List Nat) := t.gpio.foldl (fun m x => smPut m x.1 x.2) []
  let s1 : State := { s with safety := { s.safety with actions := acts, gpio := gp, tableOk := true, driveMs := t.driveMs, tableVer := t.version, ttDigest := t.ttDigest } }
  let s2 := (s1.setReg (pgIsl 0 + 0x110) (BitVec.ofNat 32 t.version)).setReg (pgIsl 1 + 0x110) (BitVec.ofNat 32 t.version)
  (s2.setFld (pgSafety + 0x118) 15 0 t.driveMs).updSec (fun c => { c with tableDigest := sha512 t.signed.body })

/-- The timetable image is checked and loaded (R244, R246); `true` where it was: its digest is the one that the safety table names, and the checks hold. -/
def takeTimetable (s : State) (img : List Byte) : Bool × State :=
  if sha512 img = s.safety.ttDigest && s.timetableOk img then (true, (s.loadTimetable img).updSec (fun c => { c with ttDigest := sha512 img }))
  else (false, s.recordErr pgService 0x5A05)

/-- Pairs that fail the first proving run (R250): compare mismatches, which the recovery handles. -/
def proofFails (s : State) (tiles : List Nat) : State :=
  forEach (tiles.filter (fun t => s.pairServes (t / 2))) s (fun s t => (s.recordErr (pgTile (t / 2 * 2 + 1)) 0x2602).startRecovery (.unit (.pair (t / 2))))

/-- Drive-ready (R49, R435): DRIVE_READY, and each island releases its pin unless one has been forced (R437). -/
def declareDrive (s : State) : State :=
  let s1 := (((s.setService 1).setFld (pgService + 0x104) 2 2 1).setFld (pgService + 0x104) 3 3 0).setStep 0
  let forced := s1.fld (pgIsl 0 + 0x100) 3 3 = 1 || s1.fld (pgIsl 1 + 0x100) 3 3 = 1
  let s2 : State := if forced then s1 else { s1 with pins := { s1.pins with safeA := false, safeB := false } }
  let s3 := forEach s2.allTiles s2 (fun s t => s.updTile t (fun T => { T with lastPass := s.now }))
  s3.updDisp (fun d => { d with frozen := false, tickOwed := false, inFrame := false, lastFrame := false, frameStart := s3.now })

/-- Safety-rank entries that the pairs in service cannot hold, or no lane pair left for the Interlocking work of drive service (R57; log entry 47). -/
def driveShort (s : State) : Bool :=
  (List.range 16).all s.ilk.lanesOut.contains || match s.disp.tt with
  | none => false
  | some tt => tt.entries.any (fun e => e.rank = 0xFF && !e.proof && decide ((s.poolServes tt e).length < e.pairs))

end State

end Sys2Proof.Machine
end

