-- ==== Sys2Proof/Machine/StartPower.lean ====
section
/-! DEFINITION. Resets and start-up (R434–R438, R243, R462), and the Viaduct frames (R425–R427). -/

namespace Sys2Proof.Machine

open Sys2Proof

namespace State

/-! ### What a reset leaves (R434, R438, R462) -/

/-- Bits of a register that keep their value over a warm reset: those of its table; PORT_READY, LINK_ECC, START_COUNT and the data rate of a port
(R344); the channel that channel 32 serves (R300); and FORCED where no pin has been released (R334). -/
def warmKeep (s : State) (forced : Bool) (a : Nat) : Nat :=
  match blkAt (a / 0x1000 * 0x1000) with
  | none => 0
  | some (b, i) =>
    let off := a % 0x1000
    if b = .plat ∧ off = 0x100 then 0xFF06
    else if b = .plat ∧ off = 0x104 then 0x3FFF
    else if b = .dramc ∧ off = 0x100 then 0x1F02
    else if b = .isl ∧ off = 0x100 then (if forced then 8 else 0)
    else ((regDef b i off s.fuses.size).map (·.keep)).getD 0

/-- The registers after a warm reset (R462). -/
def warmRegs (s : State) (forced : Bool) : SMap Word :=
  s.regs.filterMap (fun e =>
    let k := BitVec.ofNat 32 (s.warmKeep forced e.1)
    if k = 0 then none else some (e.1, (e.2 &&& k) ||| (regReset s.fuses.size e.1 &&& ~~~k)))

/-- What an internal reset leaves of the islands: a faulty island stays faulty, and a forced pin asserted (R334). -/
def keptIsland (forced : Bool) (x : Island) : Island := { Island.initial with faulty := forced && x.faulty }

/-- What a warm reset leaves of the Platform ports (R344): the register bits that its table keeps, and the state of the host's training. -/
def keptPort (P : Port) : Port := { Port.initial with mode := P.mode, trained := P.trained, sleep := P.sleep, openRows := P.openRows }

/-- A cold start: everything that the fuses do not hold is lost. Straps, station time, what the private test modes opened and, after a SAFE_RESET, what
the islands have forced stay as they are at this point (R334, R421, R438), and where a warm reset began it, what R344 keeps of the ports. -/
def coldState (s : State) : State :=
  let warm := s.start.hold = .warm
  { State.reset with
    pending := s.pending, fuses := s.fuses, flash := s.flash, free := s.free, clk := s.clk, now := s.now
    regs := (s.warmRegs s.start.safeReset).filter (fun e => match blkAt (e.1 / 0x1000 * 0x1000) with
      | some (.plat, _) => warm
      | some (.isl, _) => s.start.safeReset && e.1 % 0x1000 = 0x100
      | _ => false)
    ports := if warm then s.ports.map (fun e => (e.1, keptPort e.2)) else []
    safety := { Safety.initial with islA := keptIsland s.start.safeReset s.safety.islA, islB := keptIsland s.start.safeReset s.safety.islB }
    mon := { Monitor.initial with testModes := s.mon.testModes } }

/-- A warm start: what R24, R344, R418, R438, R447, R457 and R462 keep. -/
def warmState (s : State) : State :=
  let forced := s.start.safeReset
  { s with
    regs := s.warmRegs forced
    errq := [], errOvf := [], cnt := [], cntHeld := [], cntReload := [], cntCapture := [], cntLevel := [], evs := []
    mem := s.mem.filter (fun e => e.1 < 0x2000000000)
    svc := none
    tiles := s.tiles.filterMap (fun e => if e.2.worn then some (e.1, { Tile.initial with worn := true }) else none)
    disp := { Dispatcher.initial with
      rings := s.disp.rings, tenants := s.disp.tenants, placements := s.disp.placements.map s.lostRecord, nextWid := s.disp.nextWid
      completions := s.disp.completions, ahead := s.disp.ahead }
    ledger := { s.ledger with nextSite := 0, dropTarget := 0, caches := [] }
    ilk := Ilk.initial
    dram := { s.dram with
      stackTab := s.dram.stackTab.map (fun e => (e.1, { e.2 with failing := none }))
      therm := s.dram.therm.filterMap (fun e => if e.2.flagged = [] then none else some (e.1, { thermZero with flagged := e.2.flagged })) }
    safety := { Safety.initial with islA := keptIsland forced s.safety.islA, islB := keptIsland forced s.safety.islB }
    ports := s.ports.map (fun e => (e.1, keptPort e.2))
    convoy := Convoy.initial
    sec := { s.sec with
      sessions := [], handles := s.sec.handles.filter (fun h => h.handle / 2 ^ 20 = 0), imports := [], sweeps := [], closing := []
      devicePub := [], devicePriv := 0, serviceManifest := [] }
    power := Power.initial
    links := [], signals := [], arbs := []
    mon := { Monitor.initial with testModes := s.mon.testModes }
    pins := Pins.held }

/-- The identity key (R402): from the seed by HKDF-SHA-512; a device without a seed has none. -/
def identityKeyOf (f : Fuses) : Nat :=
  match f.seed with
  | some sd => ecKey (hkdf512 [] sd Config.identityInfo 66)
  | none => 0

/-- A start begins (R435, R438): the strapped roles, the lifecycle state as the fuses hold it (R395), START_COUNT, a new challenge, and at a cold start a new boot
identifier, a new attestation key and the identity key (R402). -/
def beginStart (s : State) : State :=
  let cold := s.start.coldOwed
  let base := if cold then s.coldState else s.warmState
  let st : Start := { s.start with
    hold := .none, step := 1, warm := !cold, coldOwed := false, stopped := false, releasedAt := s.now, stepBegan := s.now, late := false
    safeReset := false, first := none, memLost := [] }
  let s1 := forEach [0, 1] { base with start := st } (fun s' p =>
    (s'.setFld (pgPlat p + 0x100) 0 0 (b2n (if p = 0 then st.role0 else st.role1))).setFld (pgPlat p + 0x100) 15 8 (min 255 (s.fld (pgPlat p + 0x100) 15 8 + 1)))
  let s2 := (s1.newChallenge.setFld (pgSec + 0x108) 14 12 st.bootSel.toNat).updSec (fun c => { c with life := s.fuses.lifecycle })
  if cold then
    let x := s2.fresh
    let k := x.2.drbgBytes 66
    k.2.updSec (fun c => { c with bootId := x.1 % 2 ^ 32, attestKey := ecKey k.1, identityKey := identityKeyOf s.fuses })
  else s2

/-! ### Steps of start-up (R435, R436) -/

/-- The next step begins. -/
def nextStart (s : State) : State := { s with start := { s.start with step := s.start.step + 1, stepBegan := s.now, late := false } }
/-- Start-up stops. -/
def stopStart (s : State) : State := { s with start := { s.start with stopped := true } }

/-- The hash of the vendor key that the state accepts, where it accepts one (R395): the integration key only while no owner slot is programmed, the test key
only after the challenge of R421. -/
def vendorHash (s : State) : Option (List Byte) :=
  match s.sec.life with
  | 0 | 1 => some s.fuses.rom.manufacturing
  | 2 => if s.fuses.ownerSet = [] then some s.fuses.rom.integration else none
  | 4 => if s.mon.testModes then some s.fuses.rom.test else none
  | _ => none

/-- The owner slot whose key signed a part, in the states that accept one (R395, R399). -/
def ownerSigner (s : State) (p : SignedPart) : Option Nat :=
  if s.sec.life = 2 ∨ s.sec.life = 3 then (List.range 4).find? (fun k => s.slotGood k && signedBy p (smGet s.fuses.ownerHash [] k)) else none

/-- The ROM accepts an image (R395, R399): its signature verifies under the key of a good owner slot or under the state's vendor key, and its SVN is at
least the rollback counter. -/
def imageOk (s : State) (f : FirstStage) : Bool :=
  decide (s.fuses.rollback ≤ f.svn) && decide (f.svn ≤ 64) && ((s.ownerSigner f.image).isSome || s.vendorHash.any (signedBy f.image))

/-- The order in which the ROM tries the flash slots (R398): B first where BOOT_SEL is 1. -/
def bootOrder (s : State) : List Nat := if s.start.bootSel = 1 then [1, 0] else [0, 1]

/-- The slot that the ROM accepts, and its image (R398, R399): the first in order that it accepts. -/
def bootSlot (s : State) (slots : List (Option FirstStage)) : Option (Nat × FirstStage) :=
  (s.bootOrder.filterMap (fun k => ((slots.getD k none).filter s.imageOk).map (fun f => (k, f)))).head?

/-- The digest of a first-stage image, over its signed bytes and its signature; the place of its header's fields is open (log entry 127). -/
def imageDigest (f : FirstStage) : List Byte := sha512 (f.image.body ++ f.image.sig)

/-- SEC_BOOT and the digests of the accepted image (R400, R423); `source`: 0 slot A, 1 slot B, 2 the monitor. -/
def takeFirst (s : State) (source : Nat) (f : FirstStage) : State :=
  let key := s.ownerSigner f.image
  let w := source + 4 * key.getD 0 + 16 * b2n key.isNone + 32 * f.svn + 4096 * s.start.bootSel.toNat
  let s1 := (s.setReg (pgSec + 0x108) (BitVec.ofNat 32 w)).updSec (fun c => { c with firstStage := imageDigest f, components := f.components.map (fun p => sha512 p.body) })
  { s1 with start := { s1.start with first := some f } }

/-- BOOT_SEL names the image loaded over the monitor UART, in the states that permit it (R398). -/
def loadsOverUart (s : State) : Bool := s.start.bootSel = 2 && decide (s.sec.life ≤ 2)

/-- Every component of an image is signed by the firmware key, whose hash is in the ROM (R400). -/
def componentsOk (s : State) (f : FirstStage) : Bool := f.components.length = 4 && f.components.all (fun p => signedBy p s.fuses.rom.firmware)

/-- At a cold start the identity key signs the certificate of the new attestation key (R402). -/
def certify (s : State) : State :=
  if s.start.warm then s
  else
    let tbs := Config.attestationTbs s.fuses.serial s.sec.life s.sec.firstStage (ecPublic s.sec.attestKey)
    let k := s.drbgBytes 66
    k.2.updSec (fun c => { c with attestCert := tbs ++ ecdsaSign s.sec.identityKey (ecKey k.1) tbs })

/-- An accepted first stage runs (R400, R342): a component that fails its signature stops start-up, and so do two host-role ports. -/
def firstStage (s : State) (source : Nat) (f : FirstStage) : State :=
  let s1 := (s.takeFirst source f).certify
  if !s.componentsOk f then (s1.recordErr pgSec 0x5B02).stopStart
  else if s.start.role0 && s.start.role1 then (s1.recordErr (pgPlat 0) 0x5C03).stopStart
  else s1.nextStart

/-- The CAL_USER words of the configuration block (R468). -/
def loadCal (s : State) : State :=
  match s.start.first with
  | none => s
  | some f => forEach f.calUser s (fun s x =>
      let off := x.1 % 0x1000
      match s.block (x.1 / 0x1000 * 0x1000) with
      | some (b, i) => if 0x080 ≤ off ∧ off % 4 = 0 ∧ (off - 0x080) / 4 < blkCalWords b i then s.setFld x.1 15 0 x.2.toNat else s
      | none => s)

/-- A map is a permutation of the codes 0–27 (R345). -/
def mapOk (m : List (BitVec 5)) : Bool := m.length = 28 && (List.range 28).all (fun c => m.contains (BitVec.ofNat 5 c))

/-- A port takes an address map. -/
def setMap (s : State) (p : Nat) (m : List Nat) : State :=
  forEach (List.range 28) s (fun s b => s.setFld (pgPlat p + 0x140 + 4 * (b / 6)) (5 * (b % 6) + 4) (5 * (b % 6)) (m.getD b 0))

/-- The default map places column, bank, row and channel in ascending order (R345). -/
def defaultMap (s : State) (p : Nat) : State := s.setMap p (List.range 28)

/-- Device-role ports of a list load their map and assert PORT_READY; their reads are no longer vacant (R342, R344, R345). -/
def readyPorts (s : State) (ps : List Nat) : State :=
  let m := ((s.start.first).map (·.addrMap)).getD []
  forEach ps s (fun s p =>
    let s1 := s.updPort p (fun P => { P with vacant := false })
    if (if p = 0 then s.start.role0 else s.start.role1) then s1
    else
      let s2 := if mapOk m then s1.setMap p (m.map (·.toNat)) else (s1.defaultMap p).recordErr (pgPlat p) 0x5C04
      s2.setFld (pgPlat p + 0x100) 1 1 1)

/-- Queued entries of a tenant's ring end LOST (R243); an entry whose line is marked cannot be read, and is only told of later. -/
def loseQueued (r : Nat) : Nat → State → State
  | 0, s => s
  | fuel + 1, s =>
    let i := (s.ring r).head.toNat
    let a := (s.ring r).entryAddr i
    let s1 := s.takeHead r
    loseQueued r fuel (
      if s.dram.marked.contains (s.devKey a / 64) then { s1 with start := { s1.start with memLost := s1.start.memLost ++ [(ringTenant r, a)] } }
      else if (s.ring r).kind = 2 then s1.completeControl r i (CtlEntry.of (s.ringEntry r i)) csLost 0
      else s1.completeUnrun (Waybill.of (s.ringEntry r i)) i csLost)

/-- Placed work ends at a warm reset (R243): a tenant-0 step that had committed is applied and OK, everything else that has not ended is LOST, as is a step whose record cannot be read. -/
def losePlaced (s : State) (p : Placement) : State :=
  let s1 := forEach p.pinned s (fun s n => s.unpin n)
  if p.entry.isSome then s1
  else
    let s2 := s1.setRing p.wb.ring { s1.ring p.wb.ring with inflight := (s1.ring p.wb.ring).inflight - 1 }
    if p.ended then s2.updDisp (fun d => { d with completions := d.completions.map (fun c => if c.wid = some p.wid then { c with wid := none } else c) })
    else if p.serving && p.wb.tenant = 0 && !s2.stepMarked p.wb && s2.stepCommitted p.wb then (s2.applyRecord p.wb.arg0).completeRan p csOk
    else s2.completeRan p csLost

/-- Every waybill queued or placed at a warm reset is completed once (R243). -/
def closeReset (s : State) : State :=
  let tenantRings := (s.disp.rings.filter (fun e => ringTenant e.1 ≠ 0)).map (·.1)
  let s1 := forEach (tenantRings.filter (fun r => (s.ring r).kind ≠ 1)) s (fun s r => loseQueued r (s.ring r).fill s)
  let s2 := forEach (s.disp.placements ++ s.disp.ahead) s1 (fun s p => s.losePlaced p)
  let s3 := s2.updDisp (fun d => { d with
    placements := [], ahead := []
    rings := d.rings.map (fun e => (e.1, { (if e.2.kind = 1 then { e.2 with head := 0, tail := 0 } else e.2) with enable := e.2.enable && ringTenant e.1 = 0 })) })
  s3

/-- Pages of the drive reserve, which the Stationmaster sizes from RESERVE of the timetable image's header (R44, R244): whole pages. -/
def reservePages (img : List Byte) : Nat := ((Timetable.of img).reserve + pageBytes - 1) / pageBytes

/-- Step 5 of a cold start (R44): the drive reserve by the header of the timetable image; where it starts within a stack is the Stationmaster's choice. -/
def coldTables (s : State) (r : StepReport) : State :=
  let s1 := ((s.placeReserve (reservePages r.image) r.reserveAt).buildPool).writeBases
  let k := (s1.updSec (fun c => { c with tenant0Keys := true, tenant0Cur := false, manifests := 0 })).drbgBytes 32
  let s2 : State := { k.2 with dram := { k.2.dram with integrityKey := k.1 } }
  ((s2.installKey 0 false).writeTenant0).provideDrive r.provision

/-- Step 5 of a warm start (R243, R307, R418, R438): the drive reserve is kept and placed anew, the pages of tenants 1–4,095 are zeroed. -/
def warmTables (s : State) : State :=
  let s1 := ((s.closeReset.scrubTenants).dropSessions.buildPool).renewReserve
  let s2 := if s1.dram.reserveSites.length < 2 then s1.setDegraded else s1
  ((s2.buildPool).writeBases).writeTenant0.ringBells

/-- Retired positions stay retired over a warm reset (R24): the spare takes the lowest one's number again. -/
def applyRetired (s : State) (d : Nat) : State :=
  let gone := s.fld (pgDie d + 0x114) 16 0
  let s0 := if bitAt gone 16 then s.setFld (pgDie d + 0x110) 1 0 2 else s
  forEach ((List.range 16).filter (bitAt gone)) s0 (fun s n =>
    let t := 16 * d + n
    if s.spareState d = 0 then ((s.setFld (pgDie d + 0x110) 1 0 1).setFld (pgDie d + 0x110) 13 8 t).setPhys t 16 else s.vacate t)

/-- Failing rows of a tile at start-up (R73): the fuse map's, those repaired at the last cold start, what the self-test finds, and at a cold start the rows
recorded as weak. -/
def failingRows (s : State) (r : StepReport) (t : Nat) : List Nat :=
  let k := s.unitKey t
  ((smGet s.fuses.rowFuse [] k ++ smGet s.flash.softRows [] k ++ (r.badRows.filter (fun x => x.1 = t)).map (·.2)
    ++ (if s.start.warm then [] else smGet s.flash.weakRows [] k)).eraseDups).filter (· < 1280)

/-- A tile's failing rows are mapped onto its repair rows (R73). -/
def repairTile (s : State) (r : StepReport) (t : Nat) : State :=
  let rows := (s.failingRows r t).take 16
  let k := s.unitKey t
  let s1 : State := if s.start.warm then s else { s with flash := { s.flash with weakRows := smErase s.flash.weakRows k, softRows := smPut s.flash.softRows k rows } }
  s1.setRepair t rows

/-- Step 6: self-test, repair, coupling and injection; at a cold start the units marked worn are retired (R457). A tile with more than 16 failing rows fails its self-test (R73). -/
def startTiles (s : State) (r : StepReport) : State :=
  let s0 := forEach s.sites s (fun s d => s.applyRetired d)
  let units := s0.allTiles ++ ((List.range 4).map (64 + ·)).filter s0.tilePresent
  let tooMany := units.filter (fun t => decide (16 < (s0.failingRows r t).length) && !r.failTiles.contains t)
  let s1 := forEach units s0 (fun s t => s.repairTile r t)
  let worn := if s.start.warm then s1 else (forEach (units.filter (fun t => s1.flash.worn.contains (s1.unitKey t))) s1 (fun s t =>
    s.updTile t (fun T => { T with worn := true }))).retireWorn
  let s2 := (((worn.selfTestAll (r.failTiles ++ tooMany)).coupleWaiting).injectOnce r.injOncePairs r.injOnceLanes).injectAll r.injFailPairs r.injFailLanes
  ({ s2 with ilk := { s2.ilk with coupled := true } } : State).noteDegraded

/-- What the islands are told once they supervise: a narrow Viaduct (R432), a single copy of the drive reserve (R307). -/
def reportNarrow (s : State) : State :=
  let s1 := if s.narrowLinks = [] then s else s.withdrawn 0x4503
  if s1.dram.reserveSites.length < 2 then s1.withdrawn 0x4705 else s1

/-- The customer safety table is signed by an owner slot (R332, R400). -/
def tableSigned (s : State) (t : SafetyTable) : Bool := (List.range 4).any (fun k => s.slotGood k && signedBy t.signed (smGet s.fuses.ownerHash [] k))

/-- The running step of start-up ends. -/
def endStart (s : State) (r : StepReport) : State :=
  match s.start.step with
  | 1 => if s.sec.life = 5 then (forEach [0, 1] s (fun s p => s.setFld (pgPlat p + 0x100) 1 1 0)).stopStart else s.nextStart
  | 2 =>
    if s.loadsOverUart then
      match s.mon.booted with
      | some f => s.firstStage 2 f
      | none => s
    else
      match s.bootSlot r.slots with
      | none => (s.recordErr pgSec 0x5B01).stopStart
      | some (k, f) => s.firstStage k f
  | 3 =>
    let s1 := (s.loadCal).trainViaducts r.lanes
    match s1.deadLinks with
    | [] => s1.nextStart
    | l :: ls =>
      let s2 := forEach (l :: ls) s1 (fun s l => s.recordErr (viaPages.getD (2 * l) 0) 0x5504)
      (s2.readyPorts (if (l :: ls).contains 4 then [0] else [0, 1])).stopStart
  | 4 => (s.readyPorts [0, 1]).nextStart
  | 5 =>
    let n := min 4 r.trngFails
    let s1 := forEach (List.range n) (s.bringStacks r s.start.warm) (fun s _ => s.entropyDown)
    if s.start.warm then (if n = 4 then s1 else s1.entropyUp).warmTables.nextStart
    else if n = 4 then s1.stopStart
    else (s1.entropyUp.coldTables r).nextStart
  | 6 =>
    let s1 := if s.safety.owed = [] then s.startTiles r else (s.retest r).noteDegraded
    if s1.safety.owed = [] then s1.nextStart else s1
  | 7 =>
    match r.table with
    | none => (s.recordErr pgSafety 0x5B04).stopStart
    | some t =>
      if !(t.okA && t.okB && s.tableSigned t) then (s.recordErr pgSafety 0x5B04).stopStart
      else
        let x := ((s.loadTable t).setIslands 1).takeTimetable r.image
        if x.1 then x.2.reportNarrow.nextStart else x.2.stopStart
  | 8 =>
    if s.safety.owed ≠ [] then (s.retest r).noteDegraded
    else if r.ok && r.failTiles = [] then
      let s1 := (s.declareDrive).serviceNotice
      let s2 := forEach s.start.memLost s1 (fun s x => s.notice 8 0 x.1 x.2)
      ({ s2 with start := { s2.start with step := 0, memLost := [] } } : State).poolCheck
    else s.proofFails r.failTiles
  | _ => s

/-- Deadlines of R435 from release, in ms; the right-hand column below 0 °C, never at a warm start. -/
def startDeadline (s : State) : Nat :=
  (if s.start.chilled && !s.start.warm then [0, 2, 20, 35, 45, 200, 270, 330, 400] else [0, 2, 20, 35, 45, 120, 160, 200, 250]).getD s.start.step 0

end State

/-! ### Resets -/

/-- PORST_N low (R434): everything that the fuses do not hold is lost. -/
def execPorstNAssert (s : State) : Res :=
  .next { State.reset with pending := s.pending, fuses := s.fuses, flash := s.flash, free := s.free }

/-- The highest reading of some diodes is below 0 °C (R435). -/
def State.chilledBy (s : State) (ds : List (Nat × Nat × Int)) : Bool := ds.any (fun x => (s.factReading x).isSome) && ds.all (fun x => (s.factReading x).all (· < 0))

/-- PORST_N released (R434, R435, R339): the straps are sampled; with a diode at 105 °C by CAL_FACT alone the internal reset stays (R469). Readings come in 1/8 °C. -/
def execPorstNRelease (role0 : Bool) (role1 : Bool) (bootSel : BitVec 3) (diodes : List (Nat × Nat × Int)) (s : State) : Res :=
  .next (if s.start.hold ≠ .porst then s
    else
      let s1 : State := { s with start := { s.start with role0 := role0, role1 := role1, bootSel := bootSel, chilled := s.chilledBy diodes, coldOwed := true } }
      if s.hotDiodes diodes 840 ≠ [] then { s1 with start := { s1.start with hold := .hot } } else s1.beginStart)

/-- INTERNAL_RESET_RELEASE (R434): every hot spot reads below 105 °C. -/
def execInternalResetRelease (s : State) : Res := .next (if s.start.hold = .hot then s.beginStart else s)

/-- WARM_RST_N low (R438); a thermal trip and PORST_N hold the device whatever this pin does (R450), and the Returned transition goes through (R420). Pins that an island has forced may be released
at the next drive-ready (R334). -/
def execWarmReset (s : State) : Res :=
  .next (if s.start.hold ≠ .none ∧ s.start.hold ≠ .warm then s
    else
      let s1 := s.warmStop
      { s1 with start := { s1.start with safeReset := false }, pins := { s1.pins with safeA := true, safeB := true } })

/-- WARM_RST_N released, or 100 µs after SAFE_RESET (R438): start-up runs. -/
def execWarmResetRelease (s : State) : Res := .next (if s.start.hold = .warm then s.beginStart else s)

/-- START_UP_STEP_END (R435, R436). A recovery in progress comes first. -/
def execStartUpStepEnd (r : StepReport) (s : State) : Res :=
  whenLive s (fun s => if s.start.stopped || s.start.step = 0 || s.safety.phase ≠ .none then s else s.endStart r)

/-- Start-up that has run out of time stops; a cold start that stops before the end of step 5 is owed again (R436, R438). -/
def State.startExpires (s : State) : State :=
  { s with start := { s.start with stopped := true, step := 9, coldOwed := s.start.coldOwed || (!s.start.warm && s.start.step ≤ 5) } }

/-- START_LATE (R436): drive-ready not reached within 1,000 ms of release; the record names the step that ran (R464). A cold start that stops before the end of step 5 is owed
again (R438). -/
def execStartLate (s : State) : Res :=
  whenLive s (fun s =>
    if s.start.step = 0 || 9 ≤ s.start.step || decide (s.now ≤ s.start.releasedAt + 1000000000) then s
    else
      (s.recordErr (pgHub 0) 0x5A02 s.start.step).startExpires)

/-! ### Viaduct frames (R424–R427) -/

/-- CRC-16 step: eight shifts of polynomial 0x1021, most significant bit first. -/
def crc16Shift : Nat → Nat → Nat
  | 0, c => c
  | n + 1, c => crc16Shift n (if 0x8000 ≤ c then (2 * c) % 65536 ^^^ 0x1021 else 2 * c)

/-- CRC-16 of a byte string, initial value 0xFFFF, no final XOR (R425). -/
def crc16 (bs : List Byte) : Nat := bs.foldl (fun c b => crc16Shift 8 (c ^^^ (b.toNat * 256))) 0xFFFF

/-- Sideband bits [31:16] of a frame (R425). -/
def sideband (f : ViaFrame) : Nat := f.cls.toNat + 4 * f.dest.toNat + 32 * f.seq.toNat + 1024 * f.credit.toNat + 16384 * f.kind.toNat

/-- The frame with the CRC that its sender computes. -/
def sealFrame (f : ViaFrame) : ViaFrame := { f with crc := BitVec.ofNat 16 (crc16 (f.flit ++ natLE 2 (sideband f))) }

/-- Receive credits of a half by class (R429). -/
def viaCredits : List Nat := [8, 16, 96, 8]

/-- Frames of a class that one requester may have outstanding on a route: classes 0 and 1 are bounded (R429). -/
def viaBound (cls : Nat) : Option Nat := if cls = 0 then some 4 else if cls = 1 then some 16 else none

/-- A class that the sender may send now: it holds a credit of it, and a debug frame has 49 others between it and the last (R41, R429). -/
def Link.maySend (l : Link) (cls : Nat) : Bool := decide (0 < l.credits.getD cls 0) && (decide (cls ≠ 3) || decide (49 ≤ l.sinceDebug))

/-- The frame of a class whose turn it is (R38, R41): round robin over the 73 sources from the one granted last on, each of which counts as one requester, and within a source its
oldest frame. -/
def Link.turn (l : Link) (c : Nat) : Option ViaFrame :=
  ((List.range 73).map (fun i => (l.last.getD c 72 + 1 + i) % 73)).findSome? (fun r => l.waiting.find? (fun f => f.cls.toNat = c && f.src % 73 = r))

/-- The frame that the sender sends at a frame position (R41, R429): of the first class in priority that it may send. -/
def Link.pick (l : Link) : Option ViaFrame :=
  ((List.range 4).find? (fun c => l.maySend c && (l.turn c).isSome)).bind l.turn

/-- A debug frame waits for the cap alone (R429). -/
def Link.debugHeld (l : Link) : Bool :=
  l.waiting.any (fun f => f.cls = 3) && decide (0 < l.credits.getD 3 0) && decide (l.sinceDebug < 49)

/-- The sequence number after the last one that the sender used. -/
def Link.nextSeq (l : Link) : BitVec 5 := ((l.replay.getLast?).map (fun f => f.seq + 1)).getD 0

/-- The sending end after the waiting frame `g` has left it as `f`. -/
def Link.sends (l : Link) (g f : ViaFrame) : Link :=
  { l with
    waiting := l.waiting.erase g
    credits := l.credits.set f.cls.toNat (l.credits.getD f.cls.toNat 0 - 1)
    sinceDebug := if f.cls = 3 then 0 else l.sinceDebug + 1
    held := if f.cls = 3 then false else l.held
    last := l.last.set f.cls.toNat (f.src % 73)
    replay := (l.replay ++ [f]).drop (l.replay.length + 1 - 32) }

/-- The sending end after a frame position without a data frame. -/
def Link.idles (l : Link) : Link := { l with sinceDebug := l.sinceDebug + 1 }

/-- Credits of a class come back, up to the receiver's pool (R425, R429). -/
def Link.creditBack (l : Link) (credit : BitVec 4) : Link :=
  let c := credit.toNat / 4
  { l with credits := l.credits.set c (min (viaCredits.getD c 0) (l.credits.getD c 0 + credit.toNat % 4 + 1)) }

/-- A frame's CRC holds over its flit and sideband bits [31:16]. -/
def frameOk (f : ViaFrame) : Bool := f.flit.length = 64 && crc16 (f.flit ++ natLE 2 (sideband f)) = f.crc.toNat

namespace State

/-- A link record: key `4 · page + bundle`. -/
def link (s : State) (page b : Nat) : Link :=
  smGet s.links { expect := 0, discarding := false, replay := [], retries := 0, delivered := [], thresh := 64, credits := viaCredits, waiting := [], sinceDebug := 49,
                  held := false, last := [72, 72, 72, 72], asked := none } (4 * page + b)
def setLink (s : State) (page b : Nat) (l : Link) : State := { s with links := smPut s.links (4 * page + b) l }

/-- The other end of a Viaduct. -/
def viaOther (page : Nat) : Nat := if page % 2 = 0 then page + 1 else page - 1

/-- Bundle `b` of the Viaduct of an end runs. -/
def bundleRuns (s : State) (page b : Nat) : Bool :=
  decide (page < 14) && decide (b < 4) && s.blkPresent .via page && s.fld (viaPages.getD page 0 + 0x100) b b = 1

/-- Counts an event of a Viaduct end at its die or hub (R472): 0 frames sent, 1 retries. -/
def viaEvent (s : State) (page cls ev : Nat) : State :=
  let d := viaEnds.getD page 0
  let col := 8 ≤ page
  if d < 4 then s.countEvent (pgDieCnt d) (8 + ev) (cls + 4 * b2n col)
  else s.countEvent (pgHubCnt (d - 4)) (0xA + ev) (cls + 4 * (if col then 0 else 1 + page / 2 % 2))

/-- A receiving end asks for a resend (R426): every later frame is discarded up to the resent one, RETRY naming it is to go out on the reverse half, and the bundle's
retry is counted. -/
def askRetry (s : State) (page b : Nat) (f : ViaFrame) : State :=
  let l := s.link page b
  ((s.setLink page b { l with discarding := true, retries := l.retries + 1, asked := some l.expect }).bump (viaPages.getD page 0 + 0x120 + 4 * b)).viaEvent page f.cls.toNat 1

/-- The end at die `y` that receives from a neighbouring die `x` (R16, R433). -/
def viaEnd (x y : Nat) : Option Nat := (List.range 14).find? (fun e => viaEnds.getD e 0 = y && viaEnds.getD (viaOther e) 0 = x)

/-- The bundle on which a source's traffic crosses a Viaduct (R428). -/
def bundleFor (s : State) (page src : Nat) : Option Nat :=
  let run := (List.range 4).filter (s.bundleRuns page)
  if run = [] then none else some (run.getD (src % run.length) 0)

/-- A frame joins those that wait at a sending end. -/
def joinSender (s : State) (page b : Nat) (f : ViaFrame) : State :=
  let l := s.link page b
  s.setLink page b { l with waiting := l.waiting ++ [f] }

/-- A requester has as many frames of a class outstanding on a route as it may (R429), so that its source keeps the next one. -/
def atBound (s : State) (f : ViaFrame) : Bool :=
  match viaBound f.cls.toNat with
  | none => false
  | some n => decide (n ≤ ((s.links.flatMap (fun e => e.2.waiting)).filter (fun g => g.src = f.src && g.cls = f.cls && g.dest = f.dest)).length)

/-- A frame that has reached die `x` on its way elsewhere waits at the Viaduct that its route takes next (R17, R428). -/
def forwardFrame (s : State) (x : Nat) (f : ViaFrame) : State :=
  match viaEnd x (nextHop x f.dest.toNat) with
  | none => s
  | some page =>
    match s.bundleFor page f.src with
    | none => s
    | some b => s.joinSender (viaOther page) b f

/-- A receiving end takes a frame (R425, R426): delivered exactly once and in order, and sent on where its destination lies further along its
route. DEST 6 and 7 are discarded and counted as a CRC error. Only data frames take a sequence number (log entry 41). -/
def takeFrame (s : State) (page b : Nat) (f : ViaFrame) : State :=
  let l := s.link page b
  let next := { l with expect := l.expect + 1, discarding := false }
  if !frameOk f then (s.bump (viaPages.getD page 0 + 0x130)).askRetry page b f
  else if 6 ≤ f.dest.toNat then
    (if f.kind = 0 ∧ f.seq = l.expect then s.setLink page b next else s).bump (viaPages.getD page 0 + 0x130)
  else if f.kind ≠ 0 then s
  else if f.seq ≠ l.expect then s
  else
    let s1 := s.setLink page b { next with delivered := l.delivered ++ [f] }
    if f.dest.toNat = viaEnds.getD page 0 then s1 else s1.forwardFrame (viaEnds.getD page 0) f

/-- A RETRY reaches an end: it resends from the named frame, in order, and the other end takes the frames. Each takes a frame position of the half (R429). -/
def resend (s : State) (page b : Nat) (seq : BitVec 5) : State :=
  let s1 := s.setLink (viaOther page) b { s.link (viaOther page) b with asked := none }
  let again := (s1.link page b).replay.dropWhile (fun f => f.seq ≠ seq)
  forEach again s1 (fun s f =>
    let l := s.link page b
    ((s.setLink page b { l with sinceDebug := if f.cls = 3 then 0 else l.sinceDebug + 1 }).viaEvent page f.cls.toNat 0).takeFrame (viaOther page) b (sealFrame f))

/-- A debug frame of the half that ends at `page`, held by the cap, is counted once, at the receiving end (R429, R433). -/
def countHeld (s : State) (page b : Nat) : State :=
  let l := s.link (viaOther page) b
  if l.debugHeld && !l.held then (s.setLink (viaOther page) b { l with held := true }).bump (viaPages.getD page 0 + 0x134) else s

/-- One frame position of a half that ends at `page`: a RETRY that the sender owes goes first (R426), else the sender picks the frame that leaves (R429). `own` is what the
sender holds of the frame `f` that arrived there: where the sender picks another frame, that one arrives in its place and `own` waits. -/
def framePosition (s : State) (page b : Nat) (own f : ViaFrame) : State :=
  let l := s.link (viaOther page) b
  match l.asked with
  | some q => (s.setLink (viaOther page) b l.idles).resend page b q
  | none =>
    match l.pick with
    | none => (s.setLink (viaOther page) b l.idles).countHeld page b
    | some g =>
      let out := if g = own then g else sealFrame { g with seq := l.nextSeq }
      let s1 := ((s.setLink (viaOther page) b (l.sends g out)).countHeld page b).viaEvent (viaOther page) g.cls.toNat 0
      s1.takeFrame page b (if g = own then f else out)

/-- The credits that a good frame returns go to the sender of the reverse half, which stands at the end that the frame reaches (R425). -/
def takeCredits (s : State) (page b : Nat) (f : ViaFrame) : State :=
  if frameOk f && decide (f.dest.toNat < 6) && (f.kind = 0 || f.kind = 1) then s.setLink page b ((s.link page b).creditBack f.credit) else s

/-- What the sender holds of a data frame that arrives: the frame itself, or where its CRC fails on the way a flit of its own, which is open (log entry 41). -/
def sentFrame (s : State) (f : ViaFrame) : ViaFrame × State :=
  if frameOk f then (f, s)
  else
    let x := s.freshBytes 64
    (sealFrame { f with flit := x.1 }, x.2)

end State

/-- VIADUCT_FRAME (R425, R426, R428, R429): a frame position passes on a half, in which a frame arrives at its end. A data frame is one that its source
has handed to the sender; it travels on the bundle of its source alone, and a source at its bound hands over none. -/
def execViaductFrame (page : Nat) (bundle : Nat) (f : ViaFrame) (s : State) : Res :=
  whenLive s (fun s =>
    if !s.bundleRuns page bundle then s
    else if f.kind = 0 then
      if s.bundleFor page f.src ≠ some bundle || s.atBound f then s
      else
        let x := (s.takeCredits page bundle f).sentFrame f
        (x.2.joinSender (State.viaOther page) bundle x.1).framePosition page bundle x.1 f
    else if !frameOk f || decide (6 ≤ f.dest.toNat) then s.takeFrame page bundle f
    else if f.kind = 2 then (s.viaEvent (State.viaOther page) f.cls.toNat 0).resend page bundle f.seq
    else (s.takeCredits page bundle f).framePosition page bundle f f)

/-- RETRY (R426): a RETRY frame arrives at an end, naming the first frame to resend. -/
def execRetry (page : Nat) (bundle : Nat) (seq : BitVec 5) (s : State) : Res :=
  whenLive s (fun s => if s.bundleRuns page bundle then s.resend page bundle seq else s)

/-- VIA_STORM (R427): a 1 ms window ends; more retries than the window's threshold are a level-4 fault of the bundle. A changed RETRY_THRESH counts from
the next window on. -/
def execViaStorm (page : Nat) (bundle : Nat) (s : State) : Res :=
  whenLive s (fun s =>
    if !s.bundleRuns page bundle then s
    else
      let l := s.link page bundle
      let p := viaPages.getD page 0
      let s1 := s.setLink page bundle { l with retries := 0, thresh := s.fld (p + 0x104) 15 0 }
      if l.thresh < l.retries then (s1.recordErr p 0x4503 bundle).startRecovery (.bundle page bundle) else s1)

end Sys2Proof.Machine
end

