-- ==== Sys2Proof/Machine/Services.lean ====
section
/-! DEFINITION. Drive service and depot service (R42–R58): requests, the parked-condition interlock, and the two handovers. -/

namespace Sys2Proof.Machine

open Sys2Proof

namespace State

/-! ### Requests (R45–R47, R53) -/

/-- The request ends: RESULT, and a service notice where it is refused (R46). -/
def refuseService (s : State) (v : Nat) : State := (s.setResult v).serviceNotice

/-- A depot-to-drive handover starts (R49): a seat of a convoy fences itself at once (R375). `request`: the time from which DURATION and the bound of R57 count. -/
def beginToDrive (s : State) (request result abandoned : Nat) : State :=
  let s1 := (((((s.setService 3).setStep 1).setFld (pgService + 0x104) 8 8 0).setFld (pgService + 0x104) 3 2 0).setResult result).fenceSelf 0
  { s1 with svc := some { toDepot := false, step := 1, trigger := s.now, request := request, driveWanted := false, abandoned := abandoned, lateLogged := false,
                          before := s.fld (pgService + 0x104) 8 8, failed := false } }

/-- A drive-to-depot handover starts (R51, step 1): the frame in progress is the last. -/
def beginToDepot (s : State) : State :=
  let s1 := (((s.setService 3).setStep 1).setFld (pgService + 0x104) 8 8 1).setResult 1
  let s2 : State := { s1 with svc := some { toDepot := true, step := 1, trigger := s.now, request := s.now, driveWanted := false, abandoned := 0,
                                            lateLogged := false, before := s.fld (pgService + 0x104) 8 8, failed := false } }
  s2.updDisp (fun d => { d with lastFrame := true, tickOwed := false })

/-- A drive-to-depot handover is cancelled in step 1 or 2 (R53): DIRECTION names the last completed one again (R45). -/
def cancelToDepot (s : State) : State :=
  let s1 := (((s.setService 1).setStep 0).setResult 3).setFld (pgService + 0x104) 8 8 ((s.svc.map (·.before)).getD 0)
  ({ s1 with svc := none } : State).updDisp (fun d => { d with lastFrame := false })

/-- What a drive request does to a handover in progress (R53, R55). -/
def driveDuring (s : State) (h : Handover) : State :=
  if !h.toDepot then s
  else if h.step ≤ 2 then s.cancelToDepot
  else if h.driveWanted then s
  else { s with svc := some { h with driveWanted := true, request := s.now } }

/-- A drive request with its GUARD (R49, R53). R53 has no line for a failed handover, nor for drive service that is not ready: both answer 0x12
(log entry 48). -/
def driveRequest (s : State) : State :=
  match s.svc with
    | some h => if h.failed then s.refuseService 0x12 else s.driveDuring h
    | none =>
      if s.service = 2 then s.beginToDrive s.now 1 0
      else if s.driveReady then s.refuseService 0x13
      else s.refuseService 0x12

/-- PARKED and PARK_OK hold: every island that supervises sees PARK_OK high (R48). -/
def parkedNow (s : State) : Bool :=
  s.fld (pgService + 0x100) 8 8 = 1 && [Side.a, Side.b].all (fun x => !s.islandOk x || (s.island x).park.level)

/-- A depot request with its GUARD (R47, R53, R334). -/
def depotRequest (s : State) : State :=
  if s.service = 2 then s.refuseService 0x13
  else if s.service = 3 ∨ !s.driveReady ∨ s.safety.holdAsked then s.refuseService 0x12
  else if s.fld (pgService + 0x100) 8 8 = 0 then s.refuseService 0x10
  else if !([Side.a, Side.b].all (fun x => s.islandOk x && (s.island x).park.level)) then s.refuseService 0x11
  else s.beginToDepot

/-- The parked condition has changed or been sampled (R48, R55): depot service freezes or unfreezes dispatch; a handover to depot takes its
loss as a drive request. -/
def parkCheck (s : State) : State :=
  if s.parkedNow then s.updDisp (fun d => { d with frozen := d.frozen && s.service ≠ 2 })
  else if s.service = 2 then
    if s.disp.frozen then s else (s.updDisp (fun d => { d with frozen := true })).notice 2
  else match s.svc with
    | some h => if h.toDepot then s.driveDuring h else s
    | none => s

/-- A write of SERVICE_REQ (R45): PARKED, then the request, then what the new PARKED means for the running service. -/
def writeServiceReq (s : State) (target : Nat) (parked : Bool) (guard : Nat) : State :=
  let s1 := s.setFld (pgService + 0x100) 8 8 (b2n parked)
  let s2 :=
    if target = 0 then s1
    else if target = 3 then s1.regAccess pgService
    else if guard ≠ 0x5E7C then s1.refuseService 0x14
    else if target = 1 then s1.driveRequest
    else s1.depotRequest
  s2.parkCheck

/-- A sample of PARK_OK through an island's filter (R47). -/
def parkSample (f : ParkFilter) (v : Bool) : ParkFilter :=
  if v = f.level then { f with run := 0 }
  else if f.run + 1 = 3 then { level := v, run := 0 }
  else { f with run := f.run + 1 }

/-! ### Depot to drive (R49) -/

/-- Ended placements give up their tiles before their completion records are written: the tiles are to be scrubbed. -/
def releaseEnded (s : State) : State :=
  let s1 := forEach (s.disp.placements.filter (·.ended)) s (fun s p => s.releasePlaced p.wid)
  s1.updDisp (fun d => { d with completions := d.completions.map (fun c => { c with wid := none }) })

/-- Waybills that step 1 abandons: running ones, lost ones that wait to be placed again, and the queued ones of tenants 1–4,095. -/
def abandonedCount (s : State) : Nat :=
  (s.disp.placements.filter (fun p => !p.ended && p.entry.isNone && !(p.aborting && p.status = csConvoyAbort))).length + (s.disp.ahead.filter (·.entry.isNone)).length
    + (s.disp.rings.filter (fun e => e.2.kind = 0 && ringTenant e.1 ≠ 0)).foldl (fun n e => n + e.2.fill) 0

/-- Every waybill that is placed or waits to be placed again ends LOST (R49). -/
def abandonPlaced (s : State) : State :=
  let s1 := forEach (s.disp.placements.filter (fun p => !p.ended)) s (fun s p => if p.started then s.abandonWork p.wid csLost else s.endUnstarted p.wid csLost)
  let s2 := s1.updDisp (fun d => { d with ahead := [] })
  forEach (s1.disp.ahead.filter (·.entry.isNone)) s2 (fun s p => s.endAhead p csLost)

/-- Step 1: issue stops, moves are discarded, and work is abandoned LOST. -/
def abandonAll (s : State) : State :=
  let n := s.abandonedCount
  let s1 := forEach (s.tiles.map (·.1)) s (fun s t => s.updTile t (fun T => { T with moves := [], ingress := [] }))
  let rs := s1.disp.rings.map (·.1)
  let s2 := s1.abandonPlaced.releaseEnded
  let s3 := forEach (rs.filter (fun r => ringTenant r ≠ 0)) s2 (fun s r => s.shutRing csLost r)
  let s4 := s3.loseIlk
  let s5 := forEach (s4.sec.sweeps.map (·.tenant)) s4 (fun s t => s.stopSweep t csLost)
  ({ s5 with signals := [] } : State).setReg (pgService + 0x10C) (BitVec.ofNat 32 n)

/-- Step 2: tenant pages are zeroed and keys destroyed, which completes the session closes that waited for it. -/
def scrubKeys (s : State) : State :=
  let s1 := s.scrubTenants
  (forEach s1.sec.closing s1 (fun s d => s.completeDeferred d csOk)).dropSessions

/-- Step 4: pairs and lanes couple. -/
def coupleDrive (s : State) : State := (((s.retireWorn.coupleWaiting).ilkEnter true)).noteDegraded

/-- The effect of a failed handover (R57): RESULT 0x20 and SAFE_HOLD, until a reset. -/
def handoverLost (s : State) : State :=
  (({ s with svc := s.svc.map (fun h => { h with failed := true }) } : State).setResult 0x20).serviceNotice.safeHold 0x5A03

/-- The handover has failed. -/
def failHandover (s : State) : State := (s.recordErr pgService 0x5A03).handoverLost

/-- DURATION in µs, saturating (R45). -/
def setDuration (s : State) (h : Handover) : State :=
  s.setReg (pgService + 0x108) (BitVec.ofNat 32 (min 0xFFFFFFFF ((s.now - h.request) / 1000)))

/-- The next step of a handover. -/
def nextHandover (s : State) (h : Handover) : State :=
  { s.setStep (h.step + 1) with svc := some { h with step := h.step + 1, lateLogged := false } }

/-- Step 8 has passed: drive service again. RESULT keeps the outcome of a request that stopped a handover to depot (R53; log entry 49). -/
def driveAgain (s : State) (h : Handover) : State :=
  let s1 := ((s.declareDrive.setReg (pgTick + 0x108) 0).setResult (if h.abandoned = 0 then 2 else h.abandoned)).setDuration h
  (({ s1 with svc := none } : State).serviceNotice).poolCheck

/-- The next step begins once no replaced unit owes a test (R56). -/
def nextOrRepeat (s : State) (h : Handover) : State := if s.safety.owed = [] then s.nextHandover h else s

/-- A pair or lane pair still waits for its verdict or injection test, so that it may yet come back: steps 7 and 8 wait for it. -/
def unitsWait (s : State) : Bool :=
  s.allTiles.any (fun t => (s.tile t).health = .verdict || (s.tile t).health = .injecting) || s.ilk.lanesOut.any (fun j => !s.ilk.lanesLost.contains j)

/-- The running step of the depot-to-drive handover ends. -/
def endToDrive (s : State) (h : Handover) (r : StepReport) : State :=
  match h.step with
  | 1 => s.abandonAll.nextHandover h
  | 2 => s.scrubKeys.nextHandover h
  | 3 => (s.scrubStores.scrubPsram).nextHandover h
  | 4 => s.coupleDrive.nextHandover h
  | 5 => ((((s.injectOnce r.injOncePairs r.injOnceLanes).injectAll r.injFailPairs r.injFailLanes).settlePassed s.safety.owed r).noteDegraded).nextOrRepeat h
  | 6 => ((((s.injectOwed r).selfTestAll r.failTiles).settlePassed s.safety.owed r).noteDegraded).nextOrRepeat h
  | 7 =>
    let x := (s.setIslands 1).takeTimetable r.image
    if !x.1 then x.2.failHandover else if !x.2.driveShort then x.2.nextHandover h else if x.2.unitsWait then x.2 else x.2.failHandover
  | 8 =>
    if decide (h.request + 1000000000 < s.now) then s.failHandover
    else if s.driveShort then (if s.unitsWait then s else s.failHandover)
    else if r.ok && r.failTiles = [] then s.driveAgain h else s.proofFails r.failTiles
  | _ => s

/-- The end of a step of the depot-to-drive handover (R49, R56): in steps 7 and 8 the units replaced since owe their tests first. -/
def endOrRepeat (s : State) (h : Handover) (r : StepReport) : State :=
  if s.safety.owed = [] ∨ h.step < 7 then s.endToDrive h r else (s.retest r).noteDegraded

/-! ### Drive to depot (R51) -/

/-- The drain of step 2 has ended: no frame in progress, no work running, no request outstanding. -/
def driveDrained (s : State) : Bool :=
  (!s.disp.inFrame || decide (((s.disp.tt).map (·.slots)).getD 0 ≤ s.slotNow))
    && s.disp.placements.all (·.ended) && s.disp.ahead.isEmpty && s.ilkOutstanding.isEmpty

/-- Step 3: the pairs and lanes decouple, worn tiles are retired (R457), and the floor of the clock goes with the timetable (R90, R244). -/
def decouple (s : State) : State :=
  let s1 := (((s.releaseEnded.coupleAll false).retireWorn).ilkEnter false).setFld (pgService + 0x104) 2 2 0
  let s2 := forEach (List.range 68) s1 (fun s t => s.setFld (pgTile t + 0x108) 12 8 0)
  s2.updDisp (fun d => { d with inFrame := false, tickOwed := false })

/-- Step 5: Ledger entries are cleared, the islands supervise health, and the tick source is the depot's (R51, R255). -/
def depotTables (s : State) : State :=
  let ps := s.ledger.entries.filter (fun e => e.2.valid)
  let s1 := forEach ps s (fun s e => s.givePage e.1 e.2.ppn)
  let s2 : State := { s1 with ledger := { s1.ledger with
    entries := [], caches := [], seqs := s1.ledger.seqs.map (fun e => (e.1, { e.2 with kvLen := 0, mappedSpans := 0 })) } }
  let s3 := (s2.releasePages.ringBells).setIslands 2
  let s4 := ((s3.setFld (pgTick + 0x104) 9 2 0).setFld (pgTick + 0x104) 1 0 2).setReg (pgTick + 0x108) 0
  let ms := s4.fld (pgTick + 0x100) 8 0
  s4.updDisp (fun d => { d with lastFrame := false, depotMs := ms, nextDepotTick := s.now + ms * 1000000, depotTickAt := s.now })

/-- Step 6: fresh keys, or an entropy failure that abandons the handover (R51, R401). -/
def freshKeys (s : State) (ok : Bool) (h : Handover) : Handover × State :=
  if ok then
    let k := s.entropyUp.freshBytes 66
    let s1 := k.2.updSec (fun c => { c with devicePub := ecPublic (ecKey k.1), devicePriv := ecKey k.1, drbgCount := c.drbgCount + 1 })
    (h, s1.setReg (pgCvy + 0x10C) (s1.reg (pgCvy + 0x10C) + 1))
  else ({ h with abandoned := if h.abandoned = 0 then 4 else h.abandoned }, s.entropyDown)

/-- Step 7 ends: the Manifest is signed, and depot service is ready. Every tile's diagnostic interval starts with the service (R331). -/
def depotAgain (s : State) (h : Handover) : State :=
  let x := s.signManifest 0 (List.replicate 64 0)
  let s1 := x.2.updSec (fun c => { c with serviceManifest := x.1 })
  let s2 := (((((s1.setService 2).setStep 0).setFld (pgService + 0x104) 3 3 1).setResult 2).setDuration h)
  let s3 := forEach s2.allTiles s2 (fun s t => s.updTile t (fun T => { T with lastPass := s.now }))
  ({ s3 with svc := none } : State).serviceNotice.parkCheck

/-- A checkpoint of steps 3–7 (R52, R53, R401): a drive request or an entropy failure stops the handover, and the one to drive runs from step 1. -/
def checkpoint (s : State) (h : Handover) : Option State :=
  if !h.toDepot || decide (h.step < 3) || !(h.driveWanted || h.abandoned ≠ 0) then none
  else
    let s1 := s.updSec (fun c => { c with devicePub := [], devicePriv := 0, serviceManifest := [] })
    let v := if h.driveWanted then 3 else h.abandoned
    some (s1.beginToDrive (if h.driveWanted then h.request else s.now) v v)

/-- The end of a step from 3 on is a checkpoint too (log entry 42). -/
def nextOrStop (s : State) (h : Handover) : State :=
  match s.checkpoint h with
  | some s1 => s1
  | none => if h.step = 7 then s.depotAgain h else s.nextHandover h

/-- The running step of the drive-to-depot handover ends. -/
def endToDepot (s : State) (h : Handover) (r : StepReport) : State :=
  match h.step with
  | 1 => s.nextHandover h
  | 2 => if s.driveDrained then s.nextHandover h else s
  | 3 => s.decouple.nextOrStop h
  | 4 => s.scrubStores.nextOrStop h
  | 5 => s.depotTables.nextOrStop h
  | 6 => let x := s.freshKeys r.ok h; x.2.nextOrStop x.1
  | 7 => s.nextOrStop h
  | _ => s

/-- Deadlines of R49 and R51 from the trigger, in ms. -/
def handoverDeadline (h : Handover) : Nat :=
  (if h.toDepot then [0, 1, 101, 111, 116, 200, 2200, 2500] else [0, 10, 70, 75, 76, 116, 176, 226, 246]).getD h.step 0

/-- A handover that has not failed. -/
def handing (s : State) : Option Handover := s.svc.filter (fun h => !h.failed)

end State

/-- SERVICE_REQ with TARGET = 0b01 (R45, R49, R53). -/
def execServiceReqDrive (who : Writer) (parked : Bool) (guard : BitVec 16) (s : State) : Res :=
  whenLive s (fun s => s.regWrite who (pgService + 0x100) (fun s => s.writeServiceReq 1 parked guard.toNat))

/-- SERVICE_REQ with TARGET = 0b10 (R45, R47, R51, R53). -/
def execServiceReqDepot (who : Writer) (parked : Bool) (guard : BitVec 16) (s : State) : Res :=
  whenLive s (fun s => s.regWrite who (pgService + 0x100) (fun s => s.writeServiceReq 2 parked guard.toNat))

/-- SERVICE_REQ with no request: PARKED alone (R48, R55). -/
def execParked (who : Writer) (value : Bool) (s : State) : Res :=
  whenLive s (fun s => s.regWrite who (pgService + 0x100) (fun s => s.writeServiceReq 0 value 0))

/-- PARK_OK_SAMPLE (R47, R48): each island samples the ball every 1 ms. -/
def execParkOkSample (a : Bool) (b : Bool) (s : State) : Res :=
  whenLive s (fun s =>
    ((s.updIsland .a (fun i => { i with park := State.parkSample i.park a })).updIsland .b
      (fun i => { i with park := State.parkSample i.park b })).parkCheck)

/-- HANDOVER_STEP_END (R49, R51, R56): the running step has done its work; a recovery comes first. -/
def execHandoverStepEnd (r : StepReport) (s : State) : Res :=
  whenLive s (fun s =>
    match s.handing with
    | none => s
    | some h => if s.safety.phase ≠ .none then s else if h.toDepot then s.endToDepot h r else s.endOrRepeat h r)

/-- HANDOVER_CHECKPOINT (R52, R53). -/
def execHandoverCheckpoint (s : State) : Res :=
  whenLive s (fun s =>
    match s.handing with
    | none => s
    | some h => if s.safety.phase ≠ .none then s else (s.checkpoint h).getD s)

/-- STEP_LATE (R58, R435): a step has missed its deadline; it is logged once, with its number. -/
def execStepLate (s : State) : Res :=
  whenLive s (fun s =>
    if s.start.step ≠ 0 then
      if s.start.stopped || s.start.late || decide (s.now ≤ s.start.releasedAt + 1000000 * s.startDeadline) then s
      else let s1 := s.recordErr pgService 0x5A01 s.start.step
           { s1 with start := { s1.start with late := true } }
    else match s.handing with
      | none => s
      | some h =>
        if h.lateLogged || decide (s.now ≤ h.trigger + 1000000 * State.handoverDeadline h) then s
        else { s.recordErr pgService 0x5A01 h.step with svc := some { h with lateLogged := true } })

/-- HANDOVER_FAILED (R57): drive-ready has not followed within 1.0 s, or the pairs left cannot hold the safety-rank tasks. -/
def execHandoverFailed (s : State) : Res :=
  whenLive s (fun s =>
    match s.handing with
    | none => s
    | some h => if !h.toDepot && (decide (h.request + 1000000000 < s.now) || (decide (8 ≤ h.step) && s.driveShort)) then s.failHandover else s)

end Sys2Proof.Machine
end

