-- ==== Sys2Proof/Machine/Registers.lean ====
section
/-! DEFINITION. Reads and writes of register pages (R11–R13, R459–R466), the values that a block computes, injection, and event counters
(R470–R474). -/

namespace Sys2Proof.Machine

open Sys2Proof

/-- Number of a reader: each has a capture of its own (R474). The port's direct reads reach the HUBCNT page of its own hub only. -/
def readerNo : Writer → Nat
  | .stationmaster _ => 0
  | .monitor => 1
  | .proxy _ => 2
  | .host _ => 3

/-- An event code and instance that CNT_SEL may name on a page (R472). -/
def eventListed (b : Blk) (inst ev sub : Nat) : Bool :=
  match b with
  | .tileCnt => decide (ev ≤ 0x13) && sub = 0
  | .hubcnt =>
    decide (ev ≤ 0x10) && !(inst = 0 && (ev = 0xE || ev = 0xF))
      && decide (sub ≤ (if 3 ≤ ev ∧ ev ≤ 6 then 1 else if ev = 0xA ∨ ev = 0xB then 11 else if ev = 0xC ∨ ev = 0xD then 3 else 0))
  | .diecnt => decide (ev ≤ 0xB) && decide (sub ≤ (if ev = 8 ∨ ev = 9 then 7 else if ev = 0xA then 4 else 0))
  | _ => false

namespace State

/-! ### Values that a block computes -/

/-- BLK_STAT (R461, R468). -/
def blkStat (s : State) (page : Nat) (b : Blk) (i : Nat) : Nat :=
  b2n (s.calClamped page b i) + 2 * b2n (smGet s.errq [] page ≠ []) + 4 * s.fld (page + 0x28) 31 31

/-- ERR_NEXT as a read finds it (R464). -/
def errNextWord (s : State) (page : Nat) : Word :=
  match smGet s.errq [] page with
  | [] => 0
  | w :: _ => if s.errOvf.contains page then setBits w 30 30 1 else w

/-- ILK_STAT (R288): MODE is 0 while the engine is idle in a handover or a start, before whose end no lane serves. -/
def ilkStat (s : State) : Nat :=
  let idle := s.service = 1 && !s.driveReady
  let mode := if idle then 0 else if s.service = 1 then 1 else if s.service = 2 then 2 else 0
  let prim := ((s.boundWorld s.ilkEpoch s.ilk.active).map (·.prim)).getD false
  mode + 4 * b2n s.ilk.running.isSome + 8 * b2n s.ilk.loading.isSome + 16 * b2n s.ilk.pendingLoad.isSome + 32 * (s.ilk.active % 2) + 64 * b2n prim
    + 256 * (if idle then 0 else s.lanes % 64)

/-- Status of the plan as ILK_PLAN shows it (R281). -/
def planCode : PlanStatus → Nat
  | .none => 0
  | .clear => 1
  | .failed => 2
  | .watching => 3

/-- Recovery phase as SAFE_STAT shows it (R337). -/
def phaseCode : Phase → Nat
  | .none => 0
  | .quench => 1
  | .discard => 2
  | .isolate => 3
  | .spareLoad => 4
  | .resume => 5

/-- An island has started and is not faulty (R337, R338). -/
def islandHealthy (s : State) (x : Side) : Bool := s.islandOk x && s.fld (pgIsl (sideNo x) + 0x100) 1 0 ≠ 0

/-- SAFE_STAT (R337). -/
def safeStat (s : State) : Nat :=
  phaseCode s.safety.phase + 8 * s.fld (pgSafety + 0x100) 4 3 + 32 * b2n s.pins.safeA + 64 * b2n s.pins.safeB + 128 * b2n (s.islandHealthy .a)
    + 256 * b2n (s.islandHealthy .b) + 512 * b2n s.safety.tableOk

/-- Pages of a sweeping tenant that are still under the old generation (R416). -/
def sweepLeft (s : State) (w : Sweep) : Nat := ((s.pagesOf w.tenant).filter (fun p => (s.owner p).keygen ≠ s.tenantGen w.tenant)).length

/-- Word `k` of a byte string. -/
def wordOf (bs : List Byte) (k : Nat) : Nat := bytesNat bs (4 * k) 4

/-- SEC registers (R423). -/
def secValue (s : State) (off : Nat) : Option Nat :=
  if off = 0x100 then some s.sec.life
  else if off = 0x104 then some s.fuseWord
  else if off = 0x110 then some s.sec.sessions.length
  else if off = 0x114 then some (match s.sec.sweeps with
    | w :: _ => w.tenant + 4096
    | [] => 0)
  else if off = 0x118 then some (match s.sec.sweeps with
    | w :: _ => s.sweepLeft w
    | [] => 0)
  else if 0x11C ≤ off ∧ off ≤ 0x128 then some (wordOf (fitBytes 16 s.fuses.serial) ((off - 0x11C) / 4))
  else if 0x12C ≤ off ∧ off ≤ 0x138 then some (wordOf (fitBytes 16 s.sec.challenge) ((off - 0x12C) / 4))
  else none

/-- MON_STAT (R480). -/
def monStat (s : State) : Nat :=
  b2n (decide (s.sec.life ≤ 2)) + (match s.mon.token with
    | some (scope, _) => 2 + 4 * (scope % 16)
    | none => 0)

/-- A tile reads as gated: it runs with an allowance of 0 (R89), or it is idle in depot service and its power is off (R37, R105). -/
def readsGated (s : State) (t : Nat) : Bool :=
  let v := s.fld (pgTile t + 0x100) 2 0
  (v = 2 && s.fld (pgTile t + 0x108) 4 0 = 0) || (v = 1 && s.idleGated t)

/-- The value that a register's block computes, where it is not the stored word. -/
def computed (s : State) (b : Blk) (i off : Nat) : Option Nat :=
  match b with
  | .hub =>
    if off = 0x100 then some (s.now % 2 ^ 32)
    else if off = 0x108 then some (listMask s.sites + 16 * sizeCode s.fuses.size) else none
  | .service => if off = 0x104 then some ((setBits (s.reg (pgService + 0x104)) 9 9 (b2n s.safety.islA.park.level)).toNat) else none
  | .tileCtl =>
    if off = 0x100 ∧ s.readsGated i then
      some ((setBits (s.reg (pgTile i + 0x100)) 2 0 3).toNat) else none
  | .ledger =>
    if off = 0x108 then some s.freePages
    else if off = 0x10C then some s.poolSize
    else if off = 0x114 then some (b2n (s.ledger.dropTarget ≠ 0) + 2 * b2n (decide (s.freePages < s.lowMark))) else none
  | .dispatch =>
    if off = 0x100 then some (b2n s.disp.frozen + 16 * listMask ((s.disp.classes.filter (fun e => e.2.held.isSome)).map (·.1))) else none
  | .safety => if off = 0x100 then some s.safeStat else none
  | .cvy =>
    let n := s.wide (pgCvy + 0x138) + ((List.range 16).map s.offeredBy).foldl (· + ·) 0
    if off = 0x138 then some (n % 2 ^ 32) else if off = 0x13C then some (n / 2 ^ 32 % 2 ^ 32) else none
  | .eth =>
    let m := (smGet s.fuses.macs 0 i).toNat
    if off = 0x118 then some (m % 2 ^ 32) else if off = 0x11C then some (m / 2 ^ 32) else none
  | .sec => s.secValue off
  | .ilk =>
    if off = 0x100 then some s.ilkStat
    else if off = 0x104 then some s.ilkEpoch
    else if off = 0x108 then some (planCode s.ilk.planStatus + 4 * b2n s.ilk.bsHit) else none
  | .isl =>
    if off = 0x100 then (if s.islandOk (if i = 0 then .a else .b) then none else some ((setBits (s.reg (pgIsl i + 0x100)) 1 0 3).toNat)) else none
  | .mon => if off = 0x100 then some s.monStat else none
  | _ => none

/-- Key of a reader's capture of a counter; `k` is the address of the counter's CNT_LO. -/
def captureKey (who : Writer) (k : Nat) : Nat := 4 * k + readerNo who

/-- A counter's 48 bits. -/
def counter (s : State) (k : Nat) : Nat := smGet s.cnt 0 k % 2 ^ 48

/-- Number of the counter at an offset, and which of its four registers it is. -/
def counterAt (b : Blk) (off : Nat) : Option (Nat × Nat) :=
  if 0x120 ≤ off ∧ off < 0x120 + 0x10 * blkCounters b then some ((off - 0x120) / 0x10, off % 0x10) else none

/-- What a register reads as to a reader (R461, R470). -/
def regValue (s : State) (who : Writer) (a : Nat) : Word :=
  match s.block (a / 0x1000 * 0x1000) with
  | none => 0
  | some (b, i) =>
    let page := a / 0x1000 * 0x1000
    let off := a % 0x1000
    if off = 0x014 then BitVec.ofNat 32 (s.blkStat page b i)
    else if off = 0x030 then s.errNextWord page
    else if 0x040 ≤ off ∧ off < 0x080 then
      (if (off - 0x040) / 4 < blkCalWords b i then BitVec.ofNat 32 ((smGet s.fuses.calFact 0 a).toNat % 65536) else 0)
    else match counterAt b off with
      | some (_, 4) => BitVec.ofNat 32 (s.counter a)
      | some (_, 8) => BitVec.ofNat 32 (smGet s.cntCapture 0 (captureKey who (a - 4)) / 2 ^ 32)
      | _ => match s.computed b i off with
        | some v => BitVec.ofNat 32 v
        | none => s.reg a

/-- A read of ERR_NEXT removes the entry that it returns (R464). -/
def takeErr (s : State) (page : Nat) : State :=
  match smGet s.errq [] page with
  | [] => s
  | _ :: q => { s with errq := (if q = [] then smErase s.errq page else smPut s.errq page q), errOvf := s.errOvf.filter (· ≠ page) }

/-- A read of HUB_TIME_LO captures the high half (R460). -/
def captureTime (s : State) (h : Nat) : State := s.setReg (pgHub h + 0x104) (BitVec.ofNat 32 (s.now / 2 ^ 32))

/-- A read of CNT_LO captures the counter for its reader (R474). -/
def captureCounter (s : State) (who : Writer) (k : Nat) : State := { s with cntCapture := smPut s.cntCapture (captureKey who k) (s.counter k) }

/-- Whether a read of a register has an effect, so that a mirror does not show it (R347). -/
def readActs (b : Blk) (off : Nat) : Bool :=
  off = 0x030 || (b = .hub && off = 0x100) || (match counterAt b off with
    | some (_, 4) => true
    | _ => false)

/-- The effect of a read. -/
def readEffect (s : State) (who : Writer) (a : Nat) : State :=
  match s.block (a / 0x1000 * 0x1000) with
  | none => s
  | some (b, i) =>
    let off := a % 0x1000
    if off = 0x030 then s.takeErr (a / 0x1000 * 0x1000)
    else if b = .hub ∧ off = 0x100 then s.captureTime i
    else match counterAt b off with
      | some (_, 4) => s.captureCounter who a
      | _ => s

/-- A read of a register: its value, and the state after it. -/
def readReg (s : State) (who : Writer) (a : Nat) : Word × State := (s.regValue who a, s.readEffect who a)

/-! ### Injection (R466) -/

/-- Whether a block detects a code; bits 11–0 are its class and code byte (R467). -/
def detects (b : Blk) (c : Nat) : Bool :=
  c = 0x103 || (match b with
  | .tileCtl => c = 0x201 || (decide (0x202 ≤ c) && decide (c ≤ 0x209)) || (decide (0x301 ≤ c) && decide (c ≤ 0x303)) || c = 0x601 || c = 0x602 || c = 0x605
      || (decide (0x701 ≤ c) && decide (c ≤ 0x703))
  | .dieCtl => c = 0x101 || c = 0x102 || c = 0x704 || c = 0x705
  | .dramc => c = 0x101 || (decide (0x401 ≤ c) && decide (c ≤ 0x40C)) || c = 0x801 || c = 0x802
  | .ledger => c = 0x40D
  | .via => decide (0x501 ≤ c) && decide (c ≤ 0x504)
  | .ilk => c = 0x101 || c = 0x102 || c = 0x304 || c = 0x305 || (decide (0x603 ≤ c) && decide (c ≤ 0x605)) || c = 0x701 || c = 0x702
  | .therm => c = 0x803 || c = 0x804 || c = 0x805 || c = 0x808
  | .hub => c = 0x101 || c = 0x102 || c = 0x806 || c = 0xA02
  | .safety => c = 0x807 || c = 0xB04 || (decide (0xE01 ≤ c) && decide (c ≤ 0xE05))
  | .cool => c = 0x809
  | .tick => decide (0x901 ≤ c) && decide (c ≤ 0x904)
  | .service => c = 0xA01 || c = 0xA03 || c = 0xA05
  | .dispatch => c = 0xA04
  | .sec => decide (0xB01 ≤ c) && decide (c ≤ 0xB03)
  | .plat => c = 0x101 || c = 0x102 || (decide (0xC01 ≤ c) && decide (c ≤ 0xC04))
  | .mon => c = 0x101 || c = 0x102
  | .cvy => c = 0x101 || c = 0x102 || (decide (0xD01 ≤ c) && decide (c ≤ 0xD05))
  | _ => false)

/-- The level at which R467 lists a class and code byte: the level of detection (R36). -/
def codeLevel (c : Nat) : Nat :=
  match c / 256 with
  | 0x1 => 5
  | 0x2 => if c = 0x201 then 1 else 2
  | 0x3 => if c ≤ 0x303 then 1 else 4
  | 0x4 => if c ≤ 0x405 then 1 else if c ≤ 0x40B then 4 else 5
  | 0x5 => if c ≤ 0x503 then 4 else 5
  | 0x6 => 2
  | 0x7 => if c ≤ 0x703 then 2 else if c = 0x704 then 3 else 4
  | 0x8 => if c ≤ 0x805 then 4 else 5
  | 0xD => 6
  | _ => 5

/-- A block detects an error code: its class and code byte, at the level at which R467 lists them (R36, R466). -/
def detectsCode (b : Blk) (code : Nat) : Bool := detects b (code % 4096) && code / 4096 = codeLevel (code % 4096)

/-- Codes that R467 marks "counted". -/
def countedCode (c : Nat) : Bool := c = 0x301 || c = 0x304 || c = 0x401

/-- What a real detection of a tile's code does besides its record. -/
def liveTile (s : State) (t code : Nat) : State :=
  let c := code % 4096
  if c = 0x201 ∨ (0x202 ≤ c ∧ c ≤ 0x209) then (match (s.tile t).wid with
    | some wid => s.abortWork wid csProgramError code
    | none => s)
  else if c = 0x302 then s.hwFault (tileSuspect t)
  else if c = 0x601 ∨ c = 0x602 then (if s.pairServes (t / 2) then s.hwFault (.unit (.pair (t / 2))) else s)
  else if c = 0x605 then (if s.pairTested (t / 2) then
      forEach [t / 2 * 2, t / 2 * 2 + 1] ((s.noteInjection (.pair (t / 2)) true).bump (pgSafety + 0x134)) (fun s u => s.isolateTile u .injecting) else s)
  else if c = 0x701 then s.isolateUnit (if (s.tile t).coupled then .pair (t / 2) else .tile t)
  else if c = 0x702 then (if (s.tile t).health ≠ .verdict then s else if (s.tile t).coupled then s.failPaired t code else s.failSolo t code)
  else if c = 0x703 then (s.markWorn t).faultNotice code t
  else s

/-- The same for the Interlocking engine. -/
def liveIlk (s : State) (code unit : Nat) : State :=
  let c := code % 4096
  let u : FaultUnit := if unit < 16 then .lane unit else .timetabling
  if c = 0x305 then s.ilkLost s.ilk.active
  else if c = 0x603 then s.hwFault (.unit (.lane (unit % 16)))
  else if c = 0x604 then s.hwFault (.unit .timetabling)
  else if c = 0x605 then (let s1 := (s.noteInjection u true).bump (pgSafety + 0x134); if unit < 16 then s1.isolateUnit u else s1)
  else if c = 0x701 then s.isolateUnit u
  else if c = 0x702 then (if unit < 16 then s.loseLane unit code else s)
  else s

/-- The same for a DRAM controller. -/
def liveDram (s : State) (d code unit : Nat) : State :=
  let c := code % 4096
  if c = 0x402 ∨ c = 0x403 ∨ c = 0x405 then s.hwFault .none
  else if c = 0x40C then s.assertBoth.safeReset code
  else if c = 0x801 then (s.notice 4 code 0 (s.thermArg d (s.heldBand d) + 2 ^ 24)).islandAct evThermal code
  else if c = 0x802 then s.hwFault (.dieTiles d)
  else if c = 0x406 then s.channelMigrates d (unit % 32)
  else s

/-- What a real detection of a code on a block does besides its record (R466). A code whose action needs a seat, a consist, a command or an image that the write does not
name takes none. -/
def liveAction (s : State) (b : Blk) (i code unit : Nat) : State :=
  let c := code % 4096
  match b with
  | .tileCtl => s.liveTile i code
  | .ilk => s.liveIlk code unit
  | .dramc => s.liveDram i code unit
  | .dieCtl => if c = 0x704 ∧ !s.suspectBusy (.die i) then s.quarantine i else if c = 0x704 ∨ c = 0x705 then s.startRecovery (.die i) else s
  | .via => if c = 0x503 then s.startRecovery (.bundle i (unit % 4)) else if c = 0x504 then s.safeReset code else s
  | .therm =>
    if c = 0x805 then s.hwFault (.dieSlack i)
    else if c = 0x808 then
      let s1 := forEach s.sites s.assertBoth (fun s d => s.setFld (pgDramc d + 0x100) 3 3 1)
      let s2 := s1.setFld (pgPwr + 0x104) 15 15 1
      { s2 with start := { s2.start with hold := .trip } }
    else s
  | .hub =>
    if c = 0x806 then s.assertBoth.safeReset code
    else if c = 0xA02 ∧ s.start.step ≠ 0 ∧ s.start.step < 9 then s.startExpires
    else s
  | .safety =>
    if c = 0x807 ∨ c = 0xE01 ∨ c = 0xE02 then s.safeReset code
    else if c = 0xE03 then s.islandGone (if unit = 1 then .b else .a)
    else if c = 0xE04 then (if s.safety.phase = .none then s else s.handOver)
    else if c = 0xE05 then (if s.safety.phase = .none then s else s.escalate)
    else s
  | .cool =>
    if c ≠ 0x809 ∨ s.coolLost then s
    else
      let s1 : State := { (s.setFld (pgCool + 0x104) 17 17 1) with power := { s.power with flowCap := 4, capUp := 0, lostOk := 0, below := 0 } }
      let s2 := (s1.showCap.notice 0xC code 0 2).setKc 0
      if s.service = 2 then s2 else s2.islandAct evThermal code
  | .plat =>
    if c = 0xC03 ∧ s.start.step ≠ 0 then s.stopStart
    else if c = 0xC04 ∧ s.fld (pgPlat i + 0x100) 1 1 = 0 then s.defaultMap i
    else s
  | .cvy => if c = 0xD02 then s.fenceNow 3 else s
  | .tick =>
    if c = 0x901 then s.safeReset code
    else if c = 0x902 then s.islandFails (if unit = 1 then .b else .a)
    else if c = 0x903 then (if s.watchesSync then s.useInternal else s)
    else if c = 0x904 then s.islandAct evFrameLost code
    else s
  | .service => if c = 0xA03 && (match s.svc with
      | some h => !h.toDepot
      | none => false) then s.handoverLost else s
  | .dispatch => if c = 0xA04 then (s.faultNotice code).islandAct evTaskFailed code true true else s
  | .sec => if c = 0xB03 then
      (match s.svc with
       | some h => if h.toDepot && h.step = 6 && h.abandoned = 0 then { s with svc := some { h with abandoned := 4 } } else s
       | none => s).setFld (pgSec + 0x10C) 1 0 0
    else s
  | _ => s

/-- A write of ERR_INJECT (R466). -/
def writeInject (s : State) (page : Nat) (b : Blk) (i : Nat) (w : Word) : State :=
  let s1 := if s.rwlOpen then s.setFld (page + 0x34) 30 30 (bitsOf w 30 30) else s
  let code := bitsOf w 15 0
  let unit := bitsOf w 21 16
  if bitsOf w 31 31 = 0 then s1
  else if !detectsCode b code then s1.regAccess page
  else
    let s2 := if countedCode (code % 4096) then s1.countErr page code else s1.recordErr page code unit
    if s1.fld (page + 0x34) 30 30 = 1 then s2.liveAction b i code unit else s2

/-! ### Counters (R470, R473) -/

/-- CNT_GO: a counter both started and stopped refuses the whole write. -/
def writeCntGo (s : State) (page : Nat) (b : Blk) (w : Word) : State :=
  let n := blkCounters b
  let go := (List.range n).filter (bitAt (bitsOf w 15 0))
  let stop := (List.range n).filter (bitAt (bitsOf w 31 16))
  if go.any stop.contains then s.regAccess page
  else
    let s1 := forEach go s (fun s k => s.setFld (page + 0x120 + 0x10 * k) 14 14 1)
    forEach stop s1 (fun s k => s.setFld (page + 0x120 + 0x10 * k) 14 14 0)

/-- CNT_SEL: EVENT keeps its value where the page does not list the code, and SUB where it lies outside the range of the event that EVENT then names (R13, R472). -/
def writeCntSel (s : State) (page : Nat) (b : Blk) (i n : Nat) (w : Word) : State :=
  let a := page + 0x120 + 0x10 * n
  let s1 := s.setFld a 31 12 (bitsOf w 31 12)
  let evOk := eventListed b i (bitsOf w 7 0) 0
  let ev := if evOk then bitsOf w 7 0 else s.fld a 7 0
  let subOk := eventListed b i ev (bitsOf w 11 8)
  let s2 := s1.setFld a 7 0 ev
  let s3 := if subOk then s2.setFld a 11 8 (bitsOf w 11 8) else s2
  if evOk && subOk then s3 else s3.regAccess page

/-- CNT_LO: all 48 bits are replaced with the held CNT_HI, and kept as the reload value. -/
def writeCntLo (s : State) (k : Nat) (w : Word) : State :=
  let v := smGet s.cntHeld 0 k % 65536 * 2 ^ 32 + w.toNat
  { s with cnt := smPut s.cnt k v, cntReload := smPut s.cntReload k v }

/-- The profile ring takes a record of a wrap (R473, R480). -/
def profileRecord (s : State) (page n : Nat) (sample : Word) : State :=
  if s.fld (pgMon + 0x10C) 31 31 = 0 then s
  else
    let k := (s.reg (pgMon + 0x110)).toNat
    let a := psramBase 0 + s.fld (pgMon + 0x108) 24 0 + 16 * (k % 2 ^ s.fld (pgMon + 0x10C) 3 0)
    (s.write a (natLE 4 (page / 4096 % 2 ^ 28 + n * 2 ^ 28) ++ natLE 4 sample.toNat ++ natLE 8 s.now)).setReg (pgMon + 0x110) (BitVec.ofNat 32 (k + 1))

/-- A counter wraps (R473): it loads 0 or its reload value, CNT_OVF and CNT_SAMPLE are set, and an enabled interrupt appends a record.
`bundle`: the bundle address that a tile counter samples. -/
def wrapCounter (s : State) (page : Nat) (b : Blk) (i n bundle : Nat) : State :=
  let sel := page + 0x120 + 0x10 * n
  let k := sel + 4
  let base := if s.fld sel 15 15 = 1 then smGet s.cntReload 0 k else 0
  let sample : Word := match b with
    | .tileCnt =>
      let secret := s.berthTenant i (s.berth i) ≠ 0
      BitVec.ofNat 32 ((if secret then 0x7FF else bundle % 2048) + s.berth i % 8 * 4096 + 2 ^ 31)
    | _ => BitVec.ofNat 32 s.now
  let s1 : State := { s with cnt := smPut s.cnt k base }
  let s2 := (s1.setFld (page + 0x104) n n 1).setReg (sel + 0xC) sample
  let leads := match b with
    | .tileCnt => !(s.tile i).coupled || i % 2 = 0
    | _ => true
  if leads && s2.fld (page + 0x118) n n = 1 then s2.profileRecord page n sample else s2

/-! ### Writes -/

/-- CVY_CTL (R393): ROLE, DOMAIN and CONVOY are fixed while JOINING or MEMBER; JOIN and LEAVE together are unlisted. -/
def writeCvyCtl (s : State) (w : Word) : State :=
  let a := pgCvy + 0x100
  let fixed := s.cvyState = 1 || s.cvyState = 2
  let changes := bitsOf w 1 0 ≠ s.fld a 1 0 || bitsOf w 31 8 ≠ s.fld a 31 8
  let s1 := s.setFld a 5 4 (bitsOf w 5 4)
  let s2 := if fixed then (if changes then s1.regAccess pgCvy else s1) else (s1.setFld a 1 0 (bitsOf w 1 0)).setFld a 31 8 (bitsOf w 31 8)
  let join := bitsOf w 2 2 = 1
  let leave := bitsOf w 3 3 = 1
  if join && leave then s2.regAccess pgCvy
  else if join then s2.joinConvoy
  else if leave then s2.fenceSelf 3
  else s2

/-- LEDGER_WM (R222): HIGH must exceed LOW. -/
def writeWatermarks (s : State) (w : Word) : State :=
  if bitsOf w 31 16 ≤ bitsOf w 15 0 then s.regAccess pgLedger else s.setReg (pgLedger + 0x110) w

/-- The profile ring lies below the host area's end, at a multiple of 64 (R480). -/
def ringFits (base lg : Nat) : Bool := base % 64 = 0 && decide (base + 16 * 2 ^ lg ≤ 0x1E00000)

/-- MON_RING_BASE and MON_RING_CTL (R480): fixed while EN is 1. -/
def writeMonRing (s : State) (ctl : Bool) (w : Word) : State :=
  let on := s.fld (pgMon + 0x10C) 31 31 = 1
  let lg := s.fld (pgMon + 0x10C) 3 0
  if !ctl then
    if on || !ringFits (bitsOf w 24 0) lg then s.regAccess pgMon else s.setFld (pgMon + 0x108) 24 0 (bitsOf w 24 0)
  else
    let want := bitsOf w 3 0
    let ok := if on then want = lg else decide (6 ≤ want) && decide (want ≤ 14) && ringFits (s.fld (pgMon + 0x108) 24 0) want
    let s1 := if ok then s.setFld (pgMon + 0x10C) 3 0 want else s.regAccess pgMon
    let s2 := if bitsOf w 31 31 = 1 ∧ !on then s1.setReg (pgMon + 0x110) 0 else s1
    s2.setFld (pgMon + 0x10C) 31 31 (bitsOf w 31 31)

/-- Writes to a counter page. -/
def writeCounterPage (s : State) (page : Nat) (b : Blk) (i off : Nat) (w : Word) : State :=
  if off = 0x100 then s.writeCntGo page b w
  else match counterAt b off with
    | some (n, 0) => s.writeCntSel page b i n w
    | some (_, 4) => s.writeCntLo (page + off) w
    | some (_, 8) => { s with cntHeld := smPut s.cntHeld (page + off - 4) (bitsOf w 15 0) }
    | _ => s.writeFields (page + off) w

/-- Writes to the tile pages (R104): those that R101 has both tiles of a pair hold take effect in both. -/
def writeTilePage (s : State) (b : Blk) (t off : Nat) (w : Word) : State :=
  match b with
  | .tileCtl => if off = 0x104 then s.onPair t (fun s t => s.writeSegPwr t w) else s.writeFields (pgTile t + off) w
  | .tileBerth =>
    let n := (off - 0x100) / 0x10
    match off % 0x10 with
    | 0 => s.onPair t (fun s t => s.writeBerthStore t n w)
    | 4 => s.onPair t (fun s t => s.writeBerthIbuf t n w)
    | 8 => s.onPair t (fun s t => s.writeBerthOwner t n w)
    | _ => s.onPair t (fun s t => s.writeBerthHandle t n w)
  | .tileDock =>
    let k := (off - 0x100) / 0x40
    match (off - 0x100) % 0x40 with
    | 0 => s.onPair t (fun s t => s.writeDockCtl t k w)
    | 4 => s.onPair t (fun s t => s.writeDockRange t k w)
    | _ => s.writeFields (pgDock t + off) w
  | _ => s

/-- The effect of a write that a block accepts: each register's own rule, or its fields' access codes (R11, R13). -/
def writeAt (s : State) (b : Blk) (i a : Nat) (w : Word) : State :=
  let page := a / 0x1000 * 0x1000
  let off := a % 0x1000
  if off = 0x028 then (if bitsOf w 31 31 = 1 then s.setReg a 0 else s)
  else if off = 0x034 then s.writeInject page b i w
  else if off < 0x100 then s.writeFields a w
  else match b with
    | .service => if off = 0x100 then s.writeServiceReq (bitsOf w 1 0) (bitsOf w 8 8 = 1) (bitsOf w 31 16) else s.writeFields a w
    | .dispatch =>
      if off = 0x104 then
        let s1 := if bitsOf w 0 0 = 1 then s.loadOrder else s
        if bitsOf w 1 1 = 1 then s1.loadPairOrder else s1
      else s.writeFields a w
    | .ledger => if off = 0x110 then s.writeWatermarks w else s.writeFields a w
    | .sec => if off = 0x13C then s.writeSecCmd w else s.writeFields a w
    | .mon => if off = 0x108 then s.writeMonRing false w else if off = 0x10C then s.writeMonRing true w else s.writeFields a w
    | .ilk => if off = 0x110 then s.writeIlkOwner w else s.writeFields a w
    | .cvy =>
      if off = 0x100 then s.writeCvyCtl w
      else if 0x400 ≤ off ∧ off < 0x800 then
        if (off - 0x400) % 0x40 = 0 then s.writeConsist ((off - 0x400) / 0x40) w else s.writeSlotReg ((off - 0x400) / 0x40) a w
      else s.writeFields a w
    | .eth =>
      let s1 := s.writeFields a w
      if off = 0x100 && bitsOf (s1.reg a) 3 3 = 0 then s1.dropLink i else s1
    | .tileCtl => s.writeTilePage b i off w
    | .tileBerth => s.writeTilePage b i off w
    | .tileDock => s.writeTilePage b i off w
    | .tileCnt => s.writeCounterPage page b i off w
    | .hubcnt => s.writeCounterPage page b i off w
    | .diecnt => s.writeCounterPage page b i off w
    | _ => s.writeFields a w

/-- A write of an aligned register word by a writer (R13, R26, R27, R459). -/
def writeReg (s : State) (who : Writer) (a : Nat) (w : Word) : State :=
  if a % 4 ≠ 0 then s.recordErr (writerPage who) (if (s.regAt (a / 4 * 4)).isSome && (s.regAt (a / 4 * 4 + 4)).isSome then 0x5102 else 0x5101)
  else s.regWrite who a (fun s => match s.block (a / 0x1000 * 0x1000) with
    | none => s
    | some (b, i) => s.writeAt b i a w)

/-- Where the value of a read goes: a direct read's data leave on the bus, a monitor's on its line. -/
def deliver (s : State) (who : Writer) (w : Word) : State :=
  match who with
  | .host p => s.updPort p (fun P => { P with readData := natLE 4 w.toNat })
  | .monitor => { s with mon := { s.mon with words := [w.toNat] } }
  | _ => s

/-- A read of a register whose read acts: a host's direct read of another hub's page meets the mirror, which shows the vacant pattern (R347). -/
def readActing (s : State) (who : Writer) (a : Nat) : State :=
  if (s.regAt a).isNone then (s.recordErr (writerPage who) 0x5101).deliver who 0x5A5A5A5A
  else match who with
    | .host p =>
      if a / 0x1000 * 0x1000 / 0x800000 = hubPage p 0 / 0x800000 then (s.readEffect who a).deliver who (s.regValue who a)
      else s.deliver who 0x5A5A5A5A
    | _ => (s.readEffect who a).deliver who (s.regValue who a)

end State

/-- ERR_NEXT read (R464). -/
def execErrNext (who : Writer) (page : Nat) (s : State) : Res := whenLive s (fun s => s.readActing who (page + 0x30))

/-- ERR_STICKY written (R463): ones clear their bits. -/
def execErrSticky (who : Writer) (page : Nat) (w : Word) (s : State) : Res := whenLive s (fun s => s.writeReg who (page + 0x20) w)

/-- ERR_FIRST written (R461): VALID = 1 clears CODE, UNIT and VALID. -/
def execErrFirst (who : Writer) (page : Nat) (w : Word) (s : State) : Res := whenLive s (fun s => s.writeReg who (page + 0x28) w)

/-- ERR_INJECT written (R466). -/
def execErrInject (who : Writer) (page : Nat) (w : Word) (s : State) : Res := whenLive s (fun s => s.writeReg who (page + 0x34) w)

/-- HUB_TIME_LO read (R460). -/
def execHubTimeLo (hub : Side) (s : State) : Res := whenLive s (fun s => s.captureTime (State.sideNo hub))

/-- CNT_GO written (R470). -/
def execCntGo (who : Writer) (page : Nat) (w : Word) (s : State) : Res := whenLive s (fun s => s.writeReg who (page + 0x100) w)

/-- CNT_LO read (R474). -/
def execCntLoRead (who : Writer) (page : Nat) (n : Nat) (s : State) : Res := whenLive s (fun s => s.readActing who (page + 0x124 + 0x10 * n))

/-- CNT_LO written (R470). -/
def execCntLoWrite (who : Writer) (page : Nat) (n : Nat) (w : Word) (s : State) : Res :=
  whenLive s (fun s => s.writeReg who (page + 0x124 + 0x10 * n) w)

/-- COUNTER_WRAP (R473): a counter has passed 48 bits. -/
def execCounterWrap (page : Nat) (n : Nat) (bundle : Nat) (s : State) : Res :=
  whenLive s (fun s =>
    match s.block page with
    | none => s
    | some (b, i) =>
      if n < blkCounters b ∧ 2 ^ 48 ≤ smGet s.cnt 0 (page + 0x124 + 0x10 * n) then s.wrapCounter page b i n bundle else s)

/-- REGISTER_WRITE (R13, R459). -/
def execRegisterWrite (who : Writer) (addr : Nat) (w : Word) (s : State) : Res := whenLive s (fun s => s.writeReg who addr w)

end Sys2Proof.Machine
end

