-- ==== Sys2Proof/Machine/Platform.lean ====
section
/-! DEFINITION. The Platform ports (R339–R364): host commands, the register window and its mirror, Platform SRAM, the register proxy,
interrupts, violations, and the controller role. -/

namespace Sys2Proof.Machine

open Sys2Proof

/-- The vacant pattern (R346). -/
def vacantByte : Byte := 0x5A

namespace State

/-! ### Violations (R361) -/

def vTiming : Nat := 0
def vBank : Nat := 1
def vMode : Nat := 2
def vAsleep : Nat := 3
def vPartial : Nat := 4
def vReserved : Nat := 5
def vUnsupported : Nat := 6
def vLinkEcc : Nat := 7

/-- Class of the rule of JESD209-5 that a command breaks. -/
def busClass : BusCheck → List Nat
  | .good => []
  | .timing => [vTiming]
  | .undefinedMr => [vMode]
  | .unsupported => [vUnsupported]
  | .linkEcc => [vLinkEcc]

/-- A violation is recorded, and reported at most once per second and port (R359, R361). -/
def violate (s : State) (p cls ch bank : Nat) : State :=
  let a := pgPlat p
  let s1 := ((s.setFld (a + 0x118) cls cls 1).bump (a + 0x120)).setReg (a + 0x11C) (BitVec.ofNat 32 (cls + ch % 4 * 8 + bank % 16 * 32))
  let s2 := s1.recordErr a 0x5C01 (ch % 4)
  let due := match (s2.port p).violAt with
    | none => true
    | some t => decide (t + 1000000000 ≤ s2.now)
  if due then (s2.updPort p (fun P => { P with violAt := some s2.now })).notice 0xA 0x5C01 0 (s2.fld (a + 0x118) 7 0 + 256 * p) else s2

/-- A command that breaks the rules of some classes is a violation of the lowest one; otherwise it has its effect. A port records none while it
is vacant (R344). -/
def hostCommand (s : State) (p ch bank : Nat) (classes : List Nat) (f : State → State) : State :=
  match classes with
  | [] => f s
  | c :: cs => if s.portUp p && s.live then s.violate p (cs.foldl min c) ch bank else s

/-- A device-role port that has asserted PORT_READY takes host commands (R342). -/
def portHears (s : State) (p : Nat) : Bool := s.start.hold ≠ .porst && s.fld (pgPlat p + 0x100) 1 0 = 2

/-- The low-power state that the host has declared on a channel. -/
def portSleep (s : State) (p ch : Nat) : PortSleep := smGet (s.port p).sleep .none ch

/-- The class of a command while the host has declared a low-power state of its channel (R343, R361). -/
def asleepClass (s : State) (p ch : Nat) : List Nat := if s.portSleep p ch = .none then [] else [vAsleep]

/-! ### Address mapping (R345) -/

/-- Source code of port address bit `b`. -/
def mapCode (s : State) (p b : Nat) : Nat := s.fld (pgPlat p + 0x140 + 4 * ((b - 5) / 6)) (5 * ((b - 5) % 6) + 4) (5 * ((b - 5) % 6))

/-- The source bits of a port address from code `lo` on, `n` of them, as a number. -/
def sourceBits (s : State) (p offset lo n : Nat) : Nat :=
  (List.range 28).foldl (fun v i =>
    let c := s.mapCode p (5 + i)
    if lo ≤ c ∧ c < lo + n ∧ bitAt offset (5 + i) then v + 2 ^ (c - lo) else v) 0

/-- A port address with its burst column replaced. -/
def withColumn (s : State) (p offset c : Nat) : Nat :=
  (List.range 28).foldl (fun o i =>
    let m := s.mapCode p (5 + i)
    if m < 6 then o - b2n (bitAt o (5 + i)) * 2 ^ (5 + i) + b2n (bitAt c m) * 2 ^ (5 + i) else o) offset

/-- The parts of a burst: a BL32 burst covers two consecutive burst columns, each of 32 bytes, which the map may place apart (R345). -/
def burstParts (s : State) (p offset len : Nat) : List (Nat × Nat) :=
  let n := 32 - offset % 32
  if len ≤ n then [(offset, len)] else [(offset, n), (s.withColumn p offset ((s.sourceBits p offset 0 6 + 1) % 64) / 32 * 32, len - n)]

/-- Key of a bank of a port in its open rows. -/
def bankKey (ch bank : Nat) : Nat := 16 * ch + bank

/-- The burst that forms a port address comes from a channel and bank whose open row is the one that the map gives (R345, R361). -/
def rowOpen (s : State) (p offset ch bank : Nat) : Bool :=
  s.sourceBits p offset 26 2 = ch && s.sourceBits p offset 6 4 = bank
    && smFind (s.port p).openRows (bankKey ch bank) = some (s.sourceBits p offset 10 16)

/-- Every flow that R341 lists has passed on every channel. -/
def portTrained (s : State) (p : Nat) : Bool :=
  (List.range 4).all (fun ch => [TrainingFlow.commandBus, .wck2ck, .readDq, .writeFifo].all (fun f => (s.port p).trained.contains (ch, f)))

/-- A bank (or, with none, some bank) of a channel has an open row. -/
def bankOpen (s : State) (p ch : Nat) (bank : Option Nat) : Bool :=
  match bank with
  | some b => (smFind (s.port p).openRows (bankKey ch b)).isSome
  | none => (s.port p).openRows.any (fun e => e.1 / 16 = ch)

/-! ### Reads (R346, R347, R349) -/

/-- Windows of the port space (R346). -/
def winProxy : Nat := 0x1000000
def winResponse : Nat := 0x1001000
def winBell : Nat := 0x1002000
def winBellEnd : Nat := 0x1004000
def winSram : Nat := 0x4000000

/-- Entry of a port's proxy. -/
def proxyEntry (s : State) (p e : Nat) : ProxyEntry := smGet (s.port p).proxy { busy := false, addr := 0, wdata := 0, ctl := 0, resp := [] } e
def setProxy (s : State) (p e : Nat) (x : ProxyEntry) : State := s.updPort p (fun P => { P with proxy := smPut P.proxy e x })

/-- A register word through the window: the own hub's register, or the mirror of the other hub's; `none` where nothing lies there. -/
def windowWord (s : State) (p a : Nat) : Option Word × State :=
  match s.block (a / 0x1000 * 0x1000), s.regAt a with
  | some (b, _), some _ =>
    if (a - 0x5000000000) / 0x800000 = p then (some (s.regValue (.host p) a), s.readEffect (.host p) a)
    else (some (if readActs b (a % 0x1000) then 0x5A5A5A5A else s.regValue (.host p) a), s)
  | _, _ => (none, s)

/-- The words of a burst in the register range, in ascending order: their bytes, and whether one of them is unmapped. -/
def windowWords (p : Nat) : List Nat → State → List Byte × Bool × State
  | [], s => ([], false, s)
  | a :: as, s =>
    let x := s.windowWord p a
    let r := windowWords p as x.2
    (natLE 4 ((x.1.getD 0x5A5A5A5A).toNat) ++ r.1, x.1.isNone || r.2.1, r.2.2)

/-- What a read burst returns, and its effects. -/
def readWindow (s : State) (p offset len : Nat) : List Byte × State :=
  if offset < winProxy then
    let w0 := offset / 4
    let n := (offset + len - 1) / 4 + 1 - w0
    let x := windowWords p ((List.range n).map (fun i => 0x5000000000 + 4 * (w0 + i))) s
    ((x.1.drop (offset % 4)).take len, if x.2.1 then x.2.2.recordErr (pgPlat p) 0x5101 else x.2.2)
  else if winResponse ≤ offset ∧ offset < winResponse + 0x100 then
    ((List.range len).map (fun i =>
      let o := offset + i - winResponse
      if o < 0x100 then (s.proxyEntry p (o / 16)).resp.getD (o % 16) 0 else vacantByte), s)
  else if winSram ≤ offset ∧ offset < winSram + psramBytes then
    (s.bytes (psramBase p + (offset - winSram)) len, s.countEvent (pgHubCnt p) 5 p len)
  else (List.replicate len vacantByte, s)

/-- What the parts of a read burst return, in order. -/
def readBurst (s : State) (p : Nat) (parts : List (Nat × Nat)) : List Byte × State :=
  parts.foldl (fun acc x => let y := acc.2.readWindow p x.1 x.2; (acc.1 ++ y.1, y.2)) ([], s)

/-- Read data leave the port. -/
def putRead (s : State) (p : Nat) (bs : List Byte) : State := s.updPort p (fun P => { P with readData := bs })

/-- A host read burst. Before training has ended its outcome is not defined (R342): its data are free. -/
def hostRead (s : State) (p offset len ch bank : Nat) (bus : BusCheck) : State :=
  let vacant := List.replicate len vacantByte
  if !s.live || (s.port p).vacant then s.putRead p vacant
  else if !s.portTrained p then
    let x := s.freshBytes len
    x.2.putRead p x.1
  else
    let cls := busClass bus ++ s.asleepClass p ch ++ (if s.rowOpen p offset ch bank then [] else [vBank])
    if cls = [] then
      let x := s.readBurst p (s.burstParts p offset len)
      x.2.putRead p x.1
    else (s.hostCommand p ch bank cls (fun s => s)).putRead p vacant

/-! ### The register proxy (R351, R352) -/

/-- A response record. -/
def proxyRecord (tag done status rdata : Nat) : List Byte := natLE 4 (tag + done * 256 + status * 4096) ++ natLE 4 rdata ++ natLE 8 0

/-- A request record reaches an entry. -/
def proxyAccept (s : State) (p e : Nat) (addr : DWord) (wdata ctl : Word) : State :=
  if (s.proxyEntry p e).busy then s.bump (pgPlat p + 0x130)
  else (s.countEvent (pgHubCnt p) 0x10).setProxy p e { busy := true, addr := addr, wdata := wdata, ctl := ctl, resp := proxyRecord (bitsOf ctl 15 8) 0 0 0 }

/-- A write of one word to Platform SRAM as the host's requester: the device's part refuses it (R350). -/
def proxySramWrite (s : State) (p a : Nat) (w : Word) : Nat × State :=
  if 0x1F00000 ≤ (a - psramBase 0) % psramBytes then (3, s.violate p vReserved 0 0) else (0, s.write a (natLE 4 w.toNat))

/-- Performs a request: its STATUS, RDATA, and the state after it. -/
def proxyPerform (s : State) (p : Nat) (x : ProxyEntry) : Nat × Nat × State :=
  let a := x.addr.toNat
  let op := bitsOf x.ctl 1 0
  let rd := op = 1
  if 2 ^ 40 ≤ a ∨ bitsOf x.ctl 7 2 ≠ 0 ∨ bitsOf x.ctl 31 16 ≠ 0 ∨ op = 0 ∨ op = 3 then (4, 0, s)
  else match s.check (.host p) a 4 with
    | .unmapped => (1, if rd then 0x5A5A5A5A else 0, s.refuseAccess (.host p) .unmapped)
    | .align => (2, 0, s.refuseAccess (.host p) .align)
    | .ok g =>
      if a % 4 ≠ 0 then (2, 0, s.refuseAccess (.host p) .align)
      else match g with
        | .regs _ =>
          if rd then (0, (s.regValue (.proxy p) a).toNat, s.readEffect (.proxy p) a)
          else (match s.block (a / 0x1000 * 0x1000) with
            | some (b, _) => if writerMay (.proxy p) b (a % 0x1000) then 0 else 3
            | none => 3, 0, s.writeReg (.proxy p) a x.wdata)
        | .psram _ _ =>
          if rd then (0, s.nat a 4, s)
          else let y := s.proxySramWrite p a x.wdata; (y.1, 0, y.2)
        | _ => (1, 0, s)

/-! ### Writes (R346, R348, R350) -/

/-- A byte of a burst at a port offset: `none` where the burst does not carry it or its mask is off. -/
def burstByte (offset : Nat) (data : List (Option Byte)) (o : Nat) : Option Byte := if o < offset then none else (data[o - offset]?).join

/-- All `n` bytes at a port offset, where each is carried. -/
def burstBytes (offset : Nat) (data : List (Option Byte)) (o n : Nat) : Option (List Byte) :=
  (List.range n).foldr (fun i acc => match burstByte offset data (o + i), acc with
    | some b, some bs => some (b :: bs)
    | _, _ => none) (some [])

/-- Some of `n` bytes at a port offset is carried. -/
def burstTouches (offset : Nat) (data : List (Option Byte)) (o n : Nat) : Bool := (List.range n).any (fun i => (burstByte offset data (o + i)).isSome)

/-- Whole units of `n` bytes, `step` apart, that a burst touches: their offsets. -/
def burstUnits (offset : Nat) (data : List (Option Byte)) (n step : Nat) : List Nat :=
  let u0 := offset / step
  ((List.range ((offset + data.length - 1) / step + 1 - u0)).map (fun i => (u0 + i) * step)).filter (fun o => burstTouches offset data o n)

/-- A record of 16 bytes at a doorbell location (R353). -/
def bellWritten (s : State) (p n : Nat) (bs : List Byte) : State :=
  s.bellArrive p { slot := n, ring := BitVec.ofNat 32 (bytesNat bs 0 4), count := bytesNat bs 4 2, rsv := bytesNat bs 6 2,
                     seq := BitVec.ofNat 32 (bytesNat bs 8 4), crc := BitVec.ofNat 32 (bytesNat bs 12 4),
                     reads := 0, waiting := false, order := 0 }

/-- The windows' own violations of a write burst: a part of a register word or record, or a location that the device keeps (R361). -/
def writeClasses (offset : Nat) (data : List (Option Byte)) : List Nat :=
  let part := fun (n step : Nat) => if (burstUnits offset data n step).all (fun o => (burstBytes offset data o n).isSome) then [] else [vPartial]
  if offset < winProxy then part 4 4
  else if offset < winProxy + 0x200 then part 16 32
  else if winResponse ≤ offset ∧ offset < winResponse + 0x100 then (if data.any (·.isSome) then [vReserved] else [])
  else if winBell ≤ offset ∧ offset < winBellEnd then part 16 32
  else if winSram + 0x1F00000 ≤ offset ∧ offset < winSram + psramBytes then (if data.any (·.isSome) then [vReserved] else [])
  else []

/-- A register word of a write burst: performed at once in the own hub, forwarded to the other (R348). -/
def windowWrite (s : State) (p o : Nat) (bs : List Byte) : State :=
  let a := 0x5000000000 + o
  let w := BitVec.ofNat 32 (leNat bs)
  if o / 0x800000 = p then s.writeReg (.host p) a w
  else s.updPort p (fun P => { P with forwards := P.forwards ++ [{ addr := a, value := w }] })

/-- A write burst takes its effect. -/
def writeWindow (s : State) (p offset : Nat) (data : List (Option Byte)) : State :=
  if offset < winProxy then
    forEach (burstUnits offset data 4 4) s (fun s o => s.windowWrite p o ((burstBytes offset data o 4).getD []))
  else if offset < winProxy + 0x200 then
    forEach (burstUnits offset data 16 32) s (fun s o =>
      let bs := (burstBytes offset data o 16).getD []
      s.proxyAccept p ((o - winProxy) / 32) (BitVec.ofNat 64 (bytesNat bs 0 8)) (BitVec.ofNat 32 (bytesNat bs 8 4)) (BitVec.ofNat 32 (bytesNat bs 12 4)))
  else if winBell ≤ offset ∧ offset < winBellEnd then
    forEach (burstUnits offset data 16 32) s (fun s o => s.bellWritten p ((o - winBell) / 32) ((burstBytes offset data o 16).getD []))
  else if winSram ≤ offset ∧ offset < winSram + psramBytes then
    let s1 := forEach (List.range data.length) s (fun s i => match (data[i]?).join with
      | some b => s.write (psramBase p + (offset + i - winSram)) [b]
      | none => s)
    s1.countEvent (pgHubCnt p) 5 p (data.filter (·.isSome)).length
  else s

/-- The violations of a write burst's parts. -/
def burstClasses (s : State) (p offset : Nat) (data : List (Option Byte)) : List Nat :=
  match s.burstParts p offset data.length with
  | [x, y] => writeClasses offset (data.take x.2) ++ writeClasses y.1 (data.drop x.2)
  | _ => writeClasses offset data

/-- A write burst's parts take their effects, in order. -/
def writeBurst (s : State) (p offset : Nat) (data : List (Option Byte)) : State :=
  ((s.burstParts p offset data.length).foldl (fun acc x => (acc.1.writeWindow p x.1 (acc.2.take x.2), acc.2.drop x.2)) (s, data)).1

/-- A host write burst. Before training has ended its outcome is not defined (R342): whether it lands is free. -/
def hostWrite (s : State) (p offset : Nat) (data : List (Option Byte)) (ch bank : Nat) (bus : BusCheck) : State :=
  if !s.live || (s.port p).vacant then s
  else if !s.portTrained p then
    let x := s.fresh
    if x.1 % 2 = 1 ∧ s.burstClasses p offset data = [] then x.2.writeBurst p offset data else x.2
  else
    let cls := busClass bus ++ s.asleepClass p ch ++ (if s.rowOpen p offset ch bank then [] else [vBank]) ++ s.burstClasses p offset data
    s.hostCommand p ch bank cls (fun s => s.writeBurst p offset data)

/-! ### Modes of the memory part (R341, R343) -/

/-- A channel's mode register takes a value. LINK_ECC follows the channels' MR22 and PLAT_RATE the latency registers MR1 and MR2; the codes are
the standard's, not the spec's (log entry 43). -/
def writeMode (s : State) (p ch mr : Nat) (v : Byte) : State :=
  let s1 := s.updPort p (fun P => { P with mode := smPut P.mode (256 * ch + mr) v })
  if mr = 22 then s1.setFld (pgPlat p + 0x100) 2 2 (b2n ((s1.port p).mode.any (fun e => e.1 % 256 = 22 && e.2.toNat / 16 ≠ 0)))
  else if mr = 1 ∨ mr = 2 then
    let x := s1.fresh
    x.2.setFld (pgPlat p + 0x104) 13 0 (1600 + x.1 % 8001)
  else s1

/-- A channel's declared low-power state. -/
def setSleep (s : State) (p ch : Nat) (z : PortSleep) : State := s.updPort p (fun P => { P with sleep := smPut P.sleep ch z })

/-- Entry of a channel into a low-power state (R343). `idle`: the standard asks for banks without an open row. -/
def enterSleep (s : State) (p ch : Nat) (z : PortSleep) (idle : Bool) (bus : BusCheck) : State :=
  let cls := busClass bus ++ s.asleepClass p ch ++ (if idle && s.bankOpen p ch none then [vBank] else [])
  s.hostCommand p ch 0 cls (fun s => s.setSleep p ch z)

/-- Exit from a low-power state: any other state's exit is a command during it. -/
def leaveSleep (s : State) (p ch : Nat) (z : PortSleep) (bus : BusCheck) : State :=
  let cls := busClass bus ++ (if s.portSleep p ch = z then [] else s.asleepClass p ch)
  s.hostCommand p ch 0 cls (fun s => s.setSleep p ch .none)

/-! ### Controller role (R362) -/

/-- A port in controller role, once the straps have been sampled. -/
def controls (s : State) (p : Nat) : Bool := s.live && (if p = 0 then s.start.role0 else s.start.role1)

/-- The peer is lost. -/
def losePeer (s : State) (p : Nat) : State :=
  let s1 := (s.setFld (pgPlat p + 0x100) 3 3 0).updPort p (fun P => { P with peerTrained := false })
  (s1.bump (pgPlat p + 0x134)).notice 9 0 0 p

end State

/-- An effect on a port that hears its host. -/
def onPort (s : State) (p : Nat) (f : State → State) : Res := .next (if s.portHears p then f s else s)

/-- HOST_READ (R346, R347, R349). -/
def execHostRead (port : Nat) (offset : Nat) (len : Nat) (channel : Nat) (bank : Nat) (bus : BusCheck) (s : State) : Res :=
  onPort s port (fun s => s.hostRead port offset len channel bank bus)

/-- HOST_WRITE (R346, R348, R350); a byte that the data mask leaves out is `none`. -/
def execHostWrite (port : Nat) (offset : Nat) (data : List (Option Byte)) (channel : Nat) (bank : Nat) (bus : BusCheck) (s : State) : Res :=
  onPort s port (fun s => s.hostWrite port offset data channel bank bus)

/-- FORWARDED_WRITE (R348): the oldest forwarded write is performed. -/
def execForwardedWrite (port : Nat) (s : State) : Res :=
  whenLive s (fun s =>
    match (s.port port).forwards with
    | [] => s
    | f :: fs => (s.updPort port (fun P => { P with forwards := fs })).writeReg (.host port) f.addr f.value)

/-- MODE_REGISTER_WRITE (R341). -/
def execModeRegisterWrite (port : Nat) (channel : Nat) (mr : Nat) (value : Byte) (bus : BusCheck) (s : State) : Res :=
  onPort s port (fun s => s.hostCommand port channel 0 (State.busClass bus ++ s.asleepClass port channel) (fun s => s.writeMode port channel mr value))

/-- TRAINING (R341): per-pin DFE training is not supported. -/
def execTraining (port : Nat) (channel : Nat) (flow : TrainingFlow) (ok : Bool) (s : State) : Res :=
  onPort s port (fun s =>
    s.hostCommand port channel 0 (s.asleepClass port channel ++ (if flow = .perPinDfe then [State.vUnsupported] else [])) (fun s =>
      if ok then s.updPort port (fun P =>
        { P with trained := if P.trained.contains (channel, flow) then P.trained else P.trained ++ [(channel, flow)] }) else s))

/-- HOST_REFRESH (R343), of one bank or of all: no effect inside the device; the banks refreshed have no open row (R361). -/
def execHostRefresh (port : Nat) (channel : Nat) (bank : Option Nat) (bus : BusCheck) (s : State) : Res :=
  onPort s port (fun s =>
    let cls := State.busClass bus ++ s.asleepClass port channel ++ (if s.bankOpen port channel bank then [State.vBank] else [])
    s.hostCommand port channel (bank.getD 0) cls (fun s => s))

/-- SELF_REFRESH_ENTRY (R343). -/
def execSelfRefreshEntry (port : Nat) (channel : Nat) (bus : BusCheck) (s : State) : Res := onPort s port (fun s => s.enterSleep port channel .selfRefresh true bus)
/-- SELF_REFRESH_EXIT (R343). -/
def execSelfRefreshExit (port : Nat) (channel : Nat) (bus : BusCheck) (s : State) : Res := onPort s port (fun s => s.leaveSleep port channel .selfRefresh bus)
/-- POWER_DOWN_ENTRY (R343). -/
def execPowerDownEntry (port : Nat) (channel : Nat) (bus : BusCheck) (s : State) : Res := onPort s port (fun s => s.enterSleep port channel .powerDown false bus)
/-- POWER_DOWN_EXIT (R343). -/
def execPowerDownExit (port : Nat) (channel : Nat) (bus : BusCheck) (s : State) : Res := onPort s port (fun s => s.leaveSleep port channel .powerDown bus)
/-- DEEP_SLEEP_ENTRY (R343). -/
def execDeepSleepEntry (port : Nat) (channel : Nat) (bus : BusCheck) (s : State) : Res := onPort s port (fun s => s.enterSleep port channel .deepSleep true bus)
/-- DEEP_SLEEP_EXIT (R343). -/
def execDeepSleepExit (port : Nat) (channel : Nat) (bus : BusCheck) (s : State) : Res := onPort s port (fun s => s.leaveSleep port channel .deepSleep bus)

/-- PORT_RESET (R483): the mode registers return to their defaults, and the host must train again. -/
def execPortReset (port : Nat) (s : State) : Res :=
  onPort s port (fun s => (s.updPort port (fun P => { P with mode := [], trained := [], sleep := [], openRows := [] })).setFld (pgPlat port + 0x100) 2 2 0)

/-- ACTIVATE (R361): opens a row of a bank that has none open. -/
def execActivate (port : Nat) (channel : Nat) (bank : Nat) (row : Nat) (bus : BusCheck) (s : State) : Res :=
  onPort s port (fun s =>
    let k := State.bankKey channel bank
    let cls := State.busClass bus ++ s.asleepClass port channel ++ (if s.bankOpen port channel (some bank) then [State.vBank] else [])
    s.hostCommand port channel bank cls (fun s => s.updPort port (fun P => { P with openRows := smPut P.openRows k (row % 65536) })))

/-- PRECHARGE (R361): closes the bank's open row, if any. -/
def execPrecharge (port : Nat) (channel : Nat) (bank : Nat) (bus : BusCheck) (s : State) : Res :=
  onPort s port (fun s => s.hostCommand port channel bank (State.busClass bus ++ s.asleepClass port channel) (fun s =>
    s.updPort port (fun P => { P with openRows := smErase P.openRows (State.bankKey channel bank) })))

/-- PROXY_REQUEST (R351, R352): a request record is written to an entry's location. -/
def execProxyRequest (port : Nat) (entry : Nat) (addr : DWord) (wdata : Word) (ctl : Word) (s : State) : Res :=
  whenLive s (fun s => if s.portUp port then s.proxyAccept port entry addr wdata ctl else s)

/-- PROXY_RESPONSE (R352): an entry's request is performed, and its response written; requests wait for Resume. -/
def execProxyResponse (port : Nat) (entry : Nat) (s : State) : Res :=
  whenLive s (fun s =>
    let x := s.proxyEntry port entry
    if !x.busy || s.safety.phase ≠ .none then s
    else
      let r := s.proxyPerform port x
      (r.2.2.setProxy port entry { x with busy := false, resp := State.proxyRecord (bitsOf x.ctl 15 8) 1 r.1 r.2.1 }).irqCause port 3)

/-- PLAT_IRQ_STAT written (R360): ones clear their causes. -/
def execPlatIrqStat (port : Nat) (w : Word) (s : State) : Res := whenLive s (fun s => s.writeReg (.host port) (pgPlat port + 0x108) w)

/-- COMPLETION_HOLDOFF (R360): the holdoff of a record not yet reported has passed. -/
def execCompletionHoldoff (port : Nat) (s : State) : Res :=
  whenLive s (fun s => if (s.port port).unreported then (s.updPort port (fun P => { P with unreported := false })).irqCause port 1 else s)

/-- PEER_TRAINING (R362): PORT_READY is seen high, and the training of the peer has ended. -/
def execPeerTraining (port : Nat) (ok : Bool) (s : State) : Res :=
  whenLive s (fun s =>
    if !s.controls port then s
    else
      let s1 := s.setFld (pgPlat port + 0x100) 1 1 1
      if ok then
        let s2 := (s1.setFld (pgPlat port + 0x100) 3 3 1).setFld (pgPlat port + 0x104) 13 0 (((s.start.first).map (·.portRate)).getD 0)
        s2.updPort port (fun P => { P with peerTrained := true })
      else s1.losePeer port)

/-- PEER_LOST (R362): the PORT_READY input fell, or an access went unanswered; STAT.READY follows the input (R364). -/
def execPeerLost (port : Nat) (fell : Bool) (s : State) : Res :=
  whenLive s (fun s => if s.controls port then (if fell then s.setFld (pgPlat port + 0x100) 1 1 0 else s).losePeer port else s)

/-- PEER_IRQ (R362): passed to the Stationmaster. -/
def execPeerIrq (port : Nat) (s : State) : Res :=
  whenLive s (fun s => if s.controls port then s.updPort port (fun P => { P with peerIrqSeen := true }) else s)

end Sys2Proof.Machine
end

