-- ==== Sys2Proof/Machine/Monitor.lean ====
section
/-! DEFINITION. The serial monitor (R475–R480): which commands a lifecycle state serves, tokens, and each command. -/

namespace Sys2Proof.Machine

open Sys2Proof

/-- Scope bits of a token (R477), and no scope. -/
inductive MonScope where
  | read
  | write
  | test
  | load
  | none
deriving DecidableEq, Repr

/-- What the gate needs to know of a command (R476, R478). -/
inductive MonCommand where
  | ident
  | unlock
  | baud
  | token
  | boot
  | scoped (sc : MonScope)
deriving DecidableEq, Repr

/-- Bit of SCOPE. -/
def MonScope.bit : MonScope → Nat
  | .read => 0
  | .write => 1
  | .test => 2
  | .load => 3
  | .none => 4

namespace State

/-- Changes the monitor. -/
def updMon (s : State) (f : Monitor → Monitor) : State := { s with mon := f s.mon }

/-- The end line of a command, with the words it gave (R475). -/
def answer (s : State) (e : MonEnd) (ws : List Nat := []) : State := s.updMon (fun m => { m with reply := e, words := ws })

/-- A refusal counts in MON_DENIED (R480). -/
def monDenied (s : State) : State := (s.bump (pgMon + 0x114)).answer (.err .denied)

/-- A refused token or answer counts in MON_TOKEN_FAIL (R477, R478). -/
def monFailed (s : State) : State := (s.bump (pgMon + 0x118)).monDenied

/-- A token is held with a scope bit (R477). -/
def holdsScope (s : State) (sc : MonScope) : Bool :=
  match s.mon.token with
  | some (scope, expiry) => decide (s.now < expiry) && bitAt scope sc.bit
  | none => false

/-- The ROM has the monitor: BOOT_SEL names the loaded image, and none runs yet (R398, R478). -/
def romMonitor (s : State) : Bool :=
  s.loadsOverUart && s.start.step ≠ 0 && decide (s.start.step ≤ 2) && !s.start.stopped && s.start.first.isNone

/-- SERVICE_REQ.PARKED is 1 and both islands see PARK_OK high (R476). -/
def monParked (s : State) : Bool := s.fld (pgService + 0x100) 8 8 = 1 && s.safety.islA.park.level && s.safety.islB.park.level

/-- A command is served (R476, R478). -/
def serves (s : State) (c : MonCommand) : Bool :=
  if s.romMonitor then
    match c with
    | .ident | .baud | .boot | .scoped .load => true
    | _ => false
  else match c with
    | .boot => false
    | .unlock => s.sec.life = 4
    | .ident => true
    | .baud | .token => decide (s.sec.life ≤ 3)
    | .scoped sc =>
      decide (s.sec.life ≤ 2) || (s.sec.life = 3 && s.holdsScope sc && (sc = .read || s.monParked))

/-- A command reaches the monitor: nothing answers in the Scrapped state, characters during a command are discarded, and a command outside what
is served is DENIED (R475, R476). -/
def command (s : State) (c : MonCommand) (eff : State → State) : State :=
  if s.sec.life = 5 then s.answer .silent
  else if s.mon.testing.isSome then s
  else if s.serves c then eff s
  else s.monDenied

/-! ### Reads -/

/-- Registers read one after the other by the monitor (R478): the words so far, and the state after the reads. -/
def monReads (s : State) (l : List Nat) : List Nat × State :=
  l.foldl (fun x a => (x.1 ++ [(x.2.regValue .monitor a).toNat], x.2.readEffect .monitor a)) ([], s)

/-- Reads of `n` words from an address on; the first unmapped one ends the command (R478, R26). -/
def monReadRun (addr : Nat) : Nat → List Nat → State → State
  | 0, ws, s => s.answer .ok ws
  | n + 1, ws, s =>
    if (s.regAt addr).isNone then (s.recordErr pgMon 0x5101).answer (.err .unmapped) ws
    else monReadRun (addr + 4) n (ws ++ [(s.regValue .monitor addr).toNat]) (s.readEffect .monitor addr)

/-- ERR_NEXT read until VALID is 0 (R464, R478). -/
def monDrain (page : Nat) : Nat → List Nat → State → State
  | 0, ws, s => s.answer .ok ws
  | n + 1, ws, s =>
    let w := (s.errNextWord page).toNat
    if bitsOf (s.errNextWord page) 31 31 = 0 then s.answer .ok (ws ++ [w]) else monDrain page n (ws ++ [w]) (s.takeErr page)

/-- Pages with ERR_FIRST.VALID, rising (R478). -/
def errorPages (s : State) : List Nat :=
  (s.regs.filter (fun e => e.1 % 0x1000 = 0x28 && bitsOf e.2 31 31 = 1 && (s.block (e.1 - 0x28)).isSome)).map (fun e => e.1 - 0x28)

/-- The number of counters of a page, 0 where it is no counter page of this device. -/
def countersOf (s : State) (page : Nat) : Nat :=
  match s.block page with
  | some (b, _) => blkCounters b
  | none => 0

/-! ### Tokens -/

/-- A token's fields and its signature verify (R477); reserved bits and bytes are ignored (R12). -/
def tokenOk (s : State) (bs : List Byte) : Bool :=
  bytesNat bs 0 4 = 0x4E4B4F54 && bytesNat bs 4 2 = 1 && s.slotGood (bytesNat bs 7 1)
    && (bs.drop 8).take 16 = fitBytes 16 s.fuses.serial && bytesNat bs 0x18 4 = s.sec.bootId && decide (s.now < bytesNat bs 0x20 8)
    && sha512 ((bs.drop 0x28).take 133) = smGet s.fuses.ownerHash [] (bytesNat bs 7 1)
    && ecdsaOk ((bs.drop 0x28).take 133) (bs.take 0xB0) ((bs.drop 0xB0).take 132)

/-! ### TEST -/

/-- A released safety-rank entry needs a pair: without it, too few of its pool would serve (R478). -/
def safetyNeeds (s : State) (p : Nat) : Bool :=
  match s.disp.tt with
  | none => false
  | some tt => s.driveRuns && (List.range tt.entries.length).any (fun i => match tt.entries[i]? with
    | none => false
    | some e => e.rank = 0xFF && (s.entryRun i).phase = .released && (s.poolServes tt e).contains p && decide ((s.poolServes tt e).length ≤ e.pairs))

/-- The unit of a TEST. -/
def testUnit : TestTarget → FaultUnit
  | .tile t => .tile t
  | .lane j => .lane j

/-- A TEST is accepted: no new work comes to the unit (R478). -/
def beginTest (s : State) (target : TestTarget) : State :=
  let s1 := match target with
    | .tile t => s.updTile t (fun T => { T with testAsked := true })
    | .lane _ => s
  s1.updMon (fun m => { m with testing := some target, testAt := s.now, reply := .silent, words := [] })

/-- The unit's running work has ended, so that its pass could run (R478). -/
def testIdle (s : State) (target : TestTarget) : Bool :=
  match target with
  | .tile t => (s.unitTiles (.tile t)).all (fun u => !s.tileTaken u)
  | .lane _ => match s.ilk.running with
    | some r => decide (s.mon.testAt ≤ r.start)
    | none => true

/-- The pass ends and is reported (R317, R478). -/
def endTest (s : State) (target : TestTarget) (ok : Bool) : State :=
  let s1 := match target with
    | .tile t => s.updTile t (fun T => { T with testAsked := false })
    | .lane _ => s
  let s2 := (s1.updMon (fun m => { m with testing := none })).answer .ok [b2n ok]
  if !ok then s2.testFailed (testUnit target)
  else match target with
    | .tile t => if s2.tileServes t || (s2.tile t).health = .rejoining then s2.passDone t else s2
    | .lane _ => s2

/-! ### LOAD -/

/-- The range of a LOAD lies in the host area (R479). -/
def loadFits (off len : Nat) : Bool := off % 64 = 0 && decide (off + len ≤ 0x1E00000)

/-- LOAD's checks, and the load itself (R479). -/
def monLoading (s : State) (off len : Nat) (eff : State → State) : State :=
  s.command (.scoped .load) (fun s => if s.service = 2 then s.monDenied else if !loadFits off len then s.answer (.err .badArg) else eff s)

/-- The range is written with zeros and the command ends ERR CRC (R479). -/
def loadFailed (s : State) (off len : Nat) : State := (s.zero (psramBase 0 + off) len).answer (.err .crc)

end State

/-- Rates that BAUD selects (R475). -/
def baudRates : List Nat := [115200, 230400, 460800, 921600, 1000000, 2000000, 3000000]

/-- ID (R478): serial, lifecycle state, boot identifier, challenge and the first stage's SVN. -/
def execMonId (s : State) : Res :=
  whenLive s (fun s => s.command .ident (fun s =>
    let serial := fitBytes 16 s.fuses.serial
    let chal := fitBytes 16 s.sec.challenge
    s.answer .ok ((List.range 4).map (fun k => bytesNat serial (4 * k) 4) ++ [s.sec.life, s.sec.bootId]
      ++ (List.range 4).map (fun k => bytesNat chal (4 * k) 4) ++ [s.fld (pgSec + 0x108) 11 5])))

/-- BAUD (R475). -/
def execMonBaud (rate : Nat) (s : State) : Res :=
  whenLive s (fun s => s.command .baud (fun s =>
    if baudRates.contains rate then (s.answer .ok).setFld (pgMon + 0x104) 21 0 rate else s.answer (.err .badArg)))

/-- TOKEN (R477): after a refused token none is served for 1 s. -/
def execMonToken (token : List Byte) (s : State) : Res :=
  whenLive s (fun s => s.command .token (fun s =>
    if s.now < s.mon.tokenAgainAt then s.monDenied
    else if token.length ≠ 308 then s.answer (.err .badArg)
    else if s.tokenOk token then
      (s.updMon (fun m => { m with token := some (bytesNat token 6 1 % 16, bytesNat token 0x20 8) })).answer .ok
    else s.monFailed.updMon (fun m => { m with tokenAgainAt := s.now + 1000000000 })))

/-- END drops the token (R477). -/
def execMonEnd (s : State) : Res :=
  whenLive s (fun s => s.command .token (fun s => (s.updMon (fun m => { m with token := none })).answer .ok))

/-- STAT (R478). -/
def execMonStat (s : State) : Res :=
  whenLive s (fun s => s.command (.scoped .read) (fun s =>
    let x := s.monReads [pgService + 0x104, pgSafety + 0x100, pgTick + 0x104, pgPwr + 0x104, pgCool + 0x104]
    x.2.answer .ok (x.1 ++ [s.now % 2 ^ 64])))

/-- RD (R478): 1–256 aligned words. -/
def execMonRd (addr : Nat) (n : Nat) (s : State) : Res :=
  whenLive s (fun s => s.command (.scoped .read) (fun s =>
    if addr % 4 ≠ 0 ∨ n = 0 ∨ 256 < n then s.answer (.err .badArg) else State.monReadRun addr n [] s))

/-- CNT (R478): every counter of a page, in order. -/
def execMonCnt (page : Nat) (s : State) : Res :=
  whenLive s (fun s => s.command (.scoped .read) (fun s =>
    if s.countersOf page = 0 then s.answer (.err .badArg)
    else
      let x := s.monReads ((List.range (s.countersOf page)).flatMap (fun n => (List.range 4).map (fun k => page + 0x120 + 0x10 * n + 4 * k)))
      x.2.answer .ok x.1))

/-- ERR (R478). -/
def execMonErr (page : Option Nat) (s : State) : Res :=
  whenLive s (fun s => s.command (.scoped .read) (fun s =>
    match page with
    | none =>
      let x := s.monReads (s.errorPages.flatMap (fun p => [p + 0x28, p + 0x2C, p + 0x20]))
      x.2.answer .ok x.1
    | some p =>
      if (s.block p).isNone then (s.recordErr pgMon 0x5101).answer (.err .unmapped)
      else State.monDrain p ((smGet s.errq [] p).length + 1) [] s))

/-- WR (R478): one aligned write with the Stationmaster's permissions. -/
def execMonWr (addr : Nat) (w : Word) (s : State) : Res :=
  whenLive s (fun s => s.command (.scoped .write) (fun s =>
    if addr % 4 ≠ 0 then s.answer (.err .badArg)
    else if (s.regAt addr).isNone then (s.writeReg .monitor addr w).answer (.err .unmapped)
    else (s.writeReg .monitor addr w).answer .ok))

/-- ERRCLR (R478). -/
def execMonErrclr (page : Nat) (s : State) : Res :=
  whenLive s (fun s => s.command (.scoped .write) (fun s =>
    if (s.block page).isNone then (s.recordErr pgMon 0x5101).answer (.err .unmapped)
    else ((s.writeReg .monitor (page + 0x20) 0xFFFFFFFF).writeReg .monitor (page + 0x28) 0x80000000).answer .ok))

/-- TEST (R478): the end line follows the pass. -/
def execMonTest (target : TestTarget) (s : State) : Res :=
  whenLive s (fun s => s.command (.scoped .test) (fun s =>
    match target with
    | .tile t =>
      if 64 ≤ t ∨ !s.tilePresent t then s.answer (.err .badArg)
      else if !s.tileServes t || s.safetyNeeds (t / 2) then s.answer (.err .busy)
      else s.beginTest target
    | .lane j =>
      if 16 ≤ j then s.answer (.err .badArg)
      else if s.ilk.lanesOut.contains j then s.answer (.err .busy)
      else s.beginTest target))

/-- LOAD has ended, its bytes and their CRC taken (R479). -/
def execMonLoad (l : LoadInput) (s : State) : Res :=
  whenLive s (fun s => s.monLoading l.off l.len (fun s =>
    if l.data.length = l.len ∧ crc32c l.data = l.crc.toNat then
      ((s.write (psramBase 0 + l.off) l.data).updMon (fun m => { m with loaded := some (l.off, l.len) })).answer .ok
    else s.loadFailed l.off l.len))

/-- LOAD_TIMEOUT (R479): a gap of 1 s between the characters of a load. -/
def execMonLoadTimeout (off : Nat) (len : Nat) (s : State) : Res :=
  whenLive s (fun s => s.monLoading off len (fun s => s.loadFailed off len))

/-- BOOT (R398, R399, R478): the loaded image verifies and starts, or start-up stops. -/
def execMonBoot (off : Nat) (image : FirstStage) (s : State) : Res :=
  whenLive s (fun s => s.command .boot (fun s =>
    match s.mon.loaded with
    | none => s.answer (.err .badArg)
    | some (o, n) =>
      if off < o ∨ o + n < off + 512 then s.answer (.err .badArg)
      else if s.start.step ≠ 2 then s.answer (.err .busy)
      else if s.imageOk image then (s.updMon (fun m => { m with booted := some image })).answer .ok
      else (s.recordErr pgSec 0x5B01).stopStart.monDenied))

/-- UNLOCK (R421, R478): success opens the private test modes until the next PORST_N. -/
def execMonUnlock (answerOk : Bool) (s : State) : Res :=
  whenLive s (fun s => s.command .unlock (fun s =>
    if s.now < s.mon.unlockAgainAt then s.monDenied
    else if answerOk then (s.updMon (fun m => { m with testModes := true })).answer .ok
    else s.monFailed.newChallenge.updMon (fun m => { m with unlockAgainAt := s.now + 1000000000 })))

/-- TOKEN_EXPIRY (R477). -/
def execTokenExpiry (s : State) : Res :=
  whenLive s (fun s =>
    match s.mon.token with
    | some (_, expiry) => if expiry ≤ s.now then s.updMon (fun m => { m with token := none }) else s
    | none => s)

/-- TEST_REPORT (R317, R329, R478): the full pass of a TEST has ended. -/
def execTestReport (ok : Bool) (s : State) : Res :=
  whenLive s (fun s =>
    match s.mon.testing with
    | none => s
    | some target => if s.testIdle target then s.endTest target ok else s)

end Sys2Proof.Machine
end

