-- ==== Sys2Proof/Machine/Dispatch.lean ====
section
/-! DEFINITION. The dispatch: each command's one meaning. -/

namespace Sys2Proof.Machine

open Sys2Proof

/-- The effect of a command on everything but the queue. -/
def exec (i : Instr) (s : State) : Host.Outcome State Fault Refusal :=
  match i with
  | .serviceReqDrive who parked guard => Sys2Proof.Machine.execServiceReqDrive who parked guard s
  | .serviceReqDepot who parked guard => Sys2Proof.Machine.execServiceReqDepot who parked guard s
  | .parked who value => Sys2Proof.Machine.execParked who value s
  | .parkOkSample a b => Sys2Proof.Machine.execParkOkSample a b s
  | .handoverStepEnd r => Sys2Proof.Machine.execHandoverStepEnd r s
  | .handoverCheckpoint => Sys2Proof.Machine.execHandoverCheckpoint s
  | .stepLate => Sys2Proof.Machine.execStepLate s
  | .handoverFailed => Sys2Proof.Machine.execHandoverFailed s
  | .loop iss creg cimm skip => Sys2Proof.Machine.execLoop iss creg cimm skip s
  | .endloop iss => Sys2Proof.Machine.execEndloop iss s
  | .br iss pop off => Sys2Proof.Machine.execBr iss pop off s
  | .brc iss reg cond bit pop off => Sys2Proof.Machine.execBrc iss reg cond bit pop off s
  | .waitEvent iss imm => Sys2Proof.Machine.execWaitEvent iss imm s
  | .waitDock iss dock rf sreg imm => Sys2Proof.Machine.execWaitDock iss dock rf sreg imm s
  | .waitTime iss sreg => Sys2Proof.Machine.execWaitTime iss sreg s
  | .waitTags iss imm => Sys2Proof.Machine.execWaitTags iss imm s
  | .signalEvent iss rf sreg tile num => Sys2Proof.Machine.execSignalEvent iss rf sreg tile num s
  | .signalDockOpen iss num => Sys2Proof.Machine.execSignalDockOpen iss num s
  | .signalDockClose iss num => Sys2Proof.Machine.execSignalDockClose iss num s
  | .sets iss dst imm => Sys2Proof.Machine.execSets iss dst imm s
  | .adds iss dst srca srcb imm => Sys2Proof.Machine.execAdds iss dst srca srcb imm s
  | .roster iss sb table n1 chunk skip => Sys2Proof.Machine.execRoster iss sb table n1 chunk skip s
  | .budget iss sd thresh => Sys2Proof.Machine.execBudget iss sd thresh s
  | .fence iss mask => Sys2Proof.Machine.execFence iss mask s
  | .mark iss value => Sys2Proof.Machine.execMark iss value s
  | .endWaybill iss code => Sys2Proof.Machine.execEndWaybill iss code s
  | .ldrow iss tag an dst n1 sf ss off => Sys2Proof.Machine.execLdrow iss tag an dst n1 sf ss off s
  | .strow iss tag an src n1 sf ss off => Sys2Proof.Machine.execStrow iss tag an src n1 sf ss off s
  | .ldledger iss tag an dst n1 sd off => Sys2Proof.Machine.execLdledger iss tag an dst n1 sd off s
  | .dockwr iss tag src n1 seatf seat tile dock doff => Sys2Proof.Machine.execDockwr iss tag src n1 seatf seat tile dock doff s
  | .platcpy iss tag dan san lreg => Sys2Proof.Machine.execPlatcpy iss tag dan san lreg s
  | .gather iss tag an dst idx n1 sm ss => Sys2Proof.Machine.execGather iss tag an dst idx n1 sm ss s
  | .ldw iss tag mode sc n1 src => Sys2Proof.Machine.execLdw iss tag mode sc n1 src s
  | .commit iss tag an se sn sd seatf seat off => Sys2Proof.Machine.execCommit iss tag an se sn sd seatf seat off s
  | .moveComplete tile move lines ecc eccF => Sys2Proof.Machine.execMoveComplete tile move lines ecc eccF s
  | .mma iss act acc m1 fmt scl => Sys2Proof.Machine.execMma iss act acc m1 fmt scl s
  | .mmaz iss act acc m1 fmt scl => Sys2Proof.Machine.execMmaz iss act acc m1 fmt scl s
  | .conv iss act acc sd fmt scl => Sys2Proof.Machine.execConv iss act acc sd fmt scl s
  | .dconv iss act acc sd fmt scl g => Sys2Proof.Machine.execDconv iss act acc sd fmt scl g s
  | .swapw iss => Sys2Proof.Machine.execSwapw iss s
  | .accrd iss acc m1 dst ofmt epi sr relu => Sys2Proof.Machine.execAccrd iss acc m1 dst ofmt epi sr relu s
  | .vopMov iss v => Sys2Proof.Machine.execVopMov iss v s
  | .vopAdd iss v => Sys2Proof.Machine.execVopAdd iss v s
  | .vopSub iss v => Sys2Proof.Machine.execVopSub iss v s
  | .vopMul iss v => Sys2Proof.Machine.execVopMul iss v s
  | .vopMax iss v => Sys2Proof.Machine.execVopMax iss v s
  | .vopMin iss v => Sys2Proof.Machine.execVopMin iss v s
  | .vopAbs iss v => Sys2Proof.Machine.execVopAbs iss v s
  | .vopNeg iss v => Sys2Proof.Machine.execVopNeg iss v s
  | .vopRelu iss v => Sys2Proof.Machine.execVopRelu iss v s
  | .vopRcp iss v => Sys2Proof.Machine.execVopRcp iss v s
  | .vopRsqrt iss v => Sys2Proof.Machine.execVopRsqrt iss v s
  | .vopAnd iss v => Sys2Proof.Machine.execVopAnd iss v s
  | .vopOr iss v => Sys2Proof.Machine.execVopOr iss v s
  | .vopXor iss v => Sys2Proof.Machine.execVopXor iss v s
  | .vopShl iss v => Sys2Proof.Machine.execVopShl iss v s
  | .vopShr iss v => Sys2Proof.Machine.execVopShr iss v s
  | .vopZero iss v => Sys2Proof.Machine.execVopZero iss v s
  | .vfma iss v => Sys2Proof.Machine.execVfma iss v s
  | .vredSum iss v lanes => Sys2Proof.Machine.execVredSum iss v lanes s
  | .vredMax iss v lanes => Sys2Proof.Machine.execVredMax iss v lanes s
  | .vredMin iss v lanes => Sys2Proof.Machine.execVredMin iss v lanes s
  | .vcvt iss v src dst => Sys2Proof.Machine.execVcvt iss v src dst s
  | .vtabLoad iss v => Sys2Proof.Machine.execVtabLoad iss v s
  | .vtabEval iss v => Sys2Proof.Machine.execVtabEval iss v s
  | .vexp2 iss v => Sys2Proof.Machine.execVexp2 iss v s
  | .vmerge iss v init final => Sys2Proof.Machine.execVmerge iss v init final s
  | .vpoolMax iss v countPad => Sys2Proof.Machine.execVpoolMax iss v countPad s
  | .vpoolAvg iss v countPad => Sys2Proof.Machine.execVpoolAvg iss v countPad s
  | .vxpose iss v => Sys2Proof.Machine.execVxpose iss v s
  | .vsel iss v => Sys2Proof.Machine.execVsel iss v s
  | .vcmpEq iss v => Sys2Proof.Machine.execVcmpEq iss v s
  | .vcmpNe iss v => Sys2Proof.Machine.execVcmpNe iss v s
  | .vcmpLt iss v => Sys2Proof.Machine.execVcmpLt iss v s
  | .vcmpLe iss v => Sys2Proof.Machine.execVcmpLe iss v s
  | .vcmpGt iss v => Sys2Proof.Machine.execVcmpGt iss v s
  | .vcmpGe iss v => Sys2Proof.Machine.execVcmpGe iss v s
  | .budgetExhausted tile => Sys2Proof.Machine.execBudgetExhausted tile s
  | .tileSegPwr who tile w => Sys2Proof.Machine.execTileSegPwr who tile w s
  | .segmentPowerDown tile seg => Sys2Proof.Machine.execSegmentPowerDown tile seg s
  | .segmentReady tile seg => Sys2Proof.Machine.execSegmentReady tile seg s
  | .rowScrub tile found => Sys2Proof.Machine.execRowScrub tile found s
  | .berthStore who tile n w => Sys2Proof.Machine.execBerthStore who tile n w s
  | .berthIbuf who tile n w => Sys2Proof.Machine.execBerthIbuf who tile n w s
  | .berthOwner who tile n w => Sys2Proof.Machine.execBerthOwner who tile n w s
  | .berthHandle who tile n w => Sys2Proof.Machine.execBerthHandle who tile n w s
  | .berthZeroed tile n => Sys2Proof.Machine.execBerthZeroed tile n s
  | .berthImageLoaded tile n lines => Sys2Proof.Machine.execBerthImageLoaded tile n lines s
  | .dockOpen who tile k w => Sys2Proof.Machine.execDockOpen who tile k w s
  | .dockClose who tile k w => Sys2Proof.Machine.execDockClose who tile k w s
  | .dockRange who tile k ctl w => Sys2Proof.Machine.execDockRange who tile k ctl w s
  | .remoteWrite tile src ecc eccF => Sys2Proof.Machine.execRemoteWrite tile src ecc eccF s
  | .dockWriteLanded tile => Sys2Proof.Machine.execDockWriteLanded tile s
  | .eventArrival tile bit tenant => Sys2Proof.Machine.execEventArrival tile bit tenant s
  | .doorbell port slot ring count rsv seq crc => Sys2Proof.Machine.execDoorbell port slot ring count rsv seq crc s
  | .doorbellReread port slot => Sys2Proof.Machine.execDoorbellReread port slot s
  | .completionRingDoorbell port slot ring count rsv seq crc => Sys2Proof.Machine.execCompletionRingDoorbell port slot ring count rsv seq crc s
  | .placement => Sys2Proof.Machine.execPlacement s
  | .waybillStart wid => Sys2Proof.Machine.execWaybillStart wid s
  | .completionRecord idx => Sys2Proof.Machine.execCompletionRecord idx s
  | .dropSpan => Sys2Proof.Machine.execDropSpan s
  | .pageRelease idx => Sys2Proof.Machine.execPageRelease idx s
  | .tick => Sys2Proof.Machine.execTick s
  | .slotStart => Sys2Proof.Machine.execSlotStart s
  | .latestStart entry => Sys2Proof.Machine.execLatestStart entry s
  | .safetyRankEvaluation entry => Sys2Proof.Machine.execSafetyRankEvaluation entry s
  | .abortComplete pair => Sys2Proof.Machine.execAbortComplete pair s
  | .provingRun => Sys2Proof.Machine.execProvingRun s
  | .provingRunEnd pair output => Sys2Proof.Machine.execProvingRunEnd pair output s
  | .frameSyncEdge high => Sys2Proof.Machine.execFrameSyncEdge high s
  | .frameSyncStuck => Sys2Proof.Machine.execFrameSyncStuck s
  | .missingTick => Sys2Proof.Machine.execMissingTick s
  | .internalTick => Sys2Proof.Machine.execInternalTick s
  | .depotTick => Sys2Proof.Machine.execDepotTick s
  | .poLoad who => Sys2Proof.Machine.execPoLoad who s
  | .ppLoad who => Sys2Proof.Machine.execPpLoad who s
  | .openSeq ring => Sys2Proof.Machine.execOpenSeq ring s
  | .appendTokens ring => Sys2Proof.Machine.execAppendTokens ring s
  | .setEvictable ring => Sys2Proof.Machine.execSetEvictable ring s
  | .closeSeq ring => Sys2Proof.Machine.execCloseSeq ring s
  | .sessionOpen ring p => Sys2Proof.Machine.execSessionOpen ring p s
  | .sessionClose ring => Sys2Proof.Machine.execSessionClose ring s
  | .register ring serving => Sys2Proof.Machine.execRegister ring serving s
  | .rotate ring => Sys2Proof.Machine.execRotate ring s
  | .manifest ring => Sys2Proof.Machine.execManifest ring s
  | .rekeyPage drained => Sys2Proof.Machine.execRekeyPage drained s
  | .ilkRequest slot found => Sys2Proof.Machine.execIlkRequest slot found s
  | .plan found => Sys2Proof.Machine.execPlan found s
  | .check found => Sys2Proof.Machine.execCheck found s
  | .ilkLoad => Sys2Proof.Machine.execIlkLoad s
  | .loadComplete found lines => Sys2Proof.Machine.execLoadComplete found lines s
  | .checkComplete found => Sys2Proof.Machine.execCheckComplete found s
  | .checkStop tested found => Sys2Proof.Machine.execCheckStop tested found s
  | .timetablingAttempt found => Sys2Proof.Machine.execTimetablingAttempt found s
  | .planWatch found => Sys2Proof.Machine.execPlanWatch found s
  | .bufferStopComputed found => Sys2Proof.Machine.execBufferStopComputed found s
  | .ilkOwner who w => Sys2Proof.Machine.execIlkOwner who w s
  | .patrol die symbols mac copyBad => Sys2Proof.Machine.execPatrol die symbols mac copyBad s
  | .lineRewrite die => Sys2Proof.Machine.execLineRewrite die s
  | .chMigrated die lines => Sys2Proof.Machine.execChMigrated die lines s
  | .dramRefresh die channel bank => Sys2Proof.Machine.execDramRefresh die channel bank s
  | .thermalSample die diodes sensors => Sys2Proof.Machine.execThermalSample die diodes sensors s
  | .driveReserveCopy => Sys2Proof.Machine.execDriveReserveCopy s
  | .compareMismatch u => Sys2Proof.Machine.execCompareMismatch u s
  | .recoveryPhaseEnd => Sys2Proof.Machine.execRecoveryPhaseEnd s
  | .phaseLate => Sys2Proof.Machine.execPhaseLate s
  | .verdict u passes => Sys2Proof.Machine.execVerdict u passes s
  | .spareFill die => Sys2Proof.Machine.execSpareFill die s
  | .injectionTest u ok => Sys2Proof.Machine.execInjectionTest u ok s
  | .selftestSegment u ok => Sys2Proof.Machine.execSelftestSegment u ok s
  | .diagnosticInterval tile => Sys2Proof.Machine.execDiagnosticInterval tile s
  | .islandStateWord fromA fromB => Sys2Proof.Machine.execIslandStateWord fromA fromB s
  | .heartbeatCheck hubA hubB => Sys2Proof.Machine.execHeartbeatCheck hubA hubB s
  | .clockCheck refclk oscA oscB => Sys2Proof.Machine.execClockCheck refclk oscA oscB s
  | .voltageSample island readings => Sys2Proof.Machine.execVoltageSample island readings s
  | .frameLost => Sys2Proof.Machine.execFrameLost s
  | .hostRead port offset len channel bank bus => Sys2Proof.Machine.execHostRead port offset len channel bank bus s
  | .hostWrite port offset data channel bank bus => Sys2Proof.Machine.execHostWrite port offset data channel bank bus s
  | .forwardedWrite port => Sys2Proof.Machine.execForwardedWrite port s
  | .modeRegisterWrite port channel mr value bus => Sys2Proof.Machine.execModeRegisterWrite port channel mr value bus s
  | .training port channel flow ok => Sys2Proof.Machine.execTraining port channel flow ok s
  | .hostRefresh port channel bank bus => Sys2Proof.Machine.execHostRefresh port channel bank bus s
  | .selfRefreshEntry port channel bus => Sys2Proof.Machine.execSelfRefreshEntry port channel bus s
  | .selfRefreshExit port channel bus => Sys2Proof.Machine.execSelfRefreshExit port channel bus s
  | .powerDownEntry port channel bus => Sys2Proof.Machine.execPowerDownEntry port channel bus s
  | .powerDownExit port channel bus => Sys2Proof.Machine.execPowerDownExit port channel bus s
  | .deepSleepEntry port channel bus => Sys2Proof.Machine.execDeepSleepEntry port channel bus s
  | .deepSleepExit port channel bus => Sys2Proof.Machine.execDeepSleepExit port channel bus s
  | .portReset port => Sys2Proof.Machine.execPortReset port s
  | .proxyRequest port entry addr wdata ctl => Sys2Proof.Machine.execProxyRequest port entry addr wdata ctl s
  | .proxyResponse port entry => Sys2Proof.Machine.execProxyResponse port entry s
  | .platIrqStat port w => Sys2Proof.Machine.execPlatIrqStat port w s
  | .completionHoldoff port => Sys2Proof.Machine.execCompletionHoldoff port s
  | .peerTraining port ok => Sys2Proof.Machine.execPeerTraining port ok s
  | .peerLost port fell => Sys2Proof.Machine.execPeerLost port fell s
  | .peerIrq port => Sys2Proof.Machine.execPeerIrq port s
  | .linkDown port => Sys2Proof.Machine.execLinkDown port s
  | .ptpSync x => Sys2Proof.Machine.execPtpSync x s
  | .join who => Sys2Proof.Machine.execJoin who s
  | .leave who => Sys2Proof.Machine.execLeave who s
  | .joinRequest j => Sys2Proof.Machine.execJoinRequest j s
  | .rosterUpdate p => Sys2Proof.Machine.execRosterUpdate p s
  | .heartbeatTimer => Sys2Proof.Machine.execHeartbeatTimer s
  | .heartbeat p => Sys2Proof.Machine.execHeartbeat p s
  | .acknowledgement p => Sys2Proof.Machine.execAcknowledgement p s
  | .seatDead seat => Sys2Proof.Machine.execSeatDead seat s
  | .convoyFence p => Sys2Proof.Machine.execConvoyFence p s
  | .leaseExpiry => Sys2Proof.Machine.execLeaseExpiry s
  | .leaveMessage p => Sys2Proof.Machine.execLeaveMessage p s
  | .standbyClaim => Sys2Proof.Machine.execStandbyClaim s
  | .leaderSelfFence => Sys2Proof.Machine.execLeaderSelfFence s
  | .caravanPacket p => Sys2Proof.Machine.execCaravanPacket p s
  | .retransmit seat psn => Sys2Proof.Machine.execRetransmit seat psn s
  | .acknowledgementOnly seat => Sys2Proof.Machine.execAcknowledgementOnly seat s
  | .bank p => Sys2Proof.Machine.execBank p s
  | .bankLost p => Sys2Proof.Machine.execBankLost p s
  | .bankLate consist member => Sys2Proof.Machine.execBankLate consist member s
  | .arm who slot w => Sys2Proof.Machine.execArm who slot w s
  | .freeSlot who slot w => Sys2Proof.Machine.execFreeSlot who slot w s
  | .setOwnerSlot => Sys2Proof.Machine.execSetOwnerSlot s
  | .revokeSlot => Sys2Proof.Machine.execRevokeSlot s
  | .advanceRollback => Sys2Proof.Machine.execAdvanceRollback s
  | .toField => Sys2Proof.Machine.execToField s
  | .toReturned => Sys2Proof.Machine.execToReturned s
  | .toScrapped => Sys2Proof.Machine.execToScrapped s
  | .drbgReseed => Sys2Proof.Machine.execDrbgReseed s
  | .trngFail hub => Sys2Proof.Machine.execTrngFail hub s
  | .porstNAssert => Sys2Proof.Machine.execPorstNAssert s
  | .porstNRelease role0 role1 bootSel diodes => Sys2Proof.Machine.execPorstNRelease role0 role1 bootSel diodes s
  | .startUpStepEnd r => Sys2Proof.Machine.execStartUpStepEnd r s
  | .startLate => Sys2Proof.Machine.execStartLate s
  | .warmReset => Sys2Proof.Machine.execWarmReset s
  | .warmResetRelease => Sys2Proof.Machine.execWarmResetRelease s
  | .viaductFrame page bundle f => Sys2Proof.Machine.execViaductFrame page bundle f s
  | .retry page bundle seq => Sys2Proof.Machine.execRetry page bundle seq s
  | .viaStorm page bundle => Sys2Proof.Machine.execViaStorm page bundle s
  | .brownout rail => Sys2Proof.Machine.execBrownout rail s
  | .avsUpdate requests read => Sys2Proof.Machine.execAvsUpdate requests read s
  | .powerSample watts => Sys2Proof.Machine.execPowerSample watts s
  | .thermalTrip diodes => Sys2Proof.Machine.execThermalTrip diodes s
  | .flowSample edges latest overrate inlet outlet => Sys2Proof.Machine.execFlowSample edges latest overrate inlet outlet s
  | .coolingLost slope => Sys2Proof.Machine.execCoolingLost slope s
  | .agingMonitor tile headroom => Sys2Proof.Machine.execAgingMonitor tile headroom s
  | .errNext who page => Sys2Proof.Machine.execErrNext who page s
  | .errSticky who page w => Sys2Proof.Machine.execErrSticky who page w s
  | .errFirst who page w => Sys2Proof.Machine.execErrFirst who page w s
  | .errInject who page w => Sys2Proof.Machine.execErrInject who page w s
  | .hubTimeLo hub => Sys2Proof.Machine.execHubTimeLo hub s
  | .cntGo who page w => Sys2Proof.Machine.execCntGo who page w s
  | .cntLoRead who page n => Sys2Proof.Machine.execCntLoRead who page n s
  | .cntLoWrite who page n w => Sys2Proof.Machine.execCntLoWrite who page n w s
  | .counterWrap page n bundle => Sys2Proof.Machine.execCounterWrap page n bundle s
  | .monId => Sys2Proof.Machine.execMonId s
  | .monBaud rate => Sys2Proof.Machine.execMonBaud rate s
  | .monToken token => Sys2Proof.Machine.execMonToken token s
  | .monEnd => Sys2Proof.Machine.execMonEnd s
  | .monStat => Sys2Proof.Machine.execMonStat s
  | .monRd addr n => Sys2Proof.Machine.execMonRd addr n s
  | .monCnt page => Sys2Proof.Machine.execMonCnt page s
  | .monErr page => Sys2Proof.Machine.execMonErr page s
  | .monWr addr w => Sys2Proof.Machine.execMonWr addr w s
  | .monErrclr page => Sys2Proof.Machine.execMonErrclr page s
  | .monTest target => Sys2Proof.Machine.execMonTest target s
  | .monLoad l => Sys2Proof.Machine.execMonLoad l s
  | .monLoadTimeout off len => Sys2Proof.Machine.execMonLoadTimeout off len s
  | .monBoot off image => Sys2Proof.Machine.execMonBoot off image s
  | .monUnlock answerOk => Sys2Proof.Machine.execMonUnlock answerOk s
  | .registerWrite who addr w => Sys2Proof.Machine.execRegisterWrite who addr w s
  | .islandFault island => Sys2Proof.Machine.execIslandFault island s
  | .routerFault die region => Sys2Proof.Machine.execRouterFault die region s
  | .fabricFault die => Sys2Proof.Machine.execFabricFault die s
  | .dramUe addr symbols mac copyBad => Sys2Proof.Machine.execDramUe addr symbols mac copyBad s
  | .slackFault die => Sys2Proof.Machine.execSlackFault die s
  | .linkUp port partner => Sys2Proof.Machine.execLinkUp port partner s
  | .ethernetFrame port f => Sys2Proof.Machine.execEthernetFrame port f s
  | .activate port channel bank row bus => Sys2Proof.Machine.execActivate port channel bank row bus s
  | .precharge port channel bank bus => Sys2Proof.Machine.execPrecharge port channel bank bus s
  | .tokenExpiry => Sys2Proof.Machine.execTokenExpiry s
  | .contextLoad tile => Sys2Proof.Machine.execContextLoad tile s
  | .testReport ok => Sys2Proof.Machine.execTestReport ok s
  | .sessionCloseZeroed tenant => Sys2Proof.Machine.execSessionCloseZeroed tenant s
  | .internalResetRelease => Sys2Proof.Machine.execInternalResetRelease s

end Sys2Proof.Machine
end

