-- ==== Sys2Proof/Safety.lean ====
section
/-! DEFINITION. The terms that the statements use: what a safe run is, when a command completes, and when a write or a slot is let through. -/

namespace Sys2Proof.Machine

open Sys2Proof

/-- A step that goes on: it answers a next state. -/
def goesOn (s : State) : Prop := ∃ t, step s = .next t

/-- The memory keeps its canonical form. -/
def MemInv (s : State) : Prop := Memory.wf s.mem = true

/-- Command `c` completes in `s`: it answers a next state, and `P` holds of that state. -/
def Answers (c : Instr) (s : State) (P : State → Prop) : Prop := ∃ t, exec c s = .next t ∧ P t

/-- No register's stored value changed but those listed. -/
def RegsBut (s t : State) (l : List Nat) : Prop := ∀ a, a ∉ l → t.reg a = s.reg a

/-- The register at an address exists on this device, and its block accepts this writer (R26, R459). -/
def mayWrite (s : State) (who : Writer) (a : Nat) : Bool :=
  match s.block (a / 0x1000 * 0x1000) with
  | none => false
  | some (b, i) => (regDef b i (a % 0x1000) s.fuses.size).isSome && writerMay who b (a % 0x1000)

/-- The slot is the only one of its bundle: it is handed over last, and the instruction buffer holds NOPs at the other positions (R80, R107). -/
def slotLone (s : State) (i : Issue) (x : Slot) : Bool :=
  i.last && decide (i.nops = 0) && (s.tile i.tile).bundle.isEmpty &&
    [SlotPos.ctl, .mov, .mat, .vec].all (fun p => p = x.pos || (s.slotFetched i p).isNone)

/-- The slot's tile issues, the slot is alone in its bundle, no error of R109 stops it and nothing holds it (R82, R86, R87, R109). -/
def slotIssues (s : State) (i : Issue) (x : Slot) : Bool :=
  s.live && s.tileIssues i.tile && !s.follows i.tile && slotLone s i x &&
    (s.bundleError i.tile (x.pos = .vec) [x.plan s i.tile]).isNone && !s.bundleHeld i.tile [x.plan s i.tile]

/-- The slot instruction runs: it is a slot's, and that slot issues. -/
def slotRuns (s : State) (ins : Instr) : Bool :=
  match slotOf ins with
  | some (i, x) => slotIssues s i x
  | none => false

/-- No member of a pair issues with the slot's tile, the corrector finds nothing in the rows that the slot reads, and the bundle that follows
lies in the instruction share (R70, R92, R101). -/
def slotAlone (s : State) (i : Issue) : Bool :=
  !(s.tile i.tile).coupled && i.ecc = [] && decide ((s.tile i.tile).pc + 1 < s.ibufSize i.tile (s.berth i.tile))

end Sys2Proof.Machine
end

