-- ==== Sys2Proof/WellFormed.lean ====
section
/-! DEFINITION. Which commands are well formed: every operand names something that the device has room for. -/

namespace Sys2Proof

/-- A logical tile or a spare entry (R19, R23). -/
def tileOk (t : Nat) : Bool := t < 68
/-- A Platform port (R14). -/
def portOk (p : Nat) : Bool := p < 2
/-- A compute die (R14). -/
def dieOk (d : Nat) : Bool := d < 4
/-- A hot-spot die: a compute die or one of the hubs, 4 and 5 (R459). -/
def spotDieOk (d : Nat) : Bool := d < 6
/-- A convoy seat (R370). -/
def seatOk (n : Nat) : Bool := n < 256
/-- A register page starts on 4 KiB (R459). -/
def pageOk (p : Nat) : Bool := p % 0x1000 = 0
/-- A convoy port (R14). -/
def ethOk (p : Nat) : Bool := p < 4

/-- The writer exists. -/
def Writer.ok : Writer → Bool
  | .host p => portOk p
  | .proxy p => portOk p
  | _ => true

/-- A store row that a finding names (R67). -/
def rowOk (r : Nat × Bool) : Bool := r.1 < 1280

/-- The slot comes to a tile, and the rows that its bundle's reads name are rows of the store (R67). -/
def Issue.ok (i : Issue) : Bool := tileOk i.tile && i.ecc.all rowOk && i.eccF.all rowOk

/-- A finding names symbols of a line (R291). -/
def symbolsOk (l : List Nat) : Bool := l.all (fun k => k < 72)

/-- A finding names a line by its address. -/
def LineFinding.ok (f : LineFinding) : Bool := f.line < 0x2000000000 && symbolsOk f.symbols

/-- The bank and the row or column line exist (R289, R290). -/
def DramUnit.ok (u : DramUnit) : Bool := u.channel < 33 && u.bank < 32 && u.index < (if u.column then 16 else 32768)

/-- The area exists (R258). -/
def IlkFinding.ok (f : IlkFinding) : Bool := f.area < 5

/-- What a roster says of a seat names one, with the addresses of at most its four ports (R371). -/
def SeatInfo.ok (x : SeatInfo) : Bool := seatOk x.seat && x.addrs.length ≤ 4

/-- A consist ID has 16 bits (R393). -/
def consistIdOk (n : Nat) : Bool := n < 65536

/-- What a Caravan message says names units that exist, and the rows of a dock write are whole (R381). -/
def CaravanOp.ok : CaravanOp → Bool
  | .dockWrite _ t k _ rows => tileOk t && k < 16 && rows.all (fun r => r.length = 512)
  | .heartbeat steps suspects claims => steps.all (fun x => consistIdOk x.1) && suspects.all seatOk && claims.all (fun x => consistIdOk x.1)
  | .ack seats _ | .roster seats => seats.all SeatInfo.ok
  | .fence s _ => seatOk s
  | .bank _ c _ | .bankLost c _ => consistIdOk c
  | _ => true

/-- A packet comes by a convoy port, and its fields have the widths of R378. -/
def CaravanPacket.ok (p : CaravanPacket) : Bool :=
  ethOk p.port && seatOk p.src && seatOk p.dst && p.tag.length = 16 && p.op.ok

/-- A trip diode reading: die, calibration word and raw eighths of a degree (R441, R442, R469). -/
def diodeOk (x : Nat × Nat × Int) : Bool := spotDieOk x.1 && x.2.1 < 16

/-- What a step's end reports names units that exist (R435). -/
def StepReport.sound (r : StepReport) : Bool :=
  r.failTiles.all tileOk && r.badRows.all (fun x => tileOk x.1 && x.2 < 1280) && r.injFailPairs.all (fun x => x < 32) && r.injFailLanes.all (fun x => x < 16) &&
  r.injOncePairs.all (fun x => x < 32) && r.injOnceLanes.all (fun x => x < 16) &&
  r.march.all (fun x => dieOk x.1 && x.2.ok) && r.untrained.all (fun x => dieOk x.1 && x.2 < 33) && r.logBad.all dieOk &&
  r.lanes.all (fun h => h.page < 14 && h.bundle < 4) && r.slots.length ≤ 2

/-- The unit exists (R20, R278). -/
def FaultUnit.ok : FaultUnit → Bool
  | .pair p => p < 32
  | .tile t => tileOk t
  | .lane j => j < 16
  | .timetabling => true

/-- The source exists. -/
def DockSource.ok : DockSource → Bool
  | .tile t _ => tileOk t
  | .seat n _ _ d _ rows => seatOk n && d < 16 && rows.all (fun r => r.length = 512)

/-- The unit to test exists (R478). -/
def TestTarget.ok : TestTarget → Bool
  | .tile t => tileOk t
  | .lane j => j < 16

/-- A host burst is one BL16 or BL32 burst: at most 64 bytes of one aligned pair of burst columns (R341, R345). -/
def burstOk (offset len : Nat) : Bool := 0 < len && offset % 64 + len ≤ 64

/-- Every operand of a command names something that exists. -/
def wellFormed : Instr → Bool
  | .serviceReqDrive w _ _ | .serviceReqDepot w _ _ | .parked w _ => w.ok
  | .loop i _ _ _ | .br i _ _ | .waitEvent i _ | .waitTime i _ | .waitTags i _ | .signalDockOpen i _
  | .signalDockClose i _ | .sets i _ _ | .budget i _ _ | .fence i _ | .mark i _ | .endWaybill i _ => i.ok
  | .endloop i | .swapw i => i.ok
  | .brc i _ _ _ _ _ | .waitDock i _ _ _ _ | .signalEvent i _ _ _ _ | .adds i _ _ _ _ | .roster i _ _ _ _ _ => i.ok
  | .ldrow i _ _ _ _ _ _ _ | .strow i _ _ _ _ _ _ _ | .ldledger i _ _ _ _ _ _ | .dockwr i _ _ _ _ _ _ _ _
  | .platcpy i _ _ _ _ | .gather i _ _ _ _ _ _ _ | .ldw i _ _ _ _ _ | .commit i _ _ _ _ _ _ _ _ => i.ok
  | .mma i _ _ _ _ _ | .mmaz i _ _ _ _ _ | .conv i _ _ _ _ _ | .dconv i _ _ _ _ _ _ | .accrd i _ _ _ _ _ _ _ => i.ok
  | .vopMov i _ | .vopAdd i _ | .vopSub i _ | .vopMul i _ | .vopMax i _ | .vopMin i _ | .vopAbs i _ | .vopNeg i _
  | .vopRelu i _ | .vopRcp i _ | .vopRsqrt i _ | .vopAnd i _ | .vopOr i _ | .vopXor i _ | .vopShl i _ | .vopShr i _
  | .vopZero i _ | .vfma i _ | .vtabLoad i _ | .vtabEval i _ | .vexp2 i _ | .vxpose i _ | .vsel i _ | .vcmpEq i _
  | .vcmpNe i _ | .vcmpLt i _ | .vcmpLe i _ | .vcmpGt i _ | .vcmpGe i _ => i.ok
  | .vredSum i _ _ | .vredMax i _ _ | .vredMin i _ _ | .vpoolMax i _ _ | .vpoolAvg i _ _ => i.ok
  | .vcvt i _ _ _ | .vmerge i _ _ _ => i.ok
  | .budgetExhausted t | .rowScrub t _ | .dockWriteLanded t | .diagnosticInterval t
  | .agingMonitor t _ | .contextLoad t => tileOk t
  | .moveComplete t _ lines ecc eccF => tileOk t && lines.all LineFinding.ok && ecc.all rowOk && eccF.all rowOk
  | .tileSegPwr w t _ => w.ok && tileOk t
  | .segmentPowerDown t g | .segmentReady t g => tileOk t && g < 8
  | .berthStore w t n _ | .berthIbuf w t n _ | .berthOwner w t n _ | .berthHandle w t n _ => w.ok && tileOk t && n < 8
  | .berthZeroed t n => tileOk t && n < 8
  | .berthImageLoaded t n lines => tileOk t && n < 8 && lines.all LineFinding.ok
  | .dockOpen w t k _ | .dockClose w t k _ => w.ok && tileOk t && k < 16
  | .dockRange w t k _ _ => w.ok && tileOk t && k < 16
  | .remoteWrite t src ecc eccF => tileOk t && src.ok && ecc.all rowOk && eccF.all rowOk
  | .eventArrival t b n => tileOk t && b < 16 && n < 4096
  | .doorbell p n _ _ _ _ _ => portOk p && n < 256
  | .doorbellReread p n => portOk p && n < 256
  | .completionRingDoorbell p n _ _ _ _ _ => portOk p && n < 256
  | .latestStart e | .safetyRankEvaluation e => e < 4096
  | .abortComplete p => p < 32
  | .provingRunEnd p _ => p < 32
  | .poLoad w | .ppLoad w => w.ok
  | .ilkRequest n f => n < 64 && f.ok
  | .plan f | .check f | .checkComplete f | .checkStop _ f | .timetablingAttempt f | .planWatch f | .bufferStopComputed f => f.ok
  | .loadComplete f lines => f.ok && lines.all LineFinding.ok
  | .ilkOwner w _ => w.ok
  | .patrol d symbols _ _ => dieOk d && symbolsOk symbols
  | .chMigrated d lines => dieOk d && lines.all LineFinding.ok
  | .lineRewrite d | .spareFill d | .fabricFault d | .slackFault d => dieOk d
  | .dramRefresh d c b => dieOk d && c < 33 && b < 32
  | .thermalSample d _ _ => spotDieOk d
  | .compareMismatch u | .verdict u _ | .injectionTest u _ | .selftestSegment u _ => u.ok
  | .routerFault d r => dieOk d && r < 4
  | .hostRead p off n c b _ => portOk p && burstOk off n && c < 4 && b < 16
  | .hostWrite p off data c b _ => portOk p && burstOk off data.length && c < 4 && b < 16
  | .activate p c b _ _ => portOk p && c < 4 && b < 16
  | .precharge p c b _ => portOk p && c < 4 && b < 16
  | .forwardedWrite p | .portReset p | .completionHoldoff p | .peerLost p _ | .peerIrq p => portOk p
  | .modeRegisterWrite p ch mr _ _ => portOk p && ch < 4 && mr < 256
  | .training p ch _ _ => portOk p && ch < 4
  | .peerTraining p _ => portOk p
  | .hostRefresh p ch bank _ => portOk p && ch < 4 && bank.all (fun b => b < 16)
  | .selfRefreshEntry p ch _ | .selfRefreshExit p ch _ | .powerDownEntry p ch _ | .powerDownExit p ch _
  | .deepSleepEntry p ch _ | .deepSleepExit p ch _ => portOk p && ch < 4
  | .proxyRequest p e _ _ _ => portOk p && e < 16
  | .proxyResponse p e => portOk p && e < 16
  | .platIrqStat p _ => portOk p
  | .linkDown p | .linkUp p _ => ethOk p
  | .ethernetFrame p _ => ethOk p
  | .join w | .leave w => w.ok
  | .seatDead n | .acknowledgementOnly n => seatOk n
  | .heartbeat p | .acknowledgement p | .convoyFence p | .rosterUpdate p | .leaveMessage p | .caravanPacket p | .bank p | .bankLost p => p.ok
  | .joinRequest j => ethOk j.port && j.addrs.length ≤ 4
  | .ptpSync x => ethOk x.port
  | .retransmit n _ => seatOk n
  | .bankLate c n => c < 16 && seatOk n
  | .arm w n _ | .freeSlot w n _ => w.ok && n < 16
  | .thermalTrip ds | .porstNRelease _ _ _ ds => ds.all diodeOk
  | .flowSample edges latest fast _ _ => fast ≤ latest && latest ≤ edges
  | .viaductFrame p b f => p < 14 && b < 4 && f.src ≤ 72 && f.flit.length = 64
  | .viaStorm p b => p < 14 && b < 4
  | .retry p b _ => p < 14 && b < 4
  | .errNext w p => w.ok && pageOk p
  | .errSticky w p _ | .errFirst w p _ | .errInject w p _ | .cntGo w p _ => w.ok && pageOk p
  | .cntLoRead w p n => w.ok && pageOk p && n < 16
  | .cntLoWrite w p n _ => w.ok && pageOk p && n < 16
  | .counterWrap p n _ => pageOk p && n < 16
  | .monCnt p | .monErrclr p => pageOk p
  | .monErr p => match p with
    | none => true
    | some q => pageOk q
  | .monTest t => t.ok
  | .registerWrite w _ _ => w.ok
  | .sessionCloseZeroed t => t < 4096
  | .dramUe a symbols _ _ => a < 0x2000000000 && symbolsOk symbols
  | .handoverStepEnd r | .startUpStepEnd r => r.sound
  | .parkOkSample _ _ | .handoverCheckpoint | .stepLate | .handoverFailed | .placement
  | .waybillStart _ | .completionRecord _ | .dropSpan | .pageRelease _ | .tick | .slotStart | .provingRun
  | .frameSyncEdge _ | .frameSyncStuck | .missingTick | .internalTick | .depotTick | .openSeq _ | .appendTokens _
  | .setEvictable _ | .closeSeq _ | .sessionOpen _ _ | .sessionClose _ | .register _ _ | .rotate _
  | .manifest _ | .rekeyPage _ | .ilkLoad | .driveReserveCopy | .recoveryPhaseEnd | .phaseLate
  | .islandStateWord _ _ | .heartbeatCheck _ _ | .clockCheck _ _ _ | .voltageSample _ _ | .frameLost
  | .heartbeatTimer | .leaseExpiry | .standbyClaim | .leaderSelfFence | .setOwnerSlot
  | .revokeSlot | .advanceRollback | .toField | .toReturned | .toScrapped | .drbgReseed | .trngFail _
  | .porstNAssert | .startLate | .warmReset | .warmResetRelease
  | .brownout _ | .avsUpdate _ _ | .powerSample _ | .coolingLost _ | .hubTimeLo _ | .monId
  | .monRd _ _ | .monWr _ _ | .monBaud _ | .monToken _ | .monEnd | .monStat | .monLoad _ | .monLoadTimeout _ _ | .monBoot _ _
  | .monUnlock _ | .islandFault _ | .tokenExpiry | .testReport _ | .internalResetRelease => true

end Sys2Proof
end

