-- ==== Sys2Proof/Certificates/Slice0/Obligations.lean ====
section
/-! DEFINITION. The statements for the provers, each from numbered rules of the spec. -/

/-! ### The VEC slot -/

namespace Sys2Proof.Claims

open Sys2Proof Sys2Proof.Machine

/-- Row `j` of a vector instruction's destination in `t`: a register, or the store row that the operand names in `s` (R141, R142). -/
def vecOut (s t : State) (u : Nat) (v : VecOp) (j : Nat) : List Byte :=
  if vecReg v.d then (t.tile u).vreg v.d.toNat else t.rowBytes u (s.absRow u ((s.tile u).vecFirst v.d + j))

/-- Lane `k` of row `j` of an operand, 0 where the instruction has none. -/
def vecLane (v : VecOp) (used : Bool) (row : Nat → List Byte) (j k : Nat) : Nat :=
  if used then ((vty v.ty).lanesOf (row j)).getD k 0 else 0

/-- A vector instruction that works lane by lane: its command, the operands it has, and a lane of its result. -/
structure LaneCommand where
  cmd : Issue → Instr
  shape : VecShape
  lane : Tile → Nat → Nat → Nat → Conv

/-- The row-by-row vector instructions (R143, R144). -/
def laneCommands (v : VecOp) : List LaneCommand :=
  let y := vty v.ty
  let fp := fun (b : Bool) => { vopShape v true b with bad := y = .int16 }
  let int := fun (b : Bool) => { vopShape v true b with bad := y ≠ .int16 }
  [⟨(.vopMov · v), vopShape v true false, fun _ a _ _ => movLane y a⟩,
   ⟨(.vopAdd · v), vopShape v true true, fun _ a b _ => addLane y v.satf a b⟩,
   ⟨(.vopSub · v), vopShape v true true, fun _ a b _ => subLane y v.satf a b⟩,
   ⟨(.vopMul · v), vopShape v true true, fun _ a b _ => mulLane y v.satf a b⟩,
   ⟨(.vopMax · v), vopShape v true true, fun _ a b _ => maxLane y a b⟩,
   ⟨(.vopMin · v), vopShape v true true, fun _ a b _ => minLane y a b⟩,
   ⟨(.vopAbs · v), vopShape v true false, fun _ a _ _ => absLane y v.satf a⟩,
   ⟨(.vopNeg · v), vopShape v true false, fun _ a _ _ => negLane y v.satf a⟩,
   ⟨(.vopRelu · v), vopShape v true false, fun _ a _ _ => reluLane y a⟩,
   ⟨(.vopRcp · v), fp false, fun _ a _ _ => rcpLane y a⟩,
   ⟨(.vopRsqrt · v), fp false, fun _ a _ _ => rsqrtLane y a⟩,
   ⟨(.vopAnd · v), int true, fun _ a b _ => plainConv (a &&& b)⟩,
   ⟨(.vopOr · v), int true, fun _ a b _ => plainConv (a ||| b)⟩,
   ⟨(.vopXor · v), int true, fun _ a b _ => plainConv (a ^^^ b)⟩,
   ⟨(.vopShl · v), int true, fun _ a b _ => plainConv (a * 2 ^ (b % 16) % 65536)⟩,
   ⟨(.vopShr · v), int true, fun _ a b _ => plainConv (twos 16 (Int.fdiv (sext 16 a) ((2 : Int) ^ (b % 16))))⟩,
   ⟨(.vopZero · v), vopShape v false false, fun _ _ _ _ => plainConv 0⟩,
   ⟨(.vfma · v), { vecShape v true true true with satOk := y = .int16 }, fun _ a b c => fmaLane y v.satf a b c⟩,
   ⟨(.vsel · v), vecShape v true true true, fun _ a b c => movLane y (if c = 0 then b else a)⟩,
   ⟨(.vcmpEq · v), vecShape v true true false, fun _ a b _ => cmpLane y Num.eqv a b⟩,
   ⟨(.vcmpNe · v), vecShape v true true false, fun _ a b _ => cmpLane y (fun x z => !(x.eqv z)) a b⟩,
   ⟨(.vcmpLt · v), vecShape v true true false, fun _ a b _ => cmpLane y Num.lt a b⟩,
   ⟨(.vcmpLe · v), vecShape v true true false, fun _ a b _ => cmpLane y (fun x z => x.lt z || x.eqv z) a b⟩,
   ⟨(.vcmpGt · v), vecShape v true true false, fun _ a b _ => cmpLane y (fun x z => z.lt x) a b⟩,
   ⟨(.vcmpGe · v), vecShape v true true false, fun _ a b _ => cmpLane y (fun x z => z.lt x || x.eqv z) a b⟩,
   ⟨(.vexp2 · v), { vecShape v true false false with bad := y = .int16 }, fun _ a _ _ => fpLane y (n32 (exp2Pat (pat32 (y.val a)))) [a]⟩,
   ⟨(.vtabEval · v), { vecShape v true false false with immOk := true, bad := decide (1 < v.imm.toNat) },
    fun T a _ _ => fpLane y (n32 (T.tabEval v.imm.toNat (pat32 (y.val a)))) [a]⟩]

/-- The conversions of row `j` of a row-by-row instruction, lane by lane. -/
def laneResults (s : State) (u : Nat) (v : VecOp) (e : LaneCommand) (j : Nat) : List Conv :=
  (List.range (vty v.ty).lanes).map (fun k => e.lane (s.tile u) (vecLane v e.shape.a (s.vecRow u v.a) j k)
    (vecLane v e.shape.b (s.vecRowB u (vty v.ty) v) j k) (vecLane v e.shape.c (s.vecRow u v.c) j k))

end Sys2Proof.Claims

open Sys2Proof Sys2Proof.Machine Sys2Proof.Claims

/-- R142, R143: a row-by-row vector instruction that runs writes, to every lane of each of its N destination rows, the lane result of the same
lane of the operands' rows, as they were when it issued. -/
def Sys2Proof.Claims.VecLanesFollowOperation : Prop :=
  ∀ (i : Issue) (v : VecOp) (s : State), MemInv s → ∀ e ∈ laneCommands v,
    slotRuns s (e.cmd i) = true → slotAlone s i = true →
    Answers (e.cmd i) s (fun t => ∀ j, j ≤ v.n1.toNat →
      vecOut s t i.tile v j = (vty v.ty).rowOf ((laneResults s i.tile v e j).map (·.bits)))

/-- R143: VRED folds the rows of A lane by lane, or each row across its lanes, into the register D; VXPOSE transposes 16 × 16 blocks; VCVT converts
the elements in order. -/
def Sys2Proof.Claims.VecReductionsAndShuffles : Prop :=
  ∀ (i : Issue) (v : VecOp) (s : State), MemInv s → slotAlone s i = true →
    let u := i.tile
    let y := vty v.ty
    let row := fun j => y.lanesOf (s.vecRow u v.a j)
    (∀ lanes, ∀ e ∈ [((.vredSum i v lanes : Instr), sumLanes y), (.vredMax i v lanes, reduceLanes (maxLane y) y), (.vredMin i v lanes, reduceLanes (minLane y) y)],
      slotRuns s e.1 = true →
      Answers e.1 s (fun t => (t.tile u).vreg v.d.toNat = y.rowOf ((List.range y.lanes).map (fun k =>
        if lanes then (if k ≤ v.n1.toNat then (e.2 (row k)).bits else 0)
        else (e.2 ((List.range (v.n1.toNat + 1)).map (fun j => (row j).getD k 0))).bits)))) ∧
    (slotRuns s (.vxpose i v) = true →
      Answers (.vxpose i v) s (fun t => ∀ j, j ≤ v.n1.toNat → vecOut s t u v j =
        y.rowOf ((List.range y.lanes).map (fun k => (row (j / 16 * 16 + k % 16)).getD (k / 16 * 16 + j % 16) 0)))) ∧
    (∀ src dst, slotRuns s (.vcvt i v src dst) = true →
      let a := 4096 / cvtBits src.toNat
      let b := 4096 / cvtBits dst.toNat
      Answers (.vcvt i v src dst) s (fun t => ∀ j, j ≤ v.n1.toNat → vecOut s t u v j =
        packElems (cvtBits dst.toNat) ((List.range b).map (fun k =>
          (cvtElem src.toNat dst.toNat v.satf ((unpackElems (cvtBits src.toNat) a (s.vecRow u v.a ((j * b + k) / a))).getD ((j * b + k) % a) 0)).bits))))

/-- R143–R145, R188–R191: VTAB LOAD fills its table slot from two rows; VMERGE folds the partials into D and D + 1; VPOOL writes each output row of
the window that lies inside the plane, and an empty descriptor only sets CONV_EMPTY. -/
def Sys2Proof.Claims.VecTablesMergesAndPools : Prop :=
  ∀ (i : Issue) (v : VecOp) (s : State), MemInv s → slotAlone s i = true →
    let u := i.tile
    let y := vty v.ty
    let T := s.tile u
    (slotRuns s (.vtabLoad i v) = true →
      Answers (.vtabLoad i v) s (fun t => ∀ n, n < 256 →
        (t.tile u).tab v.imm.toNat n = (unpackElems 32 256 (s.vecRow u v.a 0 ++ s.vecRow u v.a 1)).getD n 0)) ∧
    (∀ init final, slotRuns s (.vmerge i v init final) = true →
      let part := fun j => VTy.lanesOf .fp32 (s.vecRow u v.a j)
      let held := VTy.lanesOf .fp32 (T.vreg (v.d.toNat + 1))
      let r := (List.range (v.n1.toNat + 1)).foldl (fun acc j => mergeStep acc (part (2 * j)) ((part (2 * j + 1)).getD 0 0) ((part (2 * j + 1)).getD 1 0))
        (if init then (negInf32, 0, List.replicate 128 0) else (held.getD 0 0, held.getD 1 0, VTy.lanesOf .fp32 (T.vreg v.d.toNat)))
      Answers (.vmerge i v init final) s (fun t =>
        (t.tile u).vreg (v.d.toNat + 1) = VTy.rowOf .fp32 (r.1 :: r.2.1 :: List.replicate 126 0) ∧
        (t.tile u).vreg v.d.toNat = VTy.rowOf .fp32 (if final then
          (if (n32 r.2.1).isZero then List.replicate 128 0 else r.2.2.map (fun x => div32 x r.2.1)) else r.2.2))) ∧
    (∀ cp, ∀ e ∈ [((.vpoolMax i v cp : Instr), false), (.vpoolAvg i v cp, true)], slotRuns s e.1 = true →
      let w := T.window v.b.toNat
      let a0 := s.absRow u (T.vecFirst v.a)
      let d0 := s.absRow u (T.vecFirst v.d)
      (w.empty = true → Answers e.1 s (fun t => t.mem = s.mem ∧ (t.tile u).st = stPut T.st stConvEmpty true)) ∧
      (w.empty = false → Answers e.1 s (fun t => ∀ p, p < w.p →
        t.rowBytes u (d0 + p) = match poolRow v e.2 cp w p (fun r => y.lanesOf (s.rowBytes u (a0 + r))) with
          | some r => r.bytes
          | none => s.rowBytes u (d0 + p))))

/-- A vector result changes its destination, ST, poison marks, the bundle address and the handed-over bundle of its own tile and the counted events of the cycle, and nothing else. -/
def Sys2Proof.Claims.VecLanesChangeOnlyDestination : Prop :=
  ∀ (i : Issue) (v : VecOp) (s t : State), ∀ e ∈ laneCommands v, slotRuns s (e.cmd i) = true → slotAlone s i = true →
    exec (e.cmd i) s = .next t →
    let u := i.tile
    ({ t with tiles := s.tiles, mem := s.mem, evs := s.evs } : State) = s ∧
    (∀ w, w ≠ u → t.tile w = s.tile w) ∧
    ({ (t.tile u) with
        vregs := (s.tile u).vregs
        vwritten := (s.tile u).vwritten
        st := (s.tile u).st
        poison := (s.tile u).poison
        bundle := (s.tile u).bundle
        stBefore := (s.tile u).stBefore
        pc := (s.tile u).pc } : Tile) = s.tile u ∧
    (∀ r, r < 8 → (vecReg v.d = true → r ≠ v.d.toNat) → (t.tile u).vreg r = (s.tile u).vreg r) ∧
    (∀ a, (vecReg v.d = true ∨ a < rowAddr u (s.absRow u ((s.tile u).vecFirst v.d)) ∨
        rowAddr u (s.absRow u ((s.tile u).vecFirst v.d)) + 512 * (v.n1.toNat + 1) ≤ a) → memByte t.mem a = memByte s.mem a)

/-- R115, R165–R167: SAT and NAN of ST are sticky, and set exactly by a lane that saturates or meets or makes a NaN, or by the broadcast operand. -/
def Sys2Proof.Claims.VecLanesSetStickyStatus : Prop :=
  ∀ (i : Issue) (v : VecOp) (s : State), ∀ e ∈ laneCommands v, slotRuns s (e.cmd i) = true → slotAlone s i = true →
    let u := i.tile
    let bc := if e.shape.b && v.bs then (s.tile u).vecBroadcast (vty v.ty) v else plainConv 0
    let rows := (List.range (v.n1.toNat + 1)).map (laneResults s u v e)
    Answers (e.cmd i) s (fun t => (t.tile u).st = stArith (s.tile u).st (rows.any (·.any (·.sat)) || bc.sat) (rows.any (·.any (·.nan)) || bc.nan))

/-- R167: INT16 results clamp to the range with SATF and wrap to 16 bits without; only a clamp sets the saturation flag; shifts use bits [3:0]. -/
def Sys2Proof.Claims.IntegerLanesClampOrWrap : Prop :=
  ∀ (a b c : Nat), a < 65536 → b < 65536 → c < 65536 →
    let res := fun (satf : Bool) (i : Int) => if satf then clampI (-32768) 32767 i else i
    (∀ satf,
      (addLane .int16 satf a b).bits = twos 16 (res satf (sext 16 a + sext 16 b)) ∧
      (subLane .int16 satf a b).bits = twos 16 (res satf (sext 16 a - sext 16 b)) ∧
      (mulLane .int16 satf a b).bits = twos 16 (res satf (sext 16 a * sext 16 b)) ∧
      (negLane .int16 satf a).bits = twos 16 (res satf (-sext 16 a)) ∧
      (absLane .int16 satf a).bits = twos 16 (res satf ((sext 16 a).natAbs)) ∧
      (fmaLane .int16 satf a b c).bits = twos 16 (res satf (sext 16 a * sext 16 b + sext 16 c)) ∧
      (addLane .int16 satf a b).sat = (satf && decide (sext 16 a + sext 16 b < -32768 ∨ 32767 < sext 16 a + sext 16 b))) ∧
    sext 16 (twos 16 (Int.fdiv (sext 16 a) ((2 : Int) ^ (b % 16)))) = Int.fdiv (sext 16 a) ((2 : Int) ^ (b % 16))

/-- R142, R143: a row-by-row vector instruction that runs writes, to every lane of each of its N destination rows, the lane result of the same lane of the operands' rows, as they were when it issued. R167: INT16 results clamp to the range with SATF and wrap to 16 bits without; only a clamp sets the saturation flag; shifts use bits [3:0]. -/
def Obligations.VectorLanesComputeTheirOperation : Prop :=
  Sys2Proof.Claims.VecLanesFollowOperation ∧ Sys2Proof.Claims.IntegerLanesClampOrWrap

/-- A vector result changes its destination, ST, poison marks, the bundle address and the handed-over bundle of its own tile and the counted events of the cycle, and nothing else. R115, R165–R167: SAT and NAN of ST are sticky, and set exactly by a lane that saturates or meets or makes a NaN, or by the broadcast operand. -/
def Obligations.VectorLanesChangeOnlyTheirResult : Prop :=
  Sys2Proof.Claims.VecLanesChangeOnlyDestination ∧ Sys2Proof.Claims.VecLanesSetStickyStatus

/-- R143: VRED folds the rows of A lane by lane, or each row across its lanes, into the register D; VXPOSE transposes 16 × 16 blocks; VCVT converts the elements in order. R143–R145, R188–R191: VTAB LOAD fills its table slot from two rows; VMERGE folds the partials into D and D + 1; VPOOL writes each output row of the window that lies inside the plane, and an empty descriptor only sets CONV_EMPTY. -/
def Obligations.VectorRowsFoldShuffleAndPool : Prop :=
  Sys2Proof.Claims.VecReductionsAndShuffles ∧ Sys2Proof.Claims.VecTablesMergesAndPools

/-! ### The MAT slot -/

/-- R62, R136: MMA adds to each accumulator row the products of one activation vector with the weights in use; MMAZ does so as though the row had
held zero; every row's written flag is set. -/
def Sys2Proof.Claims.MatrixProductsAccumulate : Prop :=
  ∀ (i : Issue) (act : RowOp) (acc : AccOp) (m1 : BitVec 8) (fmt : BitVec 4) (scl : RowOp) (s : State),
    slotAlone s i = true →
    let u := i.tile
    let T := s.tile u
    let c := fmt.toNat
    let nscl := if fmtScales c = 0 then 0 else ((m1.toNat + 1) * fmtScales c + 511) / 512
    let stream := (List.range nscl).flatMap (fun j => s.rowBytes u (s.absRow u (T.row scl) + j))
    let x := fun m => unpackElems (arrW (fmtMode c)) (arrK (fmtMode c)) (((s.rowBytes u (s.absRow u (T.row act) + m / 4)).drop (128 * (m % 4))).take 128)
    let sa := fun m => ((stream.drop (m * fmtScales c)).take (fmtScales c)).map (·.toNat)
    ∀ e ∈ [((.mma i act acc m1 fmt scl : Instr), false), (.mmaz i act acc m1 fmt scl, true)], slotRuns s e.1 = true →
      Answers e.1 s (fun t => ∀ m n, m ≤ m1.toNat → n < arrN (fmtMode c) →
        (t.tile u).accWord (T.accRow acc + m) n = columnWord c 1 T.active (x m) (sa m) (if e.2 then 0 else T.accWord (T.accRow acc + m) n) n)

/-- R137, R179–R183: CONV and DCONV accumulate one vector of the window per output position; a position beyond the extent changes nothing; an empty
descriptor only sets CONV_EMPTY. -/
def Sys2Proof.Claims.ConvolutionsFollowWindow : Prop :=
  ∀ (i : Issue) (act : RowOp) (acc : AccOp) (sd : BitVec 5) (fmt : BitVec 4) (scl : RowOp) (g : BitVec 3) (s : State), slotAlone s i = true →
    let u := i.tile
    let T := s.tile u
    let c := fmt.toNat
    let w := T.window sd.toNat
    let mode := fmtMode c
    let a0 := s.absRow u (T.row act)
    let sa := ((s.rowBytes u (s.absRow u (T.row scl))).take (fmtScales c)).map (·.toNat)
    ∀ e ∈ [((.conv i act acc sd fmt scl : Instr), (0 : BitVec 3)), (.dconv i act acc sd fmt scl g, g)],
      slotRuns s e.1 = true →
      let b := convBlocks e.2
      (w.empty = true → Answers e.1 s (fun t => (t.tile u).acc = T.acc ∧ (t.tile u).accWritten = T.accWritten ∧
        (t.tile u).st = stPut T.st stConvEmpty true)) ∧
      (w.empty = false → Answers e.1 s (fun t => ∀ p n, p < w.p → n < arrN mode →
        (t.tile u).accWord (T.accRow acc + p) n = match (convFetches w mode b)[p]? with
          | some .pad => columnWord c b T.active (w.padVector mode) sa (if w.zf then 0 else T.accWord (T.accRow acc + p) n) n
          | some (.real row byte) =>
            let line := s.rowBytes u (a0 + row)
            columnWord c b T.active (if w.dwise then w.dwVector mode b p line else w.realVector mode byte line) sa
              (if w.zf then 0 else T.accWord (T.accRow acc + p) n) n
          | _ => T.accWord (T.accRow acc + p) n))

/-- R63, R138: SWAPW exchanges the weight buffers; ACCRD converts the accumulator rows in order and packs them into its destination rows, zero-filled
to whole rows, draws once an element with SR, and scales and biases by the rows of EPI. -/
def Obligations.WeightSwapAndAccumulatorRead : Prop :=
  ∀ (i : Issue) (s : State), slotAlone s i = true →
    let u := i.tile
    let T := s.tile u
    (slotRuns s (.swapw i) = true →
      Answers (.swapw i) s (fun t => (t.tile u).active = T.inactive ∧ (t.tile u).inactive = T.active)) ∧
    (∀ acc m1 dst ofmt epi sr relu, MemInv s → slotRuns s (.accrd i acc m1 dst ofmt epi sr relu) = true →
      let c := ofmt.toNat
      let n := ((m1.toNat + 1) * ofmtBytes c + 511) / 512
      let e0 := s.absRow u (T.row epi)
      let sb := if epi = noEpi then none else
        some (unpackElems 32 256 (s.rowBytes u e0 ++ s.rowBytes u (e0 + 1)), unpackElems 32 256 (s.rowBytes u (e0 + 2) ++ s.rowBytes u (e0 + 3)))
      let out := (List.range (m1.toNat + 1)).foldl (fun (a : List Conv × Word) m =>
        let o := { T with rng := a.2 }.accOut c (T.accRow acc + m) sb relu sr
        (a.1 ++ o.1, o.2)) ([], T.rng)
      let bs := packElems (match ofmtOf c with
        | some o => o.bits
        | none => 32) (out.1.map (·.bits))
      Answers (.accrd i acc m1 dst ofmt epi sr relu) s (fun t =>
        t.bytes (rowAddr u (s.absRow u (T.row dst))) (512 * n) = bs ++ List.replicate (512 * n - bs.length) 0 ∧
        (t.tile u).rng = out.2 ∧ (t.tile u).st = stArith T.st (out.1.any (·.sat)) (out.1.any (·.nan)))) ∧
    (∀ acc m1 dst ofmt relu, MemInv s → slotRuns s (.accrd i acc m1 dst ofmt noEpi false relu) = true →
      let c := ofmt.toNat
      let n := ((m1.toNat + 1) * ofmtBytes c + 511) / 512
      let es := (List.range (m1.toNat + 1)).flatMap (fun m => (ofmtCols c).map (fun k =>
        (accElem c (T.accFloat.contains (T.accRow acc + m)) (T.accWord (T.accRow acc + m) k).toNat none relu .even).bits))
      let bs := packElems (match ofmtOf c with
        | some o => o.bits
        | none => 32) es
      Answers (.accrd i acc m1 dst ofmt noEpi false relu) s (fun t =>
        t.bytes (rowAddr u (s.absRow u (T.row dst))) (512 * n) = bs ++ List.replicate (512 * n - bs.length) 0))

/-- R62, R136: MMA adds to each accumulator row the products of one activation vector with the weights in use; MMAZ does so as though the row had held zero; every row's written flag is set. R137, R179–R183: CONV and DCONV accumulate one vector of the window per output position; a position beyond the extent changes nothing; an empty descriptor only sets CONV_EMPTY. -/
def Obligations.ProductsAndConvolutionsAccumulate : Prop :=
  Sys2Proof.Claims.MatrixProductsAccumulate ∧ Sys2Proof.Claims.ConvolutionsFollowWindow

/-! ### The CTL slot -/

namespace Sys2Proof.Claims

open Sys2Proof Sys2Proof.Machine

/-- A CTL slot of a single tile that goes on at bundle `pc`, inside the instruction share. -/
def ctlTo (s : State) (i : Issue) (pc : Int) : Bool :=
  !(s.tile i.tile).coupled && i.ecc = [] && decide (0 ≤ pc) && decide (pc.toNat < s.ibufSize i.tile (s.berth i.tile))

/-- The bundle after the running one. -/
def pcNext (s : State) (i : Issue) : Int := ((s.tile i.tile).pc : Int) + 1

end Sys2Proof.Claims

open Sys2Proof.Claims

/-- R118: LOOP opens a level or skips it, ENDLOOP repeats or closes it, BR and a taken BRC pop levels and go to the offset, a BRC not taken goes on. -/
def Sys2Proof.Claims.LoopsAndBranchesMove : Prop :=
  ∀ (i : Issue) (s : State),
    let u := i.tile
    let T := s.tile u
    (∀ creg cimm skip, slotRuns s (.loop i creg cimm skip) = true →
      (loopCount T creg cimm ≠ 0 → ctlTo s i (pcNext s i) = true → Answers (.loop i creg cimm skip) s (fun t =>
        (t.tile u).loops = { count := loopCount T creg cimm, index := 0, body := T.pc + 1, roster := none } :: T.loops ∧
        ((t.tile u).pc : Int) = pcNext s i)) ∧
      (loopCount T creg cimm = 0 → ctlTo s i (T.target skip) = true → Answers (.loop i creg cimm skip) s (fun t =>
        (t.tile u).loops = T.loops ∧ ((t.tile u).pc : Int) = T.target skip))) ∧
    (∀ l ls, slotRuns s (.endloop i) = true → T.loops = l :: ls → l.roster = none →
      (l.index + 1 < l.count → ctlTo s i l.body = true → Answers (.endloop i) s (fun t =>
        (t.tile u).loops = { l with index := l.index + 1 } :: ls ∧ (t.tile u).pc = l.body)) ∧
      (l.count ≤ l.index + 1 → ctlTo s i (pcNext s i) = true → Answers (.endloop i) s (fun t =>
        (t.tile u).loops = ls ∧ ((t.tile u).pc : Int) = pcNext s i))) ∧
    (∀ (pop : BitVec 2) off, slotRuns s (.br i pop off) = true → ctlTo s i (T.target off) = true →
      Answers (.br i pop off) s (fun t => (t.tile u).loops = T.loops.drop pop.toNat ∧ ((t.tile u).pc : Int) = T.target off)) ∧
    (∀ reg cond bit pop off, slotRuns s (.brc i reg cond bit pop off) = true →
      (brcTest T.snap reg cond bit = true → ctlTo s i (T.target off) = true → Answers (.brc i reg cond bit pop off) s (fun t =>
        (t.tile u).loops = T.loops.drop pop.toNat ∧ ((t.tile u).pc : Int) = T.target off)) ∧
      (brcTest T.snap reg cond bit = false → ctlTo s i (pcNext s i) = true → Answers (.brc i reg cond bit pop off) s (fun t =>
        (t.tile u).loops = T.loops ∧ ((t.tile u).pc : Int) = pcNext s i)))

/-- R119: ROSTER opens a level over the table's first sequence that has a token and gives its registers the sequence, token and length of the piece;
with no token in the table it goes to SKIP. -/
def Sys2Proof.Claims.RosterWalksSequences : Prop :=
  ∀ (i : Issue) (sb : BitVec 5) (table : RowOp) (n1 : BitVec 8) (chunk : BitVec 13) (skip : BitVec 16) (s : State),
    let u := i.tile
    let T := s.tile u
    let row := s.rowBytes u (s.absRow u (T.row table))
    let len := fun j => leNat ((row.drop (2 * j)).take 2)
    slotRuns s (.roster i sb table n1 chunk skip) = true →
      (∀ j, j ≤ n1.toNat → len j ≠ 0 → (∀ k, k < j → len k = 0) → ctlTo s i (pcNext s i) = true →
        Answers (.roster i sb table n1 chunk skip) s (fun t =>
          (t.tile u).loops.length = T.loops.length + 1 ∧ ((t.tile u).pc : Int) = pcNext s i ∧
          (t.tile u).s sb.toNat = j ∧ (t.tile u).s (sb.toNat + 1) = 0 ∧ (t.tile u).s (sb.toNat + 2) = min chunk.toNat (len j))) ∧
      ((∀ j, j ≤ n1.toNat → len j = 0) → ctlTo s i (T.target skip) = true →
        Answers (.roster i sb table n1 chunk skip) s (fun t => (t.tile u).loops = T.loops ∧ ((t.tile u).pc : Int) = T.target skip))

/-- R118, R120: a WAIT or FENCE whose condition holds goes on with the next bundle; WAIT EVENT clears the bits that it named. -/
def Sys2Proof.Claims.WaitsEndWhenConditionHolds : Prop :=
  ∀ (i : Issue) (s : State), ctlTo s i (pcNext s i) = true →
    let u := i.tile
    let T := s.tile u
    let goes := fun (t : State) => ((t.tile u).pc : Int) = pcNext s i ∧ (t.tile u).moves = T.moves ∧ (t.tile u).sregs = T.sregs ∧
      t.mem = s.mem ∧ t.regs = s.regs
    (∀ imm, bitsOf imm 15 0 ≠ 0 → T.events &&& BitVec.ofNat 16 (bitsOf imm 15 0) = BitVec.ofNat 16 (bitsOf imm 15 0) →
      slotRuns s (.waitEvent i imm) = true → Answers (.waitEvent i imm) s (fun t => goes t ∧ (t.tile u).events = T.events &&& ~~~(BitVec.ofNat 16 (bitsOf imm 15 0)))) ∧
    (∀ (dock : BitVec 4) rf (sreg : BitVec 5) imm, s.fld (State.dockReg u dock.toNat 0) 10 8 = s.berth u →
      (if rf then T.s sreg.toNat else imm.toNat) ≤ (s.reg (State.dockReg u dock.toNat 8)).toNat →
      slotRuns s (.waitDock i dock rf sreg imm) = true → Answers (.waitDock i dock rf sreg imm) s (fun t => goes t ∧ (t.tile u).events = T.events)) ∧
    (∀ sreg : BitVec 5, sreg.toNat % 2 = 0 → T.pair sreg.toNat ≤ s.now →
      slotRuns s (.waitTime i sreg) = true → Answers (.waitTime i sreg) s (fun t => goes t ∧ (t.tile u).events = T.events)) ∧
    (∀ imm : Word, (∀ m ∈ T.moves, bitAt imm.toNat m.tag = false) → slotRuns s (.waitTags i imm) = true → Answers (.waitTags i imm) s (fun t => goes t ∧ (t.tile u).events = T.events)) ∧
    (∀ mask : BitVec 3, mask ≠ 0 → (mask.toNat % 2 = 1 → T.moves = []) → slotRuns s (.fence i mask) = true → Answers (.fence i mask) s (fun t => goes t ∧ (t.tile u).events = T.events))

/-- R111, R116, R118, R121, R122, R470: what SIGNAL, SETS, ADDS, BUDGET and MARK write, each going on with the next bundle. -/
def Sys2Proof.Claims.ControlWritesTakeEffect : Prop :=
  ∀ (i : Issue) (s : State), ctlTo s i (pcNext s i) = true →
    let u := i.tile
    let T := s.tile u
    (∀ rf (sreg : BitVec 5) (tile : BitVec 6) (num : BitVec 4), slotRuns s (.signalEvent i rf sreg tile num) = true → Answers (.signalEvent i rf sreg tile num) s (fun t =>
      t.signals = s.signals ++ [(if rf then T.s sreg.toNat % 64 else tile.toNat, num.toNat, s.berthTenant u (s.berth u))] ∧
      ((t.tile u).pc : Int) = pcNext s i)) ∧
    (∀ num : BitVec 4, s.dockOwn u num = true →
      (s.dockOpenOk u num.toNat = true → slotRuns s (.signalDockOpen i num) = true → Answers (.signalDockOpen i num) s (fun t =>
        t.fld (State.dockReg u num.toNat 0) 1 0 = 1 ∧ t.reg (State.dockReg u num.toNat 8) = 0 ∧ (t.tile u).st = T.st)) ∧
      (s.dockOpenOk u num.toNat = false → slotRuns s (.signalDockOpen i num) = true → Answers (.signalDockOpen i num) s (fun t =>
        t.regs = s.regs ∧ (t.tile u).st = stPut T.st stDockOpfail true)) ∧
      (s.fld (State.dockReg u num.toNat 0) 1 0 = 1 → slotRuns s (.signalDockClose i num) = true → Answers (.signalDockClose i num) s (fun t =>
        t.fld (State.dockReg u num.toNat 0) 1 0 = if T.ingress.any (fun w => w.dock = num.toNat) then 2 else 0)) ∧
      (s.fld (State.dockReg u num.toNat 0) 1 0 ≠ 1 → slotRuns s (.signalDockClose i num) = true → Answers (.signalDockClose i num) s (fun t => t.regs = s.regs))) ∧
    (∀ (dst : BitVec 6) (imm : Addr),
      (dst.toNat < 32 → imm.toNat < 2 ^ 32 → slotRuns s (.sets i dst imm) = true → Answers (.sets i dst imm) s (fun t =>
        (t.tile u).s dst.toNat = imm.toNat ∧ ∀ n, n ≠ dst.toNat → (t.tile u).s n = T.s n)) ∧
      (32 ≤ dst.toNat → dst.toNat < 48 → slotRuns s (.sets i dst imm) = true → Answers (.sets i dst imm) s (fun t =>
        (t.tile u).a (dst.toNat - 32) = imm.toNat ∧ ∀ n, n ≠ dst.toNat - 32 → (t.tile u).a n = T.a n)) ∧
      (dst.toNat = 52 → imm.toNat < 256 → slotRuns s (.sets i dst imm) = true → Answers (.sets i dst imm) s (fun t => (t.tile u).st = stSets T.st imm.toNat))) ∧
    (∀ (dst srca srcb : BitVec 6) (imm : Word), codeReads srca.toNat = true → codeReads srcb.toNat = true →
      let sum := twos 40 ((T.snap.readCode srca.toNat + T.snap.readCode srcb.toNat : Nat) + imm.toInt)
      (dst.toNat < 32 → slotRuns s (.adds i dst srca srcb imm) = true → Answers (.adds i dst srca srcb imm) s (fun t => (t.tile u).s dst.toNat = sum % 2 ^ 32)) ∧
      (32 ≤ dst.toNat → dst.toNat < 48 → slotRuns s (.adds i dst srca srcb imm) = true → Answers (.adds i dst srca srcb imm) s (fun t => (t.tile u).a (dst.toNat - 32) = sum))) ∧
    (∀ (sd : BitVec 5) (thresh : Word), slotRuns s (.budget i sd thresh) = true → Answers (.budget i sd thresh) s (fun t =>
      (t.tile u).s sd.toNat = s.budgetLeft u ∧ (t.tile u).st = stPut T.st stBudgetLow (s.budgetLeft u < thresh.toNat))) ∧
    (∀ value : BitVec 16, slotRuns s (.mark i value) = true → Answers (.mark i value) s (fun t =>
      t.reg (pgTileCnt u + 0x108) = BitVec.ofNat 32 value.toNat ∧
      t.reg (pgTileCnt u + 0x10C) = BitVec.ofNat 32 ((s.ibufBase u (s.berth u) + T.pc) % 2048 + s.berth u * 4096) ∧
      t.reg (pgTileCnt u + 0x110) = BitVec.ofNat 32 s.now ∧ t.reg (pgTileCnt u + 0x114) = BitVec.ofNat 32 (s.now / 2 ^ 32)))

/-- R118, R228: END of a single tile's waybill stops its tile and leaves a completion with its CODE and tag, to be written to its ring. -/
def Obligations.EndCompletesWaybill : Prop :=
  ∀ (i : Issue) (code : BitVec 16) (s : State) (w : Nat) (p : Placement),
    let u := i.tile
    slotRuns s (.endWaybill i code) = true → (s.tile u).coupled = false → i.ecc = [] → (s.tile u).moves = [] → (s.tile u).wid = some w → s.placed w = some p →
    p.pairs = false → p.units = [u] → p.entry = none → p.started = true → p.ended = false → p.serving = false → p.pinned = [] → p.status = csOk →
    Answers (.endWaybill i code) s (fun t => (t.tile u).stopped = true ∧
      ∃ c, t.disp.completions = s.disp.completions ++ [c] ∧ c.code = code.toNat ∧ c.status = csOk ∧ c.tag = p.wb.tag ∧ c.ring = p.wb.ring ∧
        c.index = p.index ∧ c.wid = some p.wid)

/-- R118: LOOP opens a level or skips it, ENDLOOP repeats or closes it, BR and a taken BRC pop levels and go to the offset, a BRC not taken goes on. R119: ROSTER opens a level over the table's first sequence that has a token and gives its registers the sequence, token and length of the piece; with no token in the table it goes to SKIP. -/
def Obligations.LoopsBranchesAndRostersMove : Prop :=
  Sys2Proof.Claims.LoopsAndBranchesMove ∧ Sys2Proof.Claims.RosterWalksSequences

/-- R118, R120: a WAIT or FENCE whose condition holds goes on with the next bundle; WAIT EVENT clears the bits that it named. R111, R116, R118, R121, R122, R470: what SIGNAL, SETS, ADDS, BUDGET and MARK write, each going on with the next bundle. -/
def Obligations.WaitsAndControlWritesTakeEffect : Prop :=
  Sys2Proof.Claims.WaitsEndWhenConditionHolds ∧ Sys2Proof.Claims.ControlWritesTakeEffect

/-! ### The MOV slot -/

namespace Sys2Proof.Claims

open Sys2Proof Sys2Proof.Machine

/-- What the checks of R126 and the translation of R202 make of a move at its issue: queued to run, with the key generations of its pages as they stand in `t` once every
LOCK that it met has cleared, or with the status that it will end with. -/
def checkedMove (s t : State) (u : Nat) (m : Move) (accs : List MoveAcc) (ruleOk : Bool) (rows : List Nat) : Move :=
  let tenant := s.runTenant u
  let ps := (accs.flatMap State.accPages).eraseDups
  match (s.moveCheck u accs ruleOk rows).1 with
  | some e => { m with status := some e }
  | none => if ps.all (s.pageMapped tenant) then { m with pages := s.pagePairs tenant ps, gens := ps.map (fun p => (p, (t.entry p).keygen)) } else { m with status := some msUnmapped }

/-- A move joined tile `u`'s queue and changed no memory, no scalar register and no status yet. -/
def joined (s : State) (u : Nat) (m : Move) (t : State) : Prop :=
  (t.tile u).moves = (s.tile u).moves ++ [m] ∧ t.mem = s.mem ∧ (t.tile u).sregs = (s.tile u).sregs ∧ (t.tile u).st = (s.tile u).st

/-- Only move `m` is in flight on the single tile `u`, whose waybill has not ended; it can complete (R78, R131, R306, R318), and its pages have kept their
key generation (R296). -/
def onlyMove (s : State) (u : Nat) (m : Move) : Prop :=
  s.live = true ∧ s.moveReady u m 0 = true ∧ s.wrongGen m = [] ∧ s.follows u = false ∧ (s.tile u).coupled = false ∧ (s.tile u).moves = [m] ∧ (s.tile u).stopped = false ∧
  ∀ w p, (s.tile u).wid = some w → s.placed w = some p → u ∈ p.tiles

end Sys2Proof.Claims

open Sys2Proof.Claims

/-- R124, R126, R127, R129–R131: a row move, a gather, a dock write, a copy, a weight load or a local COMMIT joins the end of its tile's queue with
its operands captured and the outcome of its checks, and changes no memory and no register before it completes. -/
def Sys2Proof.Claims.MovesQueueWithTheirChecks : Prop :=
  ∀ (i : Issue) (tag an : BitVec 4) (n1 : BitVec 8) (sf : Bool) (ss : BitVec 5) (off : BitVec 20) (s : State), slotAlone s i = true →
    let u := i.tile
    let T := s.tile u
    let a := T.devAddr an off
    let st := moveStride T sf ss
    let n := n1.toNat + 1
    (∀ dst, let rg := wrRows (T.row dst) n :: s.ownRange u false (rowAccs a st n .any)
      slotRuns s (.ldrow i tag an dst n1 sf ss off) = true →
      Answers (.ldrow i tag an dst n1 sf ss off) s (fun t => joined s u (checkedMove s t u (State.newMove tag (.load a st (s.absRow u (T.row dst)) n) rg)
        (rowAccs a st n .any) (a % 64 = 0 && st % 64 = 0) (rowList (s.absRow u (T.row dst)) n)) t)) ∧
    (∀ src, let rg := rdRows (T.row src) n :: s.ownRange u true (rowAccs a st n .slot)
      slotRuns s (.strow i tag an src n1 sf ss off) = true →
      Answers (.strow i tag an src n1 sf ss off) s (fun t => joined s u (checkedMove s t u (State.newMove tag (.store a st (s.absRow u (T.row src)) n) rg)
        (rowAccs a st n .slot) (a % 64 = 0 && st % 64 = 0) (rowList (s.absRow u (T.row src)) n)) t)) ∧
    (∀ dan san (lreg : BitVec 5), slotRuns s (.platcpy i tag dan san lreg) = true →
      let d := T.a dan.toNat
      let x := T.a san.toNat
      let len := T.s lreg.toNat
      let c := if len = 0 then 64 else len
      let ext := if s.sealedCopy u then c + 64 * recordCount c else c
      let plat := if isPsram d then d else x
      let m := State.newMove tag (.platCopy d x len) []
      Answers (.platcpy i tag dan san lreg) s (fun t => joined s u
        (if s.sealedCopy u = true ∧ isPsram plat = true ∧ hostArea < plat % psramBytes + ext then { m with status := some msUnmapped }
         else checkedMove s t u m [{ addr := plat, len := ext, want := .psram }, { addr := if isPsram d then x else d, len := c, want := .dram }]
          (d % 64 = 0 && x % 64 = 0 && len % 64 = 0 && len ≤ 0x2000000) []) t)) ∧
    (∀ dst idx (g1 : BitVec 7), slotRuns s (.gather i tag an dst idx g1 false ss) = true →
      let len := T.s ss.toNat
      let srcs := (s.gatherIdx u (T.row idx) (g1.toNat + 1)).map (fun x => wrapAddr (T.a an.toNat + x * len))
      let accs := srcs.map (fun x => ({ addr := x, len := 512, want := .any } : MoveAcc))
      let m := State.newMove tag (.gather false srcs (s.absRow u (T.row dst))) (gatherPlan an dst idx g1 false ss s u).ranges
      Answers (.gather i tag an dst idx g1 false ss) s (fun t => joined s u
        (if s.segReady u (s.absRow u (T.row idx) / 160) = false then { m with status := some msSegOff }
         else if len % 64 = 0 ∧ (∀ x ∈ accs, s.accUnmapped u x = none) ∧ (∃ x ∈ accs, x.addr % 64 ≠ 0 ∨ s.accMisaligned x = true) then
           { m with status := some msUnmapped }
         else checkedMove s t u m accs (len % 64 = 0) (s.absRow u (T.row idx) :: rowList (s.absRow u (T.row dst)) (g1.toNat + 1))) t)) ∧
    (∀ (mode : BitVec 2) sc (w1 : BitVec 6), slotRuns s (.ldw i tag mode sc w1 (.device an off)) = true →
      let mv := fun (t : State) => checkedMove s t u (State.newMove tag (.weights false a mode.toNat (w1.toNat + 1) sc) (ldwPlan mode sc w1 (.device an off) s u).ranges)
        [{ addr := a, len := ldwRows mode sc w1 * 512, want := .any }] (a % 64 = 0) []
      Answers (.ldw i tag mode sc w1 (.device an off)) s (fun t => joined s u (mv t) t ∧ (t.tile u).active = T.active ∧
        (t.tile u).inactive = if (mv t).status = none then { T.inactive with mode := mode.toNat, krows := 0, bytes := [] } else T.inactive)) ∧
    (∀ dst idx (g1 : BitVec 7), slotRuns s (.gather i tag an dst idx g1 true ss) = true →
      let ids := s.gatherIdx u (T.row idx) (g1.toNat + 1)
      let srcs := ids.map (fun x => T.a an.toNat % 2048 + x)
      let m := State.newMove tag (.gather true srcs (s.absRow u (T.row dst))) (gatherPlan an dst idx g1 true ss s u).ranges
      Answers (.gather i tag an dst idx g1 true ss) s (fun t => joined s u
        (if s.segReady u (s.absRow u (T.row idx) / 160) = false then { m with status := some msSegOff }
         else if ids.any (fun x => decide (T.s ss.toNat ≤ x)) then { m with status := some msUnmapped }
         else checkedMove s t u m [] true (s.absRow u (T.row idx) :: rowList (s.absRow u (T.row dst)) (g1.toNat + 1) ++ srcs)) t)) ∧
    (∀ src (d1 : BitVec 3) seat (tile : BitVec 6) (dock : BitVec 4) (doff : BitVec 11),
      slotRuns s (.dockwr i tag src d1 false seat tile dock doff) = true →
      let r := s.absRow u (T.row src)
      let m := State.newMove tag (.dockWrite r (d1.toNat + 1) none tile.toNat dock.toNat doff.toNat) [rdRows (T.row src) (d1.toNat + 1)]
      Answers (.dockwr i tag src d1 false seat tile dock doff) s (joined s u
        (if s.tilePresent tile.toNat = false then { m with status := some msUnmapped }
         else if (rowList r (d1.toNat + 1)).any (fun x => !s.segReady u (x / 160)) then { m with status := some msSegOff } else m))) ∧
    (∀ (se sn sd : BitVec 5), slotRuns s (.commit i tag an se sn sd false 0 off) = true →
      Answers (.commit i tag an se sn sd false 0 off) s (fun t => joined s u (checkedMove s t u
        (State.newMove tag (.commit a (BitVec.ofNat 64 (T.pair se.toNat)) (BitVec.ofNat 64 (T.pair sn.toNat)) sd.toNat none) [])
        [{ addr := a, len := 8, want := .dramOrPsram }] (a % 8 = 0) []) t)) ∧
    (∀ (mode : BitVec 2) sc (w1 : BitVec 6) src, slotRuns s (.ldw i tag mode sc w1 (.store src)) = true →
      let r := s.absRow u (T.row src)
      (rowList r (ldwRows mode sc w1)).all (fun x => s.segReady u (x / 160)) = true →
      Answers (.ldw i tag mode sc w1 (.store src)) s (fun t =>
        joined s u (State.newMove tag (.weights true r mode.toNat (w1.toNat + 1) sc) (ldwPlan mode sc w1 (.store src) s u).ranges) t ∧
        (t.tile u).inactive = { T.inactive with mode := mode.toNat, krows := 0, bytes := [] } ∧ (t.tile u).active = T.active))

/-- R128, R202: LDLEDGER translates its pages when it issues; dropped pages set bits of the mask that it later writes to s[SD], and a page that is
neither mapped nor dropped ends it UNMAPPED. -/
def Sys2Proof.Claims.LedgerLoadTranslatesAtIssue : Prop :=
  ∀ (i : Issue) (tag an : BitVec 4) (dst : RowOp) (n1 : BitVec 8) (sd : BitVec 5) (off : BitVec 20) (s : State), slotAlone s i = true →
    let u := i.tile
    let T := s.tile u
    let a := T.devAddr an off
    let n := n1.toNat + 1
    let d := s.absRow u (T.row dst)
    let acc : MoveAcc := { addr := a, len := n * 512, want := .ledger }
    let ps := State.accPages acc
    slotRuns s (.ldledger i tag an dst n1 sd off) = true →
    (s.moveCheck u [acc] (a % 512 = 0) (rowList d n)).1 = none →
    Answers (.ldledger i tag an dst n1 sd off) s (fun t => ∃ m, joined s u m t ∧ m.tag = tag.toNat ∧ m.kind = .ledgerLoad a d n sd.toNat ∧
      m.pages = s.pagePairs (s.runTenant u) ps ∧ m.gens = ps.map (fun p => (p, (t.entry p).keygen)) ∧ m.mask = listMask ((List.range ps.length).filter (fun j => s.pageDropped (s.runTenant u) (ps.getD j 0))) ∧
      (m.status = some msUnmapped ↔ ∃ p ∈ ps, s.pageMapped (s.runTenant u) p = false ∧ s.pageDropped (s.runTenant u) p = false))

/-- R124, R127–R131: what MOVE_COMPLETE leaves of a move: a load, a gather and a Ledger load their rows, a store and a plain copy the bytes at their
destination, a weight load its buffer, a COMMIT its compare-and-set, each its tag and status in ST; a dock write that has landed and a move that a check failed
touch no memory. -/
def Obligations.MovesLandWhenTheyComplete : Prop :=
  ∀ (s : State) (u : Nat) (m : Move), MemInv s → onlyMove s u m →
    let T := s.tile u
    let done := fun (t : State) (st : Word) => (t.tile u).moves = [] ∧ (t.tile u).st = st
    let bytesAt := fun (t : State) (ks : List Nat) => ks.map (memByte t.mem)
    (∀ st, m.status = some st → State.failRegs m = [] →
      Answers (.moveComplete u 0 [] [] []) s (fun t => done t (stMove T.st m.tag st) ∧ t.mem = s.mem ∧ (t.tile u).sregs = T.sregs)) ∧
    (∀ st a d n sd, m.status = some st → m.kind = .ledgerLoad a d n sd →
      Answers (.moveComplete u 0 [] [] []) s (fun t => done t (stStick (stMove T.st m.tag st) stMvDrop (m.mask ≠ 0)) ∧ t.mem = s.mem ∧ (t.tile u).s sd = m.mask % 32)) ∧
    (m.status = none → s.dram.marked = [] →
      (∀ a st d n, m.kind = .load a st d n → (∀ j, j < n → inOwnStore u (wrapAddr (a + j * st)) = false) →
        Answers (.moveComplete u 0 [] [] []) s (fun t => done t (stMove T.st m.tag msOk) ∧
          (∀ j, j < n → t.rowBytes u (d + j) = bytesAt s (s.moveKeys m (wrapAddr (a + j * st)) 512)) ∧
          ∀ b, b < rowAddr u d ∨ rowAddr u d + 512 * n ≤ b → memByte t.mem b = memByte s.mem b)) ∧
      (∀ a st r n, m.kind = .store a st r n → (∀ j, j < n → inOwnStore u (wrapAddr (a + j * st)) = false ∧ T.poison.contains (r + j) = false) →
        let ks := fun j => s.moveKeys m (wrapAddr (a + j * st)) 512
        ((List.range n).flatMap ks).Nodup → (∀ k ∈ (List.range n).flatMap ks, s.twinKey k = none) →
        Answers (.moveComplete u 0 [] [] []) s (fun t => done t (stMove T.st m.tag msOk) ∧
          (∀ j, j < n → bytesAt t (ks j) = s.rowBytes u (r + j)) ∧
          ∀ b, b ∉ (List.range n).flatMap ks → memByte t.mem b = memByte s.mem b)) ∧
      (∀ d a len, m.kind = .platCopy d a len → s.sealedCopy u = false → (s.moveKeys m d len).Nodup → (∀ k ∈ s.moveKeys m d len, s.twinKey k = none) →
        Answers (.moveComplete u 0 [] [] []) s (fun t => done t (stMove T.st m.tag msOk) ∧
          bytesAt t (s.moveKeys m d len) = bytesAt s (s.moveKeys m a len) ∧
          ∀ b, b ∉ s.moveKeys m d len → memByte t.mem b = memByte s.mem b)) ∧
      (∀ own srcs d, m.kind = .gather own srcs d → (∀ x ∈ srcs, if own then x < 1280 else inOwnStore u x = false) →
        Answers (.moveComplete u 0 [] [] []) s (fun t => done t (stMove T.st m.tag msOk) ∧
          (∀ j x, srcs[j]? = some x → t.rowBytes u (d + j) = if own then s.rowBytes u x else bytesAt s (s.moveKeys m x 512)) ∧
          ∀ b, b < rowAddr u d ∨ rowAddr u d + 512 * srcs.length ≤ b → memByte t.mem b = memByte s.mem b)) ∧
      (∀ a d n sd, m.kind = .ledgerLoad a d n sd → (∀ j, j < n → inOwnStore u (a + 512 * j) = false) →
        let out := fun j => bitAt m.mask ((a + 512 * j - ledgerBase) / pageBytes - (a - ledgerBase) / pageBytes)
        Answers (.moveComplete u 0 [] [] []) s (fun t => done t (stMove T.st m.tag (if m.mask = 0 then msOk else msDropped)) ∧
          (t.tile u).s sd = m.mask % 32 ∧
          ∀ j, j < n → t.rowBytes u (d + j) = if out j then s.rowBytes u (d + j) else bytesAt s (s.moveKeys m (a + 512 * j) 512))) ∧
      (∀ own src mode n sc, m.kind = .weights own src mode n sc →
        let k := n + if sc then (if mode = 0 then 2 else 4) else 0
        (∀ j, j < k → if own then src + j < 1280 else inOwnStore u (wrapAddr (src + 512 * j)) = false) →
        Answers (.moveComplete u 0 [] [] []) s (fun t => done t (stMove T.st m.tag msOk) ∧ t.mem = s.mem ∧
          (t.tile u).inactive = State.fillWeights T.inactive mode n sc ((List.range k).map (fun j =>
            if own then s.rowBytes u (src + j) else bytesAt s (s.moveKeys m (wrapAddr (src + 512 * j)) 512))))) ∧
      (∀ r n seat tile dock off, m.kind = .dockWrite r n seat tile dock off →
        Answers (.moveComplete u 0 [] [] []) s (fun t => done t (stMove T.st m.tag msOk) ∧ t.mem = s.mem ∧ (t.tile u).sregs = T.sregs)) ∧
      (∀ a e n sd seat, m.kind = .commit a e n sd (some seat) → sd + 1 < 32 →
        Answers (.moveComplete u 0 [] [] []) s (fun t => done t (stCommit (stMove T.st m.tag msOk) (decide (m.old ≠ e))) ∧ t.mem = s.mem ∧
          (t.tile u).s sd = m.old.toNat % 2 ^ 32 ∧ (t.tile u).s (sd + 1) = m.old.toNat / 2 ^ 32)) ∧
      (∀ a e n sd, m.kind = .commit a e n sd none → sd + 1 < 32 → (s.moveKeys m a 8).Nodup → (∀ k ∈ s.moveKeys m a 8, s.twinKey k = none) →
        let old := leNat (bytesAt s (s.moveKeys m a 8))
        Answers (.moveComplete u 0 [] [] []) s (fun t =>
          done t (stCommit (stMove T.st m.tag msOk) (decide (old ≠ e.toNat))) ∧
          (t.tile u).s sd = old % 2 ^ 32 ∧ (t.tile u).s (sd + 1) = old / 2 ^ 32 ∧
          leNat (bytesAt t (s.moveKeys m a 8)) = (if old = e.toNat then n.toNat else old) ∧
          ∀ b, b ∉ s.moveKeys m a 8 → memByte t.mem b = memByte s.mem b)))

/-- R124, R126, R127, R129–R131: a row move, a gather, a dock write, a copy, a weight load or a local COMMIT joins the end of its tile's queue with its operands captured and the outcome of its checks, and changes no memory and no register before it completes. R128, R202: LDLEDGER translates its pages when it issues; dropped pages set bits of the mask that it later writes to s[SD], and a page that is neither mapped nor dropped ends it UNMAPPED. -/
def Obligations.MovesAreCheckedAndQueuedAtIssue : Prop :=
  Sys2Proof.Claims.MovesQueueWithTheirChecks ∧ Sys2Proof.Claims.LedgerLoadTranslatesAtIssue

/-! ### A tile's pages -/

namespace Sys2Proof.Claims

open Sys2Proof Sys2Proof.Machine

/-- On a tile outside a pair, no register changed but those listed; in a pair the same write takes effect on the other tile too (R101). -/
def RegsAlone (u : Nat) (s t : State) (l : List Nat) : Prop := (s.tile u).coupled = false → RegsBut s t l

end Sys2Proof.Claims

open Sys2Proof.Claims

/-- R74, R75, R104: TILE_SEG_PWR.ON takes the written bits but for those that an open dock keeps; a segment that powers down once nothing touches it
is no longer ready and loses its contents, and one that powers up is ready with every row zero. -/
def Sys2Proof.Claims.StoreSegmentsFollowPowerBits : Prop :=
  ∀ (s : State) (u g : Nat), s.live = true → g < 8 →
    let a := pgTile u + 0x104
    let rows := fun (t : State) => (∀ r, 160 * g ≤ r → r < 160 * g + 160 → t.rowBytes u r = List.replicate 512 0) ∧
      (∀ b, b < rowAddr u (160 * g) ∨ rowAddr u (160 * g + 160) ≤ b → memByte t.mem b = memByte s.mem b) ∧ RegsBut s t [a]
    (∀ who w, mayWrite s who a = true → Answers (.tileSegPwr who u w) s (fun t =>
      t.fld a 7 0 = (bitsOf w 7 0 ||| listMask ((maskList 8 (s.fld a 7 0 &&& (0xFF - bitsOf w 7 0))).filter (s.dockCovers u))) ∧
      t.fld a 15 8 = s.fld a 15 8 ∧ t.mem = s.mem)) ∧
    (g ∈ (s.tile u).poweringDown → s.segInUse u g = false → Answers (.segmentPowerDown u g) s (fun t =>
      rows t ∧ t.segReady u g = false ∧ g ∉ (t.tile u).poweringDown)) ∧
    (g ∈ (s.tile u).poweringUp → Answers (.segmentReady u g) s (fun t =>
      rows t ∧ t.segReady u g = true ∧ g ∉ (t.tile u).poweringUp))

/-- R72, R313, R318: the scrubber takes the oldest queued row, else the next row of its walk; a walk is counted when it has passed row 1,279; a corrected row
is counted and leaves the queue; in a recovery, and while a fault of the tile is not judged, it leaves the store alone. -/
def Sys2Proof.Claims.ScrubberWalksTheStore : Prop :=
  ∀ (s : State) (u : Nat), s.live = true → s.tilePresent u = true →
    let T := s.tile u
    ((s.safety.phase ≠ .none ∨ T.health = .verdict) → ∀ found, Answers (.rowScrub u found) s (fun t => t = s)) ∧
    (s.safety.phase = .none → T.health ≠ .verdict →
    (∀ r rs, T.scrubQueue = r :: rs →
      Answers (.rowScrub u .clean) s (fun t => (t.tile u).scrubQueue = rs ∧ (t.tile u).scrubWalk = T.scrubWalk ∧ t.mem = s.mem ∧ t.regs = s.regs) ∧
      Answers (.rowScrub u .corrected) s (fun t => r ∉ (t.tile u).scrubQueue ∧ t.mem = s.mem ∧
        t.reg (pgTile u + 0x110) = BitVec.ofNat 32 (min 0xFFFFFFFF ((s.reg (pgTile u + 0x110)).toNat + 1)))) ∧
    (T.scrubQueue = [] → Answers (.rowScrub u .clean) s (fun t =>
      (t.tile u).scrubWalk = (T.scrubWalk + 1) % 1280 ∧ t.mem = s.mem ∧ RegsBut s t [pgTile u + 0x114] ∧
      t.reg (pgTile u + 0x114) = if T.scrubWalk = 1279 then BitVec.ofNat 32 (min 0xFFFFFFFF ((s.reg (pgTile u + 0x114)).toNat + 1))
        else s.reg (pgTile u + 0x114))))

namespace Sys2Proof.Claims

open Sys2Proof Sys2Proof.Machine

/-- No dock of a berth is CLOSING or has an accepted write still to land: the berth can become EMPTY at once (R96, R98). -/
def docksDone (s : State) (u n : Nat) : Prop :=
  ∀ k, k < 16 → s.fld (State.dockReg u k 0) 10 8 = n → s.fld (State.dockReg u k 0) 1 0 ≠ 2 ∧ (s.fld (State.dockReg u k 0) 1 0 = 1 → s.dockPending u k = false)

end Sys2Proof.Claims

/-- R92–R96: a write sets a berth's shares while the berth is EMPTY or RESIDENT and they lie in the store or buffer and meet no other berth's, and
changes nothing otherwise; a RESIDENT berth that grows over another tenant's units is zeroed first; BERTH_OWNER assigns and loads a berth, makes a loaded and
zeroed one RESIDENT, and empties one once its docks have closed; a RUNNING berth is the tile's own. -/
def Sys2Proof.Claims.BerthWritesFollowTheirStates : Prop :=
  ∀ (s : State) (u n : Nat) (who : Writer) (w : Word), s.live = true → n < 8 →
    let st := State.berthReg u n 0
    let ib := State.berthReg u n 4
    let ow := State.berthReg u n 8
    let ha := State.berthReg u n 12
    let b := bitsOf w 6 0
    let z := bitsOf w 22 16
    let ibase := bitsOf w 4 0
    let isize := bitsOf w 21 16
    let free := fun (hi lo hz lz o : Nat) (x y : Nat) => ∀ k, k < 8 → k ≠ n → State.sharesMeet x y (s.fld (State.berthReg u k o) hi lo) (s.fld (State.berthReg u k o) hz lz) = false
    (mayWrite s who st = true → s.berthIdle u n = true → b ≤ 79 → z ≤ 80 →
      (b + z ≤ 80 → free 6 0 22 16 0 b z →
        let dirty := s.berthState u n = 2 ∧ ((s.setFld st 6 0 b).setFld st 22 16 z).needsZero u n (s.berthTenant u n) = true
        Answers (.berthStore who u n w) s (fun t => t.fld st 6 0 = b ∧ t.fld st 22 16 = z ∧ RegsAlone u s t [st, ow] ∧ t.berthTenant u n = s.berthTenant u n ∧
          t.berthState u n = (if dirty then 1 else s.berthState u n) ∧ (dirty → (t.berthInfo u n).zeroing = true))) ∧
      (80 < b + z → Answers (.berthStore who u n w) s (fun t => t.reg st = s.reg st))) ∧
    (mayWrite s who ib = true → s.berthIdle u n = true → isize ≤ 32 →
      (ibase + isize ≤ 32 → free 4 0 21 16 4 ibase isize →
        Answers (.berthIbuf who u n w) s (fun t => t.fld ib 4 0 = ibase ∧ t.fld ib 21 16 = isize ∧ RegsAlone u s t [ib])) ∧
      (32 < ibase + isize → Answers (.berthIbuf who u n w) s (fun t => t.reg ib = s.reg ib))) ∧
    (mayWrite s who ow = true →
      ((s.berthState u n = 3 ∨ (s.berthInfo u n).emptying = true) → Answers (.berthOwner who u n w) s (fun t => t.reg ow = s.reg ow)) ∧
      (s.berthIdle u n = true → bitsOf w 17 16 = 1 → Answers (.berthOwner who u n w) s (fun t =>
        t.berthState u n = 1 ∧ t.berthTenant u n = bitsOf w 11 0 ∧ (t.berthInfo u n).loading = true ∧ RegsAlone u s t [ow])) ∧
      (s.berthIdle u n = true → bitsOf w 17 16 = 2 → Answers (.berthOwner who u n w) s (fun t =>
        t.berthState u n = (if s.needsZero u n (bitsOf w 11 0) then 1 else 2) ∧ t.berthTenant u n = bitsOf w 11 0 ∧ RegsAlone u s t [ow])) ∧
      (s.berthState u n = 1 → (s.berthInfo u n).emptying = false → bitsOf w 17 16 = 2 → bitsOf w 11 0 = s.berthTenant u n → Answers (.berthOwner who u n w) s (fun t =>
        t.berthState u n = (if (s.berthInfo u n).loading || (s.berthInfo u n).zeroing then 1 else 2) ∧ RegsAlone u s t [ow])) ∧
      (s.berthIdle u n = true → s.berthState u n = 2 → bitsOf w 17 16 = 0 → Answers (.berthOwner who u n w) s (fun t => t.mem = s.mem ∧
        (docksDone s u n → t.berthState u n = 0 ∧ t.fld st 22 16 = 0 ∧ t.fld ib 21 16 = 0) ∧
        (¬ docksDone s u n → t.berthState u n = 2 ∧ (t.berthInfo u n).emptying = true ∧ t.reg st = s.reg st)))) ∧
    (mayWrite s who ha = true → Answers (.berthHandle who u n w) s (fun t => t.reg ha = if s.berthIdle u n then w else s.reg ha))

/-- R93, R94, R238: a share that is zeroed reads 0 and its units are the berth's tenant's; an image whose bytes have its handle's digest fills the shares; one
whose hash differs empties the berth; the berth stays LOADING until BERTH_OWNER makes it RESIDENT. -/
def Sys2Proof.Claims.LoadingBerthsTakeTheirImage : Prop :=
  ∀ (s : State) (u n : Nat), s.live = true → MemInv s → s.berthState u n = 1 → s.berthWork u n = none →
    let info := s.berthInfo u n
    let a := rowAddr u (s.shareBase u n)
    let len := 512 * s.shareRows u n
    (info.zeroing = true → Answers (.berthZeroed u n) s (fun t => t.berthState u n = 1 ∧ (t.berthInfo u n).zeroing = false ∧
      (t.berthInfo u n).loading = info.loading ∧ (∀ k ∈ s.shareUnits u n, smFind (t.tile u).unitTenant k = some (s.berthTenant u n)) ∧
      (∀ b, a ≤ b → b < a + len → memByte t.mem b = 0) ∧ (∀ b, b < a ∨ a + len ≤ b → memByte t.mem b = memByte s.mem b))) ∧
    (∀ h, s.handleOf (s.reg (State.berthReg u n 12)).toNat = some h → info.loading = true → info.zeroing = false → s.devHeld h.dest h.len = false → s.devMarked h.dest h.len = false →
      (s.imageSound u n = true → Answers (.berthImageLoaded u n []) s (fun t => t.berthState u n = 1 ∧ (t.berthInfo u n).loading = false ∧
        (∀ k, k < len → memByte t.mem (a + k) = (Config.imageByte h.digest k).getD (memByte s.mem (a + k))) ∧
        (∀ b, b < a ∨ a + len ≤ b → memByte t.mem b = memByte s.mem b))) ∧
      (s.imageSound u n = false → docksDone s u n → Answers (.berthImageLoaded u n []) s (fun t => t.berthState u n = 0 ∧ t.mem = s.mem)))

/-- R96, R98, R100: DOCK_CTL opens a CLOSED dock whose range and berth allow it, with ARRIVED 0, and closes an OPEN one behind its accepted writes; BERTH,
BASE and ROWS change only while the dock is CLOSED. -/
def Sys2Proof.Claims.DockRegistersOpenAndClose : Prop :=
  ∀ (s : State) (u k : Nat) (who : Writer) (w : Word), s.live = true → k < 16 →
    let ctl := State.dockReg u k 0
    let range := State.dockReg u k 4
    let arrived := State.dockReg u k 8
    let named := s.setFld ctl 10 8 (bitsOf w 10 8)
    (mayWrite s who ctl = true → s.fld ctl 1 0 = 0 → bitsOf w 4 4 = 1 → bitsOf w 5 5 = 0 →
      (named.dockOpenOk u k = true → Answers (.dockOpen who u k w) s (fun t =>
        t.fld ctl 1 0 = 1 ∧ t.fld ctl 10 8 = bitsOf w 10 8 ∧ t.reg arrived = 0 ∧ RegsAlone u s t [ctl, arrived])) ∧
      (named.dockOpenOk u k = false → Answers (.dockOpen who u k w) s (fun t => t.fld ctl 1 0 = 0 ∧ t.reg arrived = s.reg arrived))) ∧
    (mayWrite s who ctl = true → s.fld ctl 1 0 = 1 → bitsOf w 4 4 = 0 → bitsOf w 5 5 = 1 → bitsOf w 10 8 = s.fld ctl 10 8 →
      Answers (.dockClose who u k w) s (fun t =>
        t.fld ctl 1 0 = (if s.dockPending u k then 2 else 0) ∧ RegsAlone u s t [ctl])) ∧
    (mayWrite s who ctl = true → s.fld ctl 1 0 = 0 → bitsOf w 4 4 = 0 → bitsOf w 5 5 = 0 →
      Answers (.dockRange who u k true w) s (fun t => t.fld ctl 10 8 = bitsOf w 10 8 ∧ t.fld ctl 1 0 = 0 ∧ RegsAlone u s t [ctl])) ∧
    (mayWrite s who range = true → 1 ≤ bitsOf w 26 16 → bitsOf w 26 16 ≤ 1280 →
      (s.fld ctl 1 0 = 0 → Answers (.dockRange who u k false w) s (fun t =>
        t.fld range 10 0 = bitsOf w 10 0 ∧ t.fld range 26 16 = bitsOf w 26 16 ∧ RegsAlone u s t [range])) ∧
      (s.fld ctl 1 0 ≠ 0 → Answers (.dockRange who u k false w) s (fun t => t.reg range = s.reg range)))

/-- R77, R97, R98: a dock write's header is refused with the first reason that holds or waits whole in the ingress buffer, and its read range ends; the oldest accepted write lands at
BASE plus its offset, ARRIVED counts its rows, and a CLOSING dock with nothing left becomes CLOSED. -/
def Sys2Proof.Claims.DockWritesAreCheckedThenLand : Prop :=
  ∀ (s : State) (u : Nat), s.live = true → MemInv s → (s.tile u).coupled = false →
    (∀ (v k : Nat) (m : Move) (r n tl dk off : Nat), s.follows v = false → s.gated v = false → s.safety.phase = .none → (s.tile v).moves[k]? = some m → m.kind = .dockWrite r n none tl dk off →
      m.sent = false → m.status = none → s.ingressTile tl = u → (∀ j, j < n → (s.tile v).poison.contains (r + j) = false) →
      let rows := (List.range n).map (fun j => s.rowBytes v (r + j))
      let h : DockHeader := { src := .tile v s.convoy.nextOp, tenant := s.runTenant v, dock := dk, offset := off, rows := rows }
      (∀ st, s.dockCheck u h = some st → Answers (.remoteWrite u (.tile v k) [] []) s (fun t =>
        (t.tile v).moves[k]? = some { m with status := some st, sent := true, landed := true, ranges := [] } ∧ (t.tile u).ingress = (s.tile u).ingress ∧ t.mem = s.mem)) ∧
      (s.dockCheck u h = none → s.ingressRows u + n ≤ 32 → Answers (.remoteWrite u (.tile v k) [] []) s (fun t =>
        (t.tile u).ingress = (s.tile u).ingress ++ [{ dock := dk, first := (s.dockRows u dk).1 + off, rows := rows, src := h.src }] ∧ t.mem = s.mem ∧
        (t.tile v).moves[k]? = some { m with sent := true, op := s.convoy.nextOp, ranges := [] }))) ∧
    (∀ w ws, (s.tile u).ingress = w :: ws →
      let bs := w.rows.flatMap id
      let ctl := State.dockReg u w.dock 0
      Answers (.dockWriteLanded u) s (fun t => (t.tile u).ingress = ws ∧ t.bytes (rowAddr u w.first) bs.length = bs ∧
        (∀ b, b < rowAddr u w.first ∨ rowAddr u w.first + bs.length ≤ b → memByte t.mem b = memByte s.mem b) ∧
        t.reg (State.dockReg u w.dock 8) = BitVec.ofNat 32 (min 0xFFFFFFFF ((s.reg (State.dockReg u w.dock 8)).toNat + w.rows.length)) ∧
        t.fld ctl 1 0 = if s.fld ctl 1 0 = 2 ∧ ws.any (fun x => x.dock = w.dock) = false then 0 else s.fld ctl 1 0))

/-- R121, R240: an event lands in a tile that runs its sender's tenant and is lost on any other; a budget that has run out ends its waybill alone as an
overrun. -/
def Obligations.EventsAndBudgetsReachTheirTile : Prop :=
  ∀ (s : State) (u : Nat), s.live = true → (s.tile u).coupled = false →
    let T := s.tile u
    (∀ bit tenant, bit < 16 → (u, bit, tenant) ∈ s.signals → Answers (.eventArrival u bit tenant) s (fun t =>
      t.signals = s.signals.erase (u, bit, tenant) ∧ t.mem = s.mem ∧ t.regs = s.regs ∧
      (t.tile u).events = if T.wid.isSome && s.fld (pgTile u + 0x100) 2 0 = 2 && s.runTenant u = tenant then T.events ||| BitVec.ofNat 16 (2 ^ bit) else T.events)) ∧
    (∀ w p, T.wid = some w → s.placed w = some p → T.stopped = false → T.budget ≤ s.cyclesCharged u → T.moves = [] →
      p.pairs = false → p.units = [u] → p.entry = none → p.started = true → p.ended = false → p.aborting = false → p.serving = false → p.pinned = [] →
      Answers (.budgetExhausted u) s (fun t => (t.tile u).stopped = true ∧ t.mem = s.mem ∧
        ∃ c, t.disp.completions = s.disp.completions ++ [c] ∧ c.status = csOverrun ∧ c.tag = p.wb.tag ∧ c.index = p.index ∧ c.wid = some w))

/-- R74, R75, R104: TILE_SEG_PWR.ON takes the written bits but for those that an open dock keeps; a segment that powers down once nothing touches it is no longer ready and loses its contents, and one that powers up is ready with every row zero. R72, R313, R318: the scrubber takes the oldest queued row, else the next row of its walk; a walk is counted when it has passed row 1,279; a corrected row is counted and leaves the queue; in a recovery, and while a fault of the tile is not judged, it leaves the store alone. -/
def Obligations.StoreSegmentsPowerAndScrub : Prop :=
  Sys2Proof.Claims.StoreSegmentsFollowPowerBits ∧ Sys2Proof.Claims.ScrubberWalksTheStore

/-- R92–R96: a write sets a berth's shares while the berth is EMPTY or RESIDENT and they lie in the store or buffer and meet no other berth's, and changes nothing otherwise; a RESIDENT berth that grows over another tenant's units is zeroed first; BERTH_OWNER assigns and loads a berth, makes a loaded and zeroed one RESIDENT, and empties one once its docks have closed; a RUNNING berth is the tile's own. R93, R94, R238: a share that is zeroed reads 0 and its units are the berth's tenant's; an image whose bytes have its handle's digest fills the shares; one whose hash differs empties the berth; the berth stays LOADING until BERTH_OWNER makes it RESIDENT. -/
def Obligations.BerthsFollowTheirStates : Prop :=
  Sys2Proof.Claims.BerthWritesFollowTheirStates ∧ Sys2Proof.Claims.LoadingBerthsTakeTheirImage

/-- R96, R98, R100: DOCK_CTL opens a CLOSED dock whose range and berth allow it, with ARRIVED 0, and closes an OPEN one behind its accepted writes; BERTH, BASE and ROWS change only while the dock is CLOSED. R77, R97, R98: a dock write's header is refused with the first reason that holds or waits whole in the ingress buffer, and its read range ends; the oldest accepted write lands at BASE plus its offset, ARRIVED counts its rows, and a CLOSING dock with nothing left becomes CLOSED. -/
def Obligations.DocksTakeCheckedWrites : Prop :=
  Sys2Proof.Claims.DockRegistersOpenAndClose ∧ Sys2Proof.Claims.DockWritesAreCheckedThenLand

/-! ### Services, start-up and the Viaducts -/

namespace Sys2Proof.Claims

open Sys2Proof Sys2Proof.Machine

/-- SERVICE_STAT.STEP and DIR (R45). -/
def svcStep (s : State) : Nat := s.fld (pgService + 0x104) 7 4
def svcDir (s : State) : Nat := s.fld (pgService + 0x104) 8 8

/-- A block's sticky class bit is set for an error code (R462, R463). -/
def stuck (s : State) (page code : Nat) : Prop := s.fld (page + 0x20) (code / 256 % 16) (code / 256 % 16) = 1

end Sys2Proof.Claims

open Sys2Proof.Claims

/-- R45–R49, R51, R53: a request without the GUARD key is refused 0x14; a depot request needs PARKED and both islands' PARK_OK, and starts the handover
to depot at step 1; a drive request in depot service starts the one to drive, and one during steps 1–2 of a handover to depot cancels it. -/
def Sys2Proof.Claims.ServiceRequestsStartOrAreRefused : Prop :=
  ∀ (s : State) (who : Writer) (p : Bool) (g : BitVec 16), s.live = true → mayWrite s who (pgService + 0x100) = true →
    let levels := ∀ x, s.islandOk x = true ∧ (s.island x).park.level = true
    let starts := fun (t : State) (dir : Nat) => t.service = 3 ∧ svcStep t = 1 ∧ svcDir t = dir ∧ t.serviceResult = 1 ∧
      ∃ h, t.svc = some h ∧ h.toDepot = decide (dir = 1) ∧ h.step = 1 ∧ h.trigger = s.now ∧ h.request = s.now
    let refused := fun (t : State) (v : Nat) => t.serviceResult = v ∧ t.service = s.service ∧ t.svc = none
    (s.svc = none → g.toNat ≠ 0x5E7C →
      Answers (.serviceReqDrive who p g) s (fun t => refused t 0x14) ∧ Answers (.serviceReqDepot who p g) s (fun t => refused t 0x14)) ∧
    (g.toNat = 0x5E7C →
      (s.svc = none → s.service = 1 → s.driveReady = true → s.safety.holdAsked = false →
        Answers (.serviceReqDepot who false g) s (fun t => refused t 0x10) ∧
        (¬ levels → Answers (.serviceReqDepot who true g) s (fun t => refused t 0x11)) ∧
        (levels → Answers (.serviceReqDepot who true g) s (fun t => starts t 1 ∧ t.disp.lastFrame = true ∧ t.disp.tickOwed = false)) ∧
        Answers (.serviceReqDrive who p g) s (fun t => refused t 0x13)) ∧
      (s.svc = none → s.service = 2 → Answers (.serviceReqDrive who p g) s (fun t => starts t 0 ∧ t.depotReady = false ∧ t.driveReady = false)) ∧
      (∀ h, s.svc = some h → h.failed = false → h.toDepot = true → h.step ≤ 2 → h.before < 2 →
        Answers (.serviceReqDrive who p g) s (fun t => t.service = 1 ∧ svcStep t = 0 ∧ svcDir t = h.before ∧ t.serviceResult = 3 ∧ t.svc = none ∧
          t.disp.lastFrame = false)))

/-- R47, R48: PARKED and three equal samples of PARK_OK set the parked condition, and depot service freezes dispatch while it does not hold. -/
def Sys2Proof.Claims.ParkedConditionFollowsSamples : Prop :=
  ∀ (s : State), s.live = true →
    (∀ who, mayWrite s who (pgService + 0x100) = true → s.svc = none → s.service = 2 →
      Answers (.parked who false) s (fun t => t.fld (pgService + 0x100) 8 8 = 0 ∧ t.disp.frozen = true) ∧
      ((∀ x, s.islandOk x = true → (s.island x).park.level = true) →
        Answers (.parked who true) s (fun t => t.fld (pgService + 0x100) 8 8 = 1 ∧ t.disp.frozen = false ∧ t.mem = s.mem))) ∧
    (∀ a b, Answers (.parkOkSample a b) s (fun t => ∀ x, s.islandOk x = true →
      let v := match x with
        | Side.a => a
        | Side.b => b
      let f := (s.island x).park
      let f' := (t.island x).park
      (v = f.level → f'.level = f.level ∧ f'.run = 0) ∧
      (v ≠ f.level → f.run = 2 → f'.level = v ∧ f'.run = 0) ∧
      (v ≠ f.level → f.run < 2 → f'.level = f.level ∧ f'.run = f.run + 1)))

/-- R49, R51–R53, R56–R58: a handover's steps follow one another unless a recovery runs or a replaced unit owes its tests, and the last one of a handover to drive
declares drive service; a checkpoint with drive wanted turns it to drive; a late step is logged once; a handover to drive that takes more than 1.0 s has failed for
good, with RESULT 0x20 and both safe pins asserted. -/
def Obligations.HandoversStepAndFail : Prop :=
  ∀ (s : State) (h : Handover) (r : StepReport), s.live = true → s.svc = some h → h.failed = false → s.start.step = 0 →
    (s.safety.phase = .none →
      ((h.toDepot = false ∧ ((1 ≤ h.step ∧ h.step ≤ 4) ∨ (s.safety.owed = [] ∧ ((h.step = 5 ∧ r.injFailPairs = [] ∧ r.injFailLanes = []) ∨
          (h.step = 6 ∧ r.failTiles = []))))) ∨
        (h.toDepot = true ∧ h.abandoned = 0 ∧ h.driveWanted = false ∧ (h.step = 1 ∨ (h.step = 2 ∧ s.driveDrained = true) ∨ h.step = 3 ∨ h.step = 4 ∨
          h.step = 5 ∨ (h.step = 6 ∧ r.ok = true))) →
        Answers (.handoverStepEnd r) s (fun t => t.svc = some { h with step := h.step + 1, lateLogged := false } ∧ svcStep t = h.step + 1)) ∧
      (h.toDepot = false → h.step = 8 → s.safety.owed = [] →
        (h.request + 1000000000 < s.now → Answers (.handoverStepEnd r) s (fun t => t.serviceResult = 0x20 ∧ t.svc = some { h with failed := true } ∧
          t.pins.safeA = true ∧ t.pins.safeB = true)) ∧
        (s.now ≤ h.request + 1000000000 → s.driveShort = false → r.ok = true → r.failTiles = [] → Answers (.handoverStepEnd r) s (fun t =>
          t.svc = none ∧ t.service = 1 ∧ svcStep t = 0 ∧ t.driveReady = true ∧ t.serviceResult = (if h.abandoned = 0 then 2 else h.abandoned)))) ∧
      (h.toDepot = true → 3 ≤ h.step → h.driveWanted = true → Answers .handoverCheckpoint s (fun t =>
        t.service = 3 ∧ svcStep t = 1 ∧ svcDir t = 0 ∧ t.serviceResult = 3 ∧ t.sec.devicePub = [] ∧ t.sec.devicePriv = 0 ∧
        ∃ h', t.svc = some h' ∧ h'.toDepot = false ∧ h'.step = 1 ∧ h'.request = h.request ∧ h'.trigger = s.now))) ∧
    (h.lateLogged = false → h.trigger + 1000000 * State.handoverDeadline h < s.now → Answers .stepLate s (fun t =>
      t.svc = some { h with lateLogged := true } ∧ stuck t pgService 0x5A01 ∧ t.mem = s.mem ∧ t.tiles = s.tiles)) ∧
    (h.toDepot = false → h.request + 1000000000 < s.now → Answers .handoverFailed s (fun t =>
      t.serviceResult = 0x20 ∧ t.svc = some { h with failed := true } ∧ t.pins.safeA = true ∧ t.pins.safeB = true ∧ t.safety.holdAsked = true ∧ stuck t pgService 0x5A03))

/-- R434, R438: PORST_N low leaves reset state but for the fuses and the flash; its release samples the straps and starts step 1 of a cold start, unless a diode
reads 105 °C by CAL_FACT alone (R469); a warm reset holds the logic with both safe pins asserted, and its release starts step 1 with DRAM kept and every store zero. -/
def Sys2Proof.Claims.ResetsBeginStartUp : Prop :=
  ∀ (s : State),
    Answers .porstNAssert s (fun t => t = { State.reset with pending := s.pending, fuses := s.fuses, flash := s.flash, free := s.free }) ∧
    (s.start.hold = .porst → ∀ r0 r1 (bs : BitVec 3) (ds : List (Nat × Nat × Int)),
      (s.hotDiodes ds 840 = [] → Answers (.porstNRelease r0 r1 bs ds) s (fun t =>
        t.live = true ∧ t.start.step = 1 ∧ t.start.warm = false ∧ t.start.role0 = r0 ∧ t.start.role1 = r1 ∧ t.start.bootSel = bs ∧
        t.start.releasedAt = s.now ∧ t.mem = [] ∧ t.fuses = s.fuses ∧ t.pins = Pins.held)) ∧
      (s.hotDiodes ds 840 ≠ [] → Answers (.porstNRelease r0 r1 bs ds) s (fun t => t.start.hold = .hot ∧ t.start.step = s.start.step ∧ t.regs = s.regs))) ∧
    (s.start.hold = .hot → Answers .internalResetRelease s (fun t => t.live = true ∧ t.start.step = 1 ∧ t.start.releasedAt = s.now)) ∧
    (s.start.hold = .none ∨ s.start.hold = .warm → Answers .warmReset s (fun t =>
      t.start.hold = .warm ∧ t.pins.safeA = true ∧ t.pins.safeB = true ∧ t.disp.stopped = true ∧ t.mem = s.mem ∧ t.fuses = s.fuses)) ∧
    (s.start.hold = .warm → Answers .warmResetRelease s (fun t => t.live = true ∧ t.start.step = 1 ∧ t.start.warm = !s.start.coldOwed ∧
      (s.start.coldOwed = false → ∀ a, memByte t.mem a = if a < 0x2000000000 then memByte s.mem a else 0)))

/-- R435, R436, R395, R398–R400: start-up's steps follow one another; a scrapped device, a start without a good first stage and one with a component that fails
its signature stop; drive service is ready after step 8; a start that takes more than 1,000 ms is late and stops. -/
def Sys2Proof.Claims.StartUpRunsItsSteps : Prop :=
  ∀ (s : State) (r : StepReport), s.live = true → s.start.stopped = false →
    (s.safety.phase = .none →
      (s.start.step = 1 → Answers (.startUpStepEnd r) s (fun t =>
        if s.sec.life = 5 then t.start.stopped = true ∧ t.start.step = 1 else t.start.stopped = false ∧ t.start.step = 2 ∧ t.start.stepBegan = s.now)) ∧
      (s.start.step = 2 → s.loadsOverUart = false →
        Answers (.startUpStepEnd r) s (fun t => match s.bootSlot r.slots with
          | none => t.start.stopped = true ∧ t.start.step = 2 ∧ stuck t pgSec 0x5B01
          | some (_, f) => (s.start.role0 && s.start.role1) = false →
            if s.componentsOk f then t.start.stopped = false ∧ t.start.step = 3 ∧ t.start.first = some f ∧ t.sec.firstStage = State.imageDigest f
            else t.start.stopped = true ∧ t.start.step = 2 ∧ stuck t pgSec 0x5B02)) ∧
      (s.start.step = 4 → Answers (.startUpStepEnd r) s (fun t => t.start.stopped = false ∧ t.start.step = 5 ∧
        ∀ p, p < 2 → (if p = 0 then s.start.role0 else s.start.role1) = false → t.fld (pgPlat p + 0x100) 1 1 = 1)) ∧
      (s.start.step = 8 → s.safety.owed = [] → r.ok = true → r.failTiles = [] → Answers (.startUpStepEnd r) s (fun t =>
        t.start.step = 0 ∧ t.service = 1 ∧ t.driveReady = true ∧ t.depotReady = false))) ∧
    (1 ≤ s.start.step → s.start.step ≤ 8 → s.start.releasedAt + 1000000000 < s.now → Answers .startLate s (fun t =>
      t.start.stopped = true ∧ stuck t (pgHub 0) 0x5A02 ∧ t.mem = s.mem ∧ t.tiles = s.tiles))

/-- R425–R429: on the bundle of its source a data frame that its sender may send leaves it against a credit; it is delivered once where it is good and in sequence, and asks
for a resend where it is bad, which goes out at the reverse half's next frame position; one for DEST 6 or 7 is counted as a CRC error; one without a credit waits; a RETRY resends
the frames kept from the named one on; a window with more retries than RETRY_THRESH is a fault of the bundle. -/
def Obligations.ViaductFramesArriveInOrder : Prop :=
  ∀ (s : State) (page b : Nat) (f : ViaFrame), s.live = true → s.bundleRuns page b = true →
    let l := s.link page b
    let far := State.viaOther page
    let q := s.link far b
    (s.bundleFor page f.src = some b → s.atBound f = false → q.asked = none →
    (q.waiting = [] → q.maySend f.cls.toNat = true → frameOk f = true → f.kind = 0 → f.dest.toNat < 6 →
      (f.seq = l.expect → Answers (.viaductFrame page b f) s (fun t =>
        (t.link page b).delivered = l.delivered ++ [f] ∧ (t.link page b).expect = l.expect + 1 ∧ (t.link page b).discarding = false ∧
        t.mem = s.mem ∧ t.regs = s.regs)) ∧
      (f.seq ≠ l.expect → Answers (.viaductFrame page b f) s (fun t =>
        (t.link page b).delivered = l.delivered ∧ (t.link page b).expect = l.expect ∧ t.mem = s.mem ∧ t.regs = s.regs)) ∧
      Answers (.viaductFrame page b f) s (fun t => (t.link page b).credits = (l.creditBack f.credit).credits ∧
        (t.link far b).credits = q.credits.set f.cls.toNat (q.credits.getD f.cls.toNat 0 - 1) ∧
        (t.link far b).replay = (q.replay ++ [f]).drop (q.replay.length + 1 - 32))) ∧
    (q.waiting = [] → q.maySend f.cls.toNat = true → frameOk f = true → f.kind = 0 → 6 ≤ f.dest.toNat → Answers (.viaductFrame page b f) s (fun t =>
      (t.link page b).delivered = l.delivered ∧ (t.link page b).credits = l.credits ∧ t.mem = s.mem ∧
      t.reg (viaPages.getD page 0 + 0x130) = BitVec.ofNat 32 (min 0xFFFFFFFF ((s.reg (viaPages.getD page 0 + 0x130)).toNat + 1)))) ∧
    (q.waiting = [] → q.maySend f.cls.toNat = false → frameOk f = true → f.kind = 0 → Answers (.viaductFrame page b f) s (fun t =>
      (t.link far b).waiting = [f] ∧ (t.link far b).credits = q.credits ∧ (t.link page b).delivered = l.delivered ∧
      (t.link page b).expect = l.expect ∧ t.mem = s.mem)) ∧
    (frameOk f = false → (f.kind ≠ 0 ∨ (q.waiting = [] ∧ q.maySend f.cls.toNat = true)) → Answers (.viaductFrame page b f) s (fun t =>
      (t.link page b).delivered = l.delivered ∧ (t.link page b).expect = l.expect ∧ (t.link page b).discarding = true ∧
      (t.link page b).asked = some l.expect ∧ (t.link page b).retries = l.retries + 1 ∧ t.mem = s.mem))) ∧
    (∀ seq, q.asked = some seq → frameOk f = true → f.kind = 1 → f.dest.toNat < 6 → (∀ g ∈ l.replay, g.flit.length = 64) → Answers (.viaductFrame page b f) s (fun t =>
      (t.link far b).asked = none)) ∧
    (∀ seq, l.replay.dropWhile (fun x => x.seq ≠ seq) = [f] → f.flit.length = 64 → f.kind = 0 → f.dest.toNat < 6 → f.seq = q.expect →
      Answers (.retry page b seq) s (fun t => (t.link far b).delivered.map (·.flit) = q.delivered.map (·.flit) ++ [f.flit] ∧
        (t.link far b).expect = q.expect + 1 ∧ (t.link far b).asked = none)) ∧
    Answers (.viaStorm page b) s (fun t => (t.link page b).retries = 0 ∧ (t.link page b).delivered = l.delivered ∧ t.mem = s.mem ∧
      (t.link page b).thresh = s.fld (viaPages.getD page 0 + 0x104) 15 0 ∧
      (l.retries ≤ l.thresh → t.regs = s.regs ∧ t.safety = s.safety) ∧
      (l.thresh < l.retries → stuck t (viaPages.getD page 0) 0x4503 ∧ (s.safety.phase = .none → t.safety.phase = .quench)))

/-- R45–R49, R51, R53: a request without the GUARD key is refused 0x14; a depot request needs PARKED and both islands' PARK_OK, and starts the handover to depot at step 1; a drive request in depot service starts the one to drive, and one during steps 1–2 of a handover to depot cancels it. R47, R48: PARKED and three equal samples of PARK_OK set the parked condition, and depot service freezes dispatch while it does not hold. -/
def Obligations.ServiceRequestsNeedTheParkedCondition : Prop :=
  Sys2Proof.Claims.ServiceRequestsStartOrAreRefused ∧ Sys2Proof.Claims.ParkedConditionFollowsSamples

/-- R434, R438: PORST_N low leaves reset state but for the fuses and the flash; its release samples the straps and starts step 1 of a cold start, unless a diode reads 105 °C by CAL_FACT alone (R469); a warm reset holds the logic with both safe pins asserted, and its release starts step 1 with DRAM kept and every store zero. R435, R436, R395, R398–R400: start-up's steps follow one another; a scrapped device, a start without a good first stage and one with a component that fails its signature stop; drive service is ready after step 8; a start that takes more than 1,000 ms is late and stops. -/
def Obligations.ResetsRunTheStartUpSequence : Prop :=
  Sys2Proof.Claims.ResetsBeginStartUp ∧ Sys2Proof.Claims.StartUpRunsItsSteps

/-! ### Dispatch, ticks and the timetable -/

namespace Sys2Proof.Claims

open Sys2Proof Sys2Proof.Machine

/-- A register counts up by 1, and saturates. -/
def counted (s t : State) (a : Nat) : Prop := t.reg a = BitVec.ofNat 32 (min 0xFFFFFFFF ((s.reg a).toNat + 1))

/-- TICK_STAT. -/
def tickStat : Nat := pgTick + 0x104

/-- Dispatch neither places nor searches: it is frozen or stopped. -/
def placesNothing (s : State) : Bool := s.disp.frozen || s.disp.stopped

end Sys2Proof.Claims

open Sys2Proof.Claims

/-- R234–R238: with no task or lost work waiting, a search places the held waybill of class 0 on free units with its berths, takes it from its ring and counts
it in flight; a frozen dispatcher places nothing. -/
def Sys2Proof.Claims.PlacementTakesTheHeldWaybill : Prop :=
  ∀ (s : State), s.live = true →
    (s.dispatches = false → Answers .placement s (fun t => t = s)) ∧
    (∀ r us s1, s.dispatches = true → s.disp.tt = none → s.disp.ahead = [] → (s.cursor 0).held = some r → (s.ring r).fill ≠ 0 →
      let wb := s.headWaybill r
      let p := s.newPlacement wb (s.ring r).head.toNat none us (s.service ≠ 2) (s.servingStep wb)
      s.headHeld r = false → s.headMarked r = false → s.headPurge wb = none → s.servingStep wb = false → s.unitsFor wb = some us → State.takeBerths s s.disp.nextWid wb p.tiles = some s1 →
      Answers .placement s (fun t =>
        (t.ring r).head = (s.ring r).head + 1 ∧ (t.ring r).inflight = (s.ring r).inflight + 1 ∧ (t.cursor 0).held = none ∧
        t.disp.nextWid = s.disp.nextWid + 1 ∧ t.mem = s.mem ∧
        (∃ q ∈ t.disp.placements, q.wid = s.disp.nextWid ∧ q.wb = wb ∧ q.units = us ∧ q.index = (s.ring r).head.toNat ∧ q.started = false) ∧
        ∀ u ∈ p.tiles, (t.tile u).wid = some s.disp.nextWid ∧ (t.tile u).stopped = true))

/-- R81, R239: a waybill whose start has come runs on every tile of its placement from bundle 0, with a0, a1, s0, s29, s30, s31, RNG and BUDGET as R239 gives them
and every other scalar 0. -/
def Sys2Proof.Claims.WaybillStartSetsItsTiles : Prop :=
  ∀ (s : State) (wid tm : Nat) (p : Placement), s.live = true → s.placed wid = some p → p.readyAt = some tm → p.started = false → p.ended = false →
    p.aborting = false → s.disp.stopped = false → tm ≤ s.now → p.tiles.Nodup →
    Answers (.waybillStart wid) s (fun t => (t.placed wid).map (·.started) = some true ∧ t.mem = s.mem ∧
      (∀ v, v ∉ p.tiles → t.tile v = s.tile v) ∧
      ∀ k u v, p.units[k]? = some u → v ∈ (if p.pairs then [2 * u, 2 * u + 1] else [u]) →
        let T := t.tile v
        T.pc = 0 ∧ T.stopped = false ∧ T.st = 0 ∧ T.loops = [] ∧ T.moves = [] ∧ T.budget = p.wb.budget ∧ T.rng = (if p.wb.seed = 0 then 1 else p.wb.seed) ∧
        T.a 0 = p.wb.arg0 % 2 ^ 40 ∧ T.a 1 = p.wb.arg1 % 2 ^ 40 ∧ T.s 0 = p.wb.arg2.toNat ∧ T.s 29 = p.wb.tiles % 2 ^ 32 ∧ T.s 30 = k % 2 ^ 32 ∧
        T.s 31 = (if p.pairs then 2 * u else u) % 2 ^ 32 ∧ (∀ n, 1 ≤ n → n ≤ 28 → T.s n = 0) ∧ t.fld (pgTile v + 0x100) 2 0 = 2)

/-- R247, R248, R251: a drive tick starts its frame, 1 µs later for a FRAME_SYNC tick, FRAME_OUT high for 1 µs and every entry unreleased; a slot's start releases the entries of that slot. -/
def Sys2Proof.Claims.FramesReleaseTheirEntries : Prop :=
  ∀ (s : State), s.live = true → s.driveRuns = true →
    (∀ tk, s.disp.lastTick = some tk → s.disp.tickOwed = true → s.disp.lastFrame = false → tk + s.disp.tickDelay ≤ s.now → Answers .tick s (fun t =>
      t.disp.inFrame = true ∧ t.disp.frameStart = tk + s.disp.tickDelay ∧ t.disp.tickOwed = false ∧ t.pins.frameOut = tk + s.disp.tickDelay + 1000 ∧
      t.reg (pgTick + 0x108) = s.reg (pgTick + 0x108) + 1 ∧ t.mem = s.mem ∧ t.tiles = s.tiles ∧
      ∀ tt i, s.disp.tt = some tt → i < tt.entries.length → (t.entryRun i).phase = .idle)) ∧
    (∀ tt, s.disp.tt = some tt → s.disp.inFrame = true → s.disp.frameStart ≤ s.now → placesNothing s = true → Answers .slotStart s (fun t =>
      t.mem = s.mem ∧ t.tiles = s.tiles ∧ t.regs = s.regs ∧
      ∀ i e, tt.entries[i]? = some e → (t.entryRun i).phase =
        if e.proof = false ∧ e.release = s.slotNow ∧ (s.entryRun i).phase = .idle then .released else (s.entryRun i).phase))

/-- R241, R249: an unplaced sheddable entry is shed at its latest start; a safety-rank entry whose pool has too few pairs in service has failed, and one that
waits for pairs aborts the first work in the order of R249; an aborted waybill's last pair completes it SHED. -/
def Sys2Proof.Claims.ShedAndAbortedWorkEnds : Prop :=
  ∀ (s : State), s.live = true →
    (∀ i e, s.entryAt i = some e → (s.entryRun i).phase = .released → s.latestStart e ≤ s.now → e.rank ≠ 0xFF → Answers (.latestStart i) s (fun t =>
      (t.entryRun i).phase = .shed ∧ counted s t (pgTick + 0x12C) ∧ t.mem = s.mem ∧ t.tiles = s.tiles)) ∧
    (∀ i e tt, s.disp.tt = some tt → s.entryAt i = some e → (s.entryRun i).phase = .released → s.latestStart e ≤ s.now + 30000 → e.rank = 0xFF → e.proof = false →
      let pool := s.poolServes tt e
      (pool.length < e.pairs → Answers (.safetyRankEvaluation i) s (fun t => (t.entryRun i).phase = .shed ∧
        t.reg (pgTick + 0x130) = BitVec.ofNat 32 (i % 4096 + 2 ^ 31) ∧ stuck t pgDispatch 0x5A04)) ∧
      (e.pairs ≤ pool.length → ((s.placeEntry i).entryRun i).phase = .released →
        (pool.filter (fun p => s.pairFree p true)).length + (((s.disp.placements.filter (fun p => p.aborting && !p.ended && (p.status = csShed || p.entry.isSome))).flatMap (·.units)).filter
          pool.contains).length < e.pairs →
        ∀ p ps, s.abortOrder tt pool = p :: ps → s.placed p.wid = some p → Answers (.safetyRankEvaluation i) s (fun t =>
          ((t.placed p.wid).map (·.aborting)) = some true ∧ t.mem = s.mem ∧ ∀ v ∈ p.tiles, (t.tile v).stopped = true))) ∧
    (∀ pair p, s.disp.placements.find? (fun p => p.aborting && !p.ended && p.status = csShed && p.units.contains pair) = some p → p.units = [pair] →
      p.entry = none → p.pinned = [] → placesNothing s = true → Answers (.abortComplete pair) s (fun t =>
        (t.tile (2 * pair)).wid = none ∧ (t.tile (2 * pair + 1)).wid = none ∧ t.mem = s.mem ∧
        ∃ c, t.disp.completions = s.disp.completions ++ [c] ∧ c.status = csShed ∧ c.tag = p.wb.tag ∧ c.wid = some p.wid))

/-- R250: the proving run takes every pair of its entry's pool in service; a pair ends it with its digest compared, and a difference or an end past the slot in which the
run began is a pair compare mismatch. -/
def Obligations.ProvingRunsCompareEveryPair : Prop :=
  ∀ (s : State) (tt : Timetable) (i : Nat), s.live = true → s.disp.tt = some tt →
    (List.range tt.entries.length).find? (fun j => ((tt.entries[j]?).map (·.proof)).getD false) = some i →
    (s.disp.inFrame = true → s.driveRuns = true → s.disp.stopped = false → s.slotNow = tt.proofSlot → s.disp.proving = [] → (s.entryRun i).phase = .idle →
      (∀ p ∈ s.disp.placements, p.ended = true) → Answers .provingRun s (fun t => (t.entryRun i).phase = .running ∧ t.regs = s.regs ∧ t.tiles = s.tiles ∧
        t.disp.proving = (List.range 32).filter (fun p =>
          bitAt (((tt.entries[i]?).map (fun e => (tt.pools.getD e.pool 0).toNat)).getD 0) p && s.pairServes p) ∧
        t.disp.provingBy = s.disp.frameStart + 50000 * (tt.proofSlot + 1))) ∧
    (∀ pair, s.disp.proving.contains pair = true →
      let good := fun (output : List Byte) => sha512 output = tt.digest ∧ s.now ≤ s.disp.provingBy
      (∀ output, good output → Answers (.provingRunEnd pair output) s (fun t =>
        t.disp.proving = s.disp.proving.filter (· ≠ pair) ∧ t.regs = s.regs ∧ t.safety = s.safety ∧
        (t.disp.proving = [] → s.disp.provingBy = s.disp.frameStart + 50000 * (tt.proofSlot + 1) → (t.entryRun i).phase = .ended))) ∧
      (∀ output, ¬ good output → s.safety.phase = .none → Answers (.provingRunEnd pair output) s (fun t => t.disp.proving = s.disp.proving.filter (· ≠ pair) ∧
        stuck t (pgTile (2 * pair + 1)) 0x2602 ∧ t.safety.phase = .quench ∧ t.safety.suspects = [.unit (.pair pair)])))

/-- R252, R253: FRAME_SYNC pulses shorter than 200 ns or early are counted and ignored, others of at most 100 µs are ticks; high beyond 100 µs, and the third missing tick in a row,
change to the internal timebase; 8 good pulses in a row change back at an internal tick. -/
def Sys2Proof.Claims.TickSourcesFallBackAndReturn : Prop :=
  ∀ (s : State), s.live = true →
    let p := s.framePeriod
    let ticked := fun (t : State) (at_ : Nat) => t.disp.lastTick = some at_ ∧ t.disp.tickOwed = (s.driveRuns && !s.disp.lastFrame) ∧
      t.reg (pgTick + 0x10C) = BitVec.ofNat 32 at_ ∧ t.reg (pgTick + 0x110) = BitVec.ofNat 32 (at_ / 2 ^ 32)
    (s.watchesSync = true → s.tickSource = 0 →
      (∀ high, high < 200 → Answers (.frameSyncEdge high) s (fun t => counted s t (pgTick + 0x11C) ∧ t.disp = s.disp ∧ RegsBut s t [pgTick + 0x11C])) ∧
      (∀ high, 200 ≤ high → high ≤ 100000 → (∀ tk, s.disp.lastTick = some tk → 2 * tk + p ≤ 2 * s.now ∧ 2 * s.now < 2 * tk + 3 * p) →
        Answers (.frameSyncEdge high) s (fun t => ticked t s.now ∧ t.disp.tickDelay = 1000 ∧ t.fld tickStat 9 8 = 0)) ∧
      (∀ high tk, 200 ≤ high → high ≤ 100000 → s.disp.lastTick = some tk → 2 * s.now < 2 * tk + p →
        Answers (.frameSyncEdge high) s (fun t => counted s t (pgTick + 0x114) ∧ t.disp = s.disp)) ∧
      Answers .frameSyncStuck s (fun t => t.tickSource = 1 ∧ t.fld tickStat 3 3 = 1 ∧ t.fld tickStat 2 2 = 1 ∧ stuck t pgTick 0x5903) ∧
      (∀ tk, s.disp.lastTick = some tk → tk + 3 * p / 2 ≤ s.now → Answers .missingTick s (fun t =>
        ticked t (tk + 3 * p / 2) ∧ counted s t (pgTick + 0x118) ∧ t.fld tickStat 9 8 = min 3 (s.fld tickStat 9 8 + 1) ∧
        t.tickSource = if 2 ≤ s.fld tickStat 9 8 then 1 else 0))) ∧
    (∀ tk, s.tickSource = 1 → s.disp.tt.isSome = true → s.disp.lastTick = some tk → tk + p ≤ s.now → Answers .internalTick s (fun t =>
      ticked t (tk + p) ∧ t.disp.tickDelay = 0 ∧ t.tickSource = if s.fld tickStat 3 3 = 1 ∧ s.fld tickStat 7 4 = 8 then 0 else 1))

/-- R255, R257: a depot tick advances LEDGER_EPOCH; a written placement order replaces the running one only where it names every tile or pair. -/
def Sys2Proof.Claims.DepotTicksAndPlacementOrders : Prop :=
  ∀ (s : State) (who : Writer), s.live = true →
    (2 ≤ s.tickSource → s.depotTickDue = true → Answers .depotTick s (fun t => t.disp.lastTick = some s.now ∧
      t.fld (pgLedger + 0x118) 9 0 = (s.fld (pgLedger + 0x118) 9 0 + 1) % 1024 ∧ t.disp.nextDepotTick = s.now + s.fld (pgTick + 0x100) 8 0 * 1000000 ∧
      t.tickSource = (if s.fld (pgTick + 0x100) 9 9 = 1 ∧ s.isMember = true then 3 else 2) ∧ t.mem = s.mem ∧ t.tiles = s.tiles)) ∧
    (mayWrite s who (pgDispatch + 0x104) = true →
      let l := s.orderEntries (pgDispatch + 0x110) 16 6
      let m := s.orderEntries (pgDispatch + 0x150) 8 5
      Answers (.poLoad who) s (fun t => t.disp = { s.disp with order := if (List.range 64).all l.contains then l else s.disp.order }) ∧
      Answers (.ppLoad who) s (fun t => t.disp = { s.disp with pairOrder := if (List.range 32).all m.contains then m else s.disp.pairOrder }))

/-- R234–R238: with no task or lost work waiting, a search places the held waybill of class 0 on free units with its berths, takes it from its ring and counts it in flight; a frozen dispatcher places nothing. R81, R239: a waybill whose start has come runs on every tile of its placement from bundle 0, with a0, a1, s0, s29, s30, s31, RNG and BUDGET as R239 gives them and every other scalar 0. -/
def Obligations.PlacedWaybillsTakeAndStartTheirTiles : Prop :=
  Sys2Proof.Claims.PlacementTakesTheHeldWaybill ∧ Sys2Proof.Claims.WaybillStartSetsItsTiles

/-- R247, R248, R251: a drive tick starts its frame, 1 µs later for a FRAME_SYNC tick, FRAME_OUT high for 1 µs and every entry unreleased; a slot's start releases the entries of that slot. R241, R249: an unplaced sheddable entry is shed at its latest start; a safety-rank entry whose pool has too few pairs in service has failed, and one that waits for pairs aborts the first work in the order of R249; an aborted waybill's last pair completes it SHED. -/
def Obligations.FramesReleaseAndShedTheirEntries : Prop :=
  Sys2Proof.Claims.FramesReleaseTheirEntries ∧ Sys2Proof.Claims.ShedAndAbortedWorkEnds

/-- R252, R253: FRAME_SYNC pulses shorter than 200 ns or early are counted and ignored, others of at most 100 µs are ticks; high beyond 100 µs, and the third missing tick in a row, change to the internal timebase; 8 good pulses in a row change back at an internal tick. R255, R257: a depot tick advances LEDGER_EPOCH; a written placement order replaces the running one only where it names every tile or pair. -/
def Obligations.TicksFollowTheirSourceAndService : Prop :=
  Sys2Proof.Claims.TickSourcesFallBackAndReturn ∧ Sys2Proof.Claims.DepotTicksAndPlacementOrders

/-! ### Rings, sequences and pages -/

namespace Sys2Proof.Claims

open Sys2Proof Sys2Proof.Machine

/-- The status word of R355 for a doorbell. -/
def statusWord (ring seq : Word) (status accepted : Nat) : List Byte :=
  natLE 4 seq.toNat ++ natLE 4 ring.toNat ++ natLE 2 status ++ natLE 2 accepted ++ natLE 4 0

/-- A doorbell's status word is written and SUBMIT raised. -/
def bellAnswered (t : State) (p slot : Nat) (ring seq : Word) (status accepted : Nat) : Prop :=
  t.bytes (State.statusAddr p slot) 16 = statusWord ring seq status accepted ∧ t.fld (pgPlat p + 0x108) 2 2 = 1

/-- A control ring's head is the entry `e`, which asks for operation `op`, can be read, and is the next one to serve. -/
def controlHead (s : State) (r op : Nat) (e : CtlEntry) : Prop :=
  s.live = true ∧ s.nextControl = some r ∧ e = CtlEntry.of (s.ringEntry r (s.ring r).head.toNat) ∧
  s.devHeld ((s.ring r).entryAddr (s.ring r).head.toNat) 64 = false ∧ s.devMarked ((s.ring r).entryAddr (s.ring r).head.toNat) 64 = false ∧ e.op = op ∧ State.controlListed r op = true

/-- The head of a control ring was taken and completed with a status and value. -/
def controlDone (s t : State) (r : Nat) (e : CtlEntry) (status value : Nat) : Prop :=
  (t.ring r).head = (s.ring r).head + 1 ∧ t.disp.completions = s.disp.completions ++
    [{ cring := e.cring, ring := r, index := (s.ring r).head.toNat, status := status, code := 0, tag := e.tag, stlo := 0, value := value, wid := none }]

end Sys2Proof.Claims

open Sys2Proof.Claims

/-- R225, R232, R353–R356, R407: a doorbell alone on its ring is answered BAD_FIELD, CRC, DUP, SEQ or SEAL_FAIL, or (the step records its
checks read being whole, and no stack halted that it needs) queues an entry that passes the checks of R227 at TAIL and
sets the ring's bit; bytes whose CRC differs are read again, 8 times at most; a completion ring's doorbell advances HEAD. -/
def Sys2Proof.Claims.DoorbellsQueueEntriesOrAnswer : Prop :=
  ∀ (s : State) (p slot : Nat) (ring : Word) (count rsv : BitVec 16) (seq crc : Word), s.live = true → MemInv s →
    let r := ring.toNat
    let R := s.ring r
    let b : Bell := { slot := slot, ring := ring, count := count.toNat, rsv := rsv.toNat, seq := seq, crc := crc, reads := 0, waiting := false, order := 0 }
    let bell : Instr := .doorbell p slot ring count rsv seq crc
    let cbell : Instr := .completionRingDoorbell p slot ring count rsv seq crc
    let s1 := s.setRing r { R with dbseq := seq }
    let unsealed := s.depotOpen && s.bellSealed b && !s.sealOpens b (s.bellBytes p b)
    let readable := !s.bellHeld b (s.bellBytes p b) && (s.bellSteps b (s.bellBytes p b)).all (fun wb => !s.devMarked wb.arg0 State.recordBytes)
    (p < 2 → s.portUp p = true → s.allBells = [] →
      (s.bellBad b = true → Answers bell s (fun t => bellAnswered t p slot ring seq csBadField 0 ∧ t.disp = s.disp)) ∧
      (s.bellBad b = false → R.kind = 0 →
        (crc32c (s.bellBytes p b) ≠ crc.toNat → Answers bell s (fun t => t.mem = s.mem ∧ t.disp = s.disp ∧ (t.port p).bells.map (·.reads) = [0])) ∧
        (crc32c (s.bellBytes p b) = crc.toNat → readable = true →
          (seq = R.dbseq → Answers bell s (fun t => bellAnswered t p slot ring seq State.csDoorbellDup 0 ∧ t.disp = s.disp)) ∧
          (seq ≠ R.dbseq → seq ≠ R.dbseq + 1 → Answers bell s (fun t => bellAnswered t p slot ring seq State.csDoorbellSeq 0 ∧ t.disp = s.disp)) ∧
          (seq = R.dbseq + 1 → unsealed = true → Answers bell s (fun t => bellAnswered t p slot ring seq State.csSealFail 0 ∧ t.disp = s.disp)) ∧
          (seq = R.dbseq + 1 → unsealed = false → count = 1 →
            let e := (s.bellBytes p b).take 64
            (∀ st, s1.waybillCheck r e = some st → Answers bell s (fun t => bellAnswered t p slot ring seq st 0 ∧ t.disp = s1.disp)) ∧
            (s1.waybillCheck r e = none → Answers bell s (fun t => bellAnswered t p slot ring seq csOk 1 ∧ t.bellBit r = true ∧
              t.ring r = { R with dbseq := seq, tail := R.tail + 1 } ∧ t.tiles = s.tiles))))) ∧
      (r < 2 ^ 21 → rsv = 0 → count ≠ 0 → R.kind = 1 → crc = 0 → seq = R.dbseq + 1 → Answers cbell s (fun t =>
        if R.fill < count.toNat then bellAnswered t p slot ring seq csBadField 0 ∧ (t.ring r).head = R.head
        else bellAnswered t p slot ring seq csOk 0 ∧ (t.ring r).head = R.head + BitVec.ofNat 32 count.toNat))) ∧
    (s.allBells = [(p, b)] → p < 2 → ∀ n, n < 8 →
      let s' := s.updPort p (fun P => { P with bells := [{ b with reads := n }] })
      crc32c (s.bellBytes p b) ≠ crc.toNat → Answers (.doorbellReread p slot) s' (fun t =>
        if n = 7 then bellAnswered t p slot ring seq State.csDoorbellCrc 0 ∧ (t.port p).bells = []
        else (t.port p).bells.map (·.reads) = [n + 1] ∧ t.mem = s.mem ∧ t.disp = s.disp))

/-- R228, R307: a waiting completion whose ring has room is written at TAIL with its phase bit and station time and leaves the list; a full ring's is not. Bytes
in the drive reserve go to both copies. -/
def Sys2Proof.Claims.CompletionRecordsFollowTheirRing : Prop :=
  ∀ (s : State) (idx : Nat) (c : Completion), s.live = true → MemInv s → s.disp.completions[idx]? = some c → s.completionFirst idx = true →
    let R := s.ring c.cring
    let a := R.entryAddr R.tail.toNat
    let keys := (List.range 32).map (fun k => s.devKey (a + k))
    (R.fill = R.size → Answers (.completionRecord idx) s (fun t => t.disp = s.disp ∧ t.mem = s.mem)) ∧
    (R.fill ≠ R.size → s.devMarked a 32 = false → (keys ++ keys.filterMap s.twinKey).Nodup → Answers (.completionRecord idx) s (fun t =>
      (t.ring c.cring).tail = R.tail + 1 ∧ t.disp.completions = s.disp.completions.eraseIdx idx ∧ t.devBytes a 32 = s.recordOf c ∧
      ∀ b, b ∉ keys → b ∉ keys.filterMap s.twinKey → memByte t.mem b = memByte s.mem b))

/-- R203, R204, R208, R215: OPEN takes the lowest free tag and region and unmaps its entries; APPEND_TOKENS, SET_EVICTABLE and CLOSE change their field of the
tenant's own descriptor; each completes with its status, and a refusal changes no descriptor. -/
def Sys2Proof.Claims.SequenceRequestsChangeTheirDescriptor : Prop :=
  ∀ (s : State) (r : Nat) (e : CtlEntry),
    let s1 := s.takeControl r
    let q := s.seq e.seqTag
    let only := fun (t : State) (n : Nat) => ∀ m, m ≠ n → t.seq m = s.seq m
    let own := s.seqForeign (ringTenant r) e.seqTag = false
    (controlHead s r 1 e → s1.openBad { e with tenant := ringTenant r } = false → (e.evictable = true ∨
        s1.overReserve (ringTenant r) (2 * e.layers * e.lmax * e.tpKib / 32) = false) →
      let pages := 2 * e.layers * e.lmax * e.tpKib / 32
      (∀ n base, s1.freeTag = some n → s1.freeRun pages = some base → Answers (.openSeq r) s (fun t =>
        controlDone s t r e csOk (n + (ledgerBase + base * pageBytes) * 2 ^ 16) ∧ only t n ∧
        (t.seq n).state = .opened ∧ (t.seq n).tenant = ringTenant r ∧ (t.seq n).region = base ∧ (t.seq n).pages = pages ∧ (t.seq n).lmax = e.lmax ∧
        (t.seq n).tokens = 0 ∧ (t.seq n).kvLen = 0 ∧ (t.seq n).toklog = e.param ∧
        ∀ p, base ≤ p → p < base + pages → t.entry p = { LedgerEntry.unmapped with tenant := ringTenant r, seqTag := n })) ∧
      (s1.freeTag = none → Answers (.openSeq r) s (fun t => controlDone s t r e csSeqFull 0 ∧ t.ledger = s.ledger))) ∧
    (controlHead s r 2 e →
      (own → q.pinned = false → q.tokens + e.lmax ≤ q.lmax → Answers (.appendTokens r) s (fun t =>
        controlDone s t r e csOk 0 ∧ only t e.seqTag ∧ t.seq e.seqTag = { q with tokens := q.tokens + e.lmax })) ∧
      (own → q.pinned = false → q.lmax < q.tokens + e.lmax → Answers (.appendTokens r) s (fun t => controlDone s t r e csFull 0 ∧ t.ledger = s.ledger)) ∧
      (¬ own → Answers (.appendTokens r) s (fun t => controlDone s t r e csNotOwner 0 ∧ t.ledger = s.ledger))) ∧
    (controlHead s r 3 e → own → (q.evictable = false ∨ e.lmax % 2 = 1) → Answers (.setEvictable r) s (fun t =>
      controlDone s t r e csOk 0 ∧ only t e.seqTag ∧ t.seq e.seqTag = { q with evictable := decide (e.lmax % 2 = 1) })) ∧
    (controlHead s r 4 e → own → Answers (.closeSeq r) s (fun t => controlDone s t r e csOk 0 ∧ only t e.seqTag ∧
      (t.seq e.seqTag).state = if q.pinned then .closing else .free))

/-- R202, R206, R210: below LOW the drop engine takes the oldest candidate's tail span; a page given up joins the free pool once no move that translated
it is left. -/
def Sys2Proof.Claims.DropsAndReleasesFreePages : Prop :=
  ∀ (s : State), s.live = true →
    (∀ n, s.ledger.dropTarget = 0 → s.freePages < s.lowMark → s.freePages + s.ledger.pending.length < s.highMark → s.oldestCandidate = some n →
      Answers .dropSpan s (fun t => (t.seq n).mappedSpans = (s.seq n).mappedSpans - 1 ∧
        (t.seq n).kvLen = min (s.seq n).kvLen (32 * ((s.seq n).mappedSpans - 1)) ∧ t.ledger.dropTarget = s.highMark ∧
        (∀ m, m ≠ n → t.seq m = s.seq m) ∧ t.mem = s.mem ∧ t.tiles = s.tiles ∧ t.ledger.pool = s.ledger.pool)) ∧
    (s.ledger.dropTarget = 0 → s.lowMark ≤ s.freePages → Answers .dropSpan s (fun t => t = s)) ∧
    (∀ idx p, s.ledger.pending[idx]? = some p → s.disp.placements.any (·.waiting) = false →
      (s.translationHeld p = true → Answers (.pageRelease idx) s (fun t => t = s)) ∧
      (s.translationHeld p = false → Answers (.pageRelease idx) s (fun t => t.ledger.pending = s.ledger.pending.eraseIdx idx ∧
        poolHas t.ledger.pool p.ppn = true ∧ t.mem = s.mem ∧ t.tiles = s.tiles)))

/-- R203, R204, R208, R215: OPEN takes the lowest free tag and region and unmaps its entries; APPEND_TOKENS, SET_EVICTABLE and CLOSE change their field of the tenant's own descriptor; each completes with its status, and a refusal changes no descriptor. R202, R206, R210: below LOW the drop engine takes the oldest candidate's tail span; a page given up joins the free pool once no move that translated it is left. -/
def Obligations.SequencesChangeAndGiveUpPages : Prop :=
  Sys2Proof.Claims.SequenceRequestsChangeTheirDescriptor ∧ Sys2Proof.Claims.DropsAndReleasesFreePages

/-- R225, R232, R353–R356, R407: a doorbell alone on its ring is answered BAD_FIELD, CRC, DUP, SEQ or SEAL_FAIL, or (the step records its checks read being whole, and no stack halted that it needs) queues an entry that passes the checks of R227 at TAIL and sets the ring's bit; bytes whose CRC differs are read again, 8 times at most; a completion ring's doorbell advances HEAD. R228, R307: a waiting completion whose ring has room is written at TAIL with its phase bit and station time and leaves the list; a full ring's is not. Bytes in the drive reserve go to both copies. -/
def Obligations.DoorbellsAndCompletionsFollowTheirRings : Prop :=
  Sys2Proof.Claims.DoorbellsQueueEntriesOrAnswer ∧ Sys2Proof.Claims.CompletionRecordsFollowTheirRing

/-! ### Sessions, handles, Manifests and key rotation -/

/-- R403–R406, R411, R419: SESSION_OPEN makes a session with its ECDH key pair, the keys derived from the shared secret, memory-key generation 0 and its tenant table entry, or is refused SESSION_BAD; SESSION_CLOSE marks
it closing, and once its work and pages are given up its pages are zeros, its session gone and its WEIGHT 0; MANIFEST signs under the next number. -/
def Sys2Proof.Claims.SessionsOpenCloseAndAttest : Prop :=
  ∀ (s : State) (r : Nat) (e : CtlEntry),
    let s1 := s.takeControl r
    let bs := s1.bytes e.param 0xE0
    let tn := bytesNat bs 0 2
    let ct := s1.nat e.param 2
    (∀ prov : Provision, controlHead s r 5 e → (State.runPages prov.pages).any s.pageHeld = false → s1.depotOpen = true → State.paramOk e.param = true →
      (s1.openSessionBad e.param = true → Answers (.sessionOpen r prov) s (fun t => controlDone s t r e csSessionBad 0 ∧ t.sec = s.sec)) ∧
      (s1.openSessionBad e.param = false → Answers (.sessionOpen r prov) s (fun t => controlDone s t r e csOk 0 ∧
        (∃ x, t.session tn = some x ∧ x.reserve = bytesNat bs 4 4 % 2 ^ 23 ∧ x.quota = bytesNat bs 8 4 % 2 ^ 23 ∧ x.genKeys = (true, false) ∧ x.cur = false ∧ x.nextSerial = 0 ∧
          x.closing = false ∧ x.clientKey = (bs.drop 0x10).take 133 ∧ x.pubKey = ecPublic x.privKey ∧
          x.keys = State.sessionKeys x.clientKey x.pubKey ((bs.drop 0xA0).take 64) x.privKey tn) ∧
        smGet t.disp.tenants (0, 0, 0) tn = (bytesNat bs 2 1, bytesNat bs 3 1, bytesNat bs 4 4 % 2 ^ 23) ∧ t.sec.manifests = s.sec.manifests + 1))) ∧
    (controlHead s r 6 e → State.paramOk e.param = true → (ringTenant r = 0 ∨ ringTenant r = ct) → s1.depotOpen = true →
      (s1.sessionOpen ct = false → Answers (.sessionClose r) s (fun t => controlDone s t r e csNoSession 0 ∧ t.sec = s.sec)) ∧
      (s1.sessionOpen ct = true → Answers (.sessionClose r) s (fun t => ((t.session ct).map (·.closing)) = some true ∧
        ∃ d, t.sec.closing = s.sec.closing ++ [d] ∧ d.tenant = ct ∧ d.ring = r ∧ d.tag = e.tag))) ∧
    (controlHead s r 9 e → MemInv s → State.paramOk e.param = true → (ringTenant r = 0 ∨ ringTenant r = ct) → (ct = 0 ∨ (s1.depotOpen = true ∧ (s1.session ct).isSome = true)) →
      Answers (.manifest r) s (fun t => controlDone s t r e csOk 0 ∧ t.nat (e.param + 0x100) 4 = csOk ∧
        t.sec.manifests = if ct = 0 ∧ (s1.bytes (e.param + 0x40) 64).all (fun b => b = 0) = true ∧ s.sec.serviceManifest ≠ [] then s.sec.manifests
          else s.sec.manifests + 1))

/-- R419: step 3 of a session's close writes its pages with zeros, and step 4 removes its session and keys and sets WEIGHT 0; the close then completes. -/
def Sys2Proof.Claims.ClosedSessionsLeaveNothing : Prop :=
  ∀ (s : State) (tn : Nat) (d : Deferred), s.live = true → s.sec.closing.find? (fun d => d.tenant = tn) = some d → s.tenantBusy tn = false → (s.pagesOf tn).any s.pageHeld = false →
    smSorted s.sec.sessions = true → smSorted s.dram.keyTable = true →
    Answers (.sessionCloseZeroed tn) s (fun t => t.session tn = none ∧ smFind t.dram.keyTable (2 * tn) = none ∧ smFind t.dram.keyTable (2 * tn + 1) = none ∧ (smGet t.disp.tenants (0, 0, 0) tn).1 = 0 ∧
      (∀ h ∈ t.sec.handles, h.handle / 2 ^ 20 ≠ tn) ∧ (∀ x ∈ t.sec.closing, x.tenant ≠ tn) ∧
      (∀ p ∈ s.pagesOf tn, p < 2 ^ 22 → ∀ k, k < 0x8000 → memByte t.mem (p * 0x8000 + k) = 0) ∧
      ∃ c, t.disp.completions = s.disp.completions ++ [c] ∧ c.status = csOk ∧ c.tag = d.tag ∧ c.ring = d.ring)

/-- R409, R410: a REGISTER part that follows on and whose records open lands in DRAM, and the last one gives the object its handle with the digest of its bytes;
one whose records do not open is refused and its import discarded. -/
def Sys2Proof.Claims.RegisteredObjectsGetHandles : Prop :=
  ∀ (s : State) (r : Nat) (e : CtlEntry) (serving : Bool) (x : Session), controlHead s r 7 e → MemInv s →
    let s1 := s.takeControl r
    let tn := ringTenant r
    let p := s1.importPart e.param tn
    let z := s1.recordsOpen tn p.src p.len
    s1.session tn = some x → s1.depotOpen = true → State.paramOk e.param = true → (p.bad = true ∨ s1.devHeld p.dest p.len = false) →
    ((p.bad = true ∨ s1.partFollows tn p = false) → Answers (.register r serving) s (fun t =>
      controlDone s t r e csFormat 0 ∧ t.importOf tn = none ∧ t.sec.handles = s.sec.handles)) ∧
    (p.bad = false → s1.partFollows tn p = true → z.2 = false → Answers (.register r serving) s (fun t =>
      controlDone s t r e csNotOwner 0 ∧ t.importOf tn = none ∧ t.sec.handles = s.sec.handles ∧ counted s t (pgSec + 0x148))) ∧
    (p.bad = false → s1.partFollows tn p = true → z.2 = true → s.anyMarked ((List.range p.len).map (p.dest + ·)) = false → (∀ k, k < p.len → s.twinKey (p.dest + k) = none) →
      let landed := fun (t : State) => ∀ k, k < p.len → memByte t.mem (p.dest + k) = z.1.getD k 0
      let m := (s1.importOf tn).getD { tenant := tn, kind := p.kind, dest := p.dest, next := p.dest, data := [], serving := serving && p.kind = 0 }
      (p.last = false → Answers (.register r serving) s (fun t => controlDone s t r e csOk 0 ∧ landed t ∧
        t.importOf tn = some { m with next := p.dest + p.len, data := m.data ++ z.1 } ∧ t.sec.handles = s.sec.handles)) ∧
      (p.last = true → (s.sec.handles.filter (fun h => h.handle / 2 ^ 20 = tn)).length < 256 → x.nextSerial < 2 ^ 18 →
        Answers (.register r serving) s (fun t => controlDone s t r e csOk 0 ∧ landed t ∧ t.importOf tn = none ∧
          t.sec.handles = s.sec.handles ++ [{ handle := tn * 2 ^ 20 + m.kind * 2 ^ 18 + x.nextSerial, digest := sha512 (m.data ++ z.1), dest := m.dest,
                                              len := p.dest + p.len - m.dest, serving := m.serving }] ∧
          t.session tn = some { x with nextSerial := x.nextSerial + 1 })))

/-- R412–R415, R417: ROTATE inverts CUR and queues the tenant's pages for the sweep; the sweep sets LOCK on a mapped page, rewrites it under the current
generation once no move holds its translation, and puts it back 1 µs later otherwise; during a recovery it pauses. -/
def Sys2Proof.Claims.RotationSweepsTheTenantsPages : Prop :=
  ∀ (s : State),
    (∀ r e x, controlHead s r 8 e →
      let s1 := s.takeControl r
      let tn := ringTenant r
      s1.session tn = some x → s1.depotOpen = true → s1.keysServed = true → s.sec.sweeps.any (fun w => w.tenant = tn) = false →
      Answers (.rotate r) s (fun t => (t.ring r).head = (s.ring r).head + 1 ∧ ((t.session tn).map (·.cur)) = some (!x.cur) ∧ t.mem = s1.mem ∧
        (s.pagesOf tn = [] → controlDone s t r e csOk 0 ∧ t.sec.sweeps = s.sec.sweeps) ∧
        (s.pagesOf tn ≠ [] → t.disp.completions = s.disp.completions ∧
          ∃ w, t.sec.sweeps = s.sec.sweeps ++ [w] ∧ w.tenant = tn ∧ w.pages = s.pagesOf tn ∧ w.op.tag = e.tag))) ∧
    (∀ w ws, s.live = true → s.sec.sweeps = w :: ws →
      (s.safety.phase ≠ .none → w.locked = none → ∀ b, Answers (.rekeyPage b) s (fun t => t = s)) ∧
      (∀ p ps, s.safety.phase = .none → w.pages = p :: ps → ps ≠ [] → s.pageHeld p = false →
        let rekeyed := fun (t : State) => t.owner p = { s.owner p with keygen := s.tenantGen w.tenant } ∧ (t.sec.sweeps.head?.map (·.pages)) = some ps ∧ t.mem = s.mem
        (w.locked = none → s.pageOwned p w.tenant = true → (s.owner p).keygen ≠ s.tenantGen w.tenant → s.ledger.pending.any (fun x => x.ppn = p) = false →
          (s.mappedAt p = none → ∀ b, Answers (.rekeyPage b) s rekeyed) ∧
          (∀ a, s.mappedAt p = some a → (s.entry a).valid = true → (s.entry a).ppn = p → smSorted s.ledger.entries = true →
            (s.translationHeld { ppn := p, apPage := a, drop := false } = false → Answers (.rekeyPage true) s (fun t => rekeyed t ∧
              t.entry a = { s.entry a with keygen := s.tenantGen w.tenant, lock := false })) ∧
            Answers (.rekeyPage false) s (fun t => t.owner p = s.owner p ∧ t.entry a = { s.entry a with lock := true } ∧
              (t.sec.sweeps.head?.map (·.locked)) = some (some (a, s.clk)) ∧ (t.sec.sweeps.head?.map (·.pages)) = some (p :: ps)))) ∧
        (∀ a t0, w.locked = some (a, t0) → t0 + 1000 ≤ s.clk → Answers (.rekeyPage false) s (fun t => t.owner p = s.owner p ∧ (t.entry a).lock = false ∧
          (t.sec.sweeps.head?.map (·.pages)) = some (ps ++ [p]) ∧ (t.sec.sweeps.head?.map (·.locked)) = some none ∧ counted s t (pgSec + 0x14C)))))

/-- R403–R406, R411, R419: SESSION_OPEN makes a session with its ECDH key pair, the keys derived from the shared secret, memory-key generation 0 and its tenant table entry, or is refused SESSION_BAD; SESSION_CLOSE marks it closing, and once its work and pages are given up its pages are zeros, its session gone and its WEIGHT 0; MANIFEST signs under the next number. R419: step 3 of a session's close writes its pages with zeros, and step 4 removes its session and keys and sets WEIGHT 0; the close then completes. -/
def Obligations.SessionsOpenAttestAndClose : Prop :=
  Sys2Proof.Claims.SessionsOpenCloseAndAttest ∧ Sys2Proof.Claims.ClosedSessionsLeaveNothing

/-- R409, R410: a REGISTER part that follows on and whose records open lands in DRAM, and the last one gives the object its handle with the digest of its bytes; one whose records do not open is refused and its import discarded. R412–R415, R417: ROTATE inverts CUR and queues the tenant's pages for the sweep; the sweep sets LOCK on a mapped page, rewrites it under the current generation once no move holds its translation, and puts it back 1 µs later otherwise; during a recovery it pauses. -/
def Obligations.TenantsRegisterAndRotate : Prop :=
  Sys2Proof.Claims.RegisteredObjectsGetHandles ∧ Sys2Proof.Claims.RotationSweepsTheTenantsPages

/-! ### The Interlocking engine -/

namespace Sys2Proof.Claims

open Sys2Proof Sys2Proof.Machine

/-- Bytes at a device address are each a byte of their own, in no marked line and outside the drive reserve: what is written there reads back (R294, R307). -/
def plainSpan (s : State) (a n : Nat) : Prop :=
  ((List.range n).map (fun i => s.devKey (a + i))).Nodup ∧ s.devMarked a n = false ∧ ∀ i, i < n → s.twinKey (s.devKey (a + i)) = none

/-- A request's result area holds its REQ_SEQ, its epoch, an outcome and candidate results (R274–R276). -/
def resultHeld (s t : State) (r : IlkRun) (outcome : Nat) (res : List CandResult) : Prop :=
  let cb := res.flatMap State.candBytesOf
  MemInv s → s.resultOk r = true → plainSpan s r.result (0x1400 + cb.length) →
    t.devBytes r.result 9 = natLE 4 r.seq ++ natLE 4 r.epoch ++ natLE 1 outcome ∧ t.devBytes (r.result + 0x1400) cb.length = cb

end Sys2Proof.Claims

/-- R264–R267: a row with a new REQ_SEQ in a free slot is accepted, one in a busy slot counted; a check request that keeps R267 and can end in time binds to the
current epoch and runs, another is refused; a load runs, waits as the pending load, or supersedes an older one. -/
def Obligations.InterlockingRequestsStartInOrder : Prop :=
  ∀ (s : State) (f : IlkFinding), s.live = true → f.found = .clean →
    (∀ slot, let row := s.bytes (ilkBase + 0x1000000 + 0x200 * slot) 512
      let seq := bytesNat row 0 4
      seq ≠ 0 → seq ≠ smGet s.ilk.lastSeq 0 slot →
      (s.ilkOutstanding.any (fun r => r.slot = slot) = true → Answers (.ilkRequest slot f) s (fun t =>
        counted s t (pgIlk + 0x128) ∧ t.ilk = s.ilk ∧ RegsBut s t [pgIlk + 0x128])) ∧
      (s.ilkOutstanding.any (fun r => r.slot = slot) = false → 1 ≤ bytesNat row 4 1 → bytesNat row 4 1 ≤ 3 → Answers (.ilkRequest slot f) s (fun t =>
        t.regs = s.regs ∧ t.mem = s.mem ∧ smGet t.ilk.lastSeq 0 slot = seq ∧
        ∃ r, t.ilk.queue = s.ilk.queue ++ [r] ∧ r.slot = slot ∧ r.row = row ∧
          r.writer = if (s.tile slot).wid.isSome then some (s.berthTenant slot (s.berth slot)) else none))) ∧
    (s.ilkRuns = true → ∀ r,
      (s.ilk.running = none → s.nextCheck = some r → ∀ c ∈ [((1 : Nat), Instr.plan f), (2, Instr.check f)], r.kind = c.1 →
        (s.ilkTenantOk r = true → r.checkBad = false → s.checkRanges r = true → s.inTime r = true → Answers c.2 s (fun t =>
          t.ilk.queue = s.ilk.queue.erase r ∧ t.mem = s.mem ∧ t.regs = s.regs ∧
          ∃ r', t.ilk.running = some r' ∧ r'.row = r.row ∧ r'.epoch = s.ilkEpoch ∧ r'.buf = s.ilk.active ∧ r'.start = s.now ∧ r'.late = false ∧
            r'.checked = false)) ∧
        ((s.ilkTenantOk r = false ∨ r.checkBad = true ∨ s.checkRanges r = false) → Answers c.2 s (fun t =>
          t.ilk.queue = s.ilk.queue.erase r ∧ t.ilk.running = none ∧ counted s t (pgIlk + 0x12C)))) ∧
      (s.nextLoad = some r →
        (s.ilk.pendingLoad = none → s.ilk.loading = none → s.bufBound s.inactive = false → s.ilkTenantOk r = true → s.loadOk r = true →
          Answers .ilkLoad s (fun t => t.ilk = { s.ilk with queue := s.ilk.queue.erase r, loading := some { r with start := s.now } } ∧ t.mem = s.mem)) ∧
        (s.ilk.pendingLoad = none → s.ilk.loading.isSome = true → Answers .ilkLoad s (fun t =>
          t.ilk = { s.ilk with queue := s.ilk.queue.erase r, pendingLoad := some r } ∧ t.mem = s.mem)) ∧
        (∀ old, s.ilk.pendingLoad = some old → Answers .ilkLoad s (fun t =>
          t.ilk = { s.ilk with queue := s.ilk.queue.erase r, pendingLoad := some r } ∧ counted s t (pgIlk + 0x124)))))

/-- R261–R263: a load that holds makes its buffer the current world at the next epoch, and one that fails leaves the current world as it was. -/
def Sys2Proof.Claims.LoadsChangeTheWorldWhole : Prop :=
  ∀ (s : State) (r : IlkRun) (f : IlkFinding), s.ilkRuns = true → f.found = .clean → s.ilk.loading = some r → s.ilk.pendingLoad = none →
    s.devHeld (r.n 0x100 8) r.imageBytes = false → s.devMarked (r.n 0x100 8) r.imageBytes = false →
    let ok := if (worldOf r).prim then s.primOk r else s.treeOk r
    (ok = true → Answers (.loadComplete f []) s (fun t => t.ilk.loading = none ∧ t.ilk.current = true ∧ t.ilk.active = s.inactive ∧
      t.ilk.epochCount = (s.ilk.epochCount + 1) % 2 ^ 32 ∧ smFind t.ilk.worlds s.inactive = some (worldOf r) ∧
      t.ilk.watch = (s.ilk.watch || decide (s.ilk.planStatus ≠ .none)) ∧ t.signals = s.signals ++ [(r.slot, r.event, r.tenant)])) ∧
    (ok = false → Answers (.loadComplete f []) s (fun t => t.ilk.loading = none ∧ t.ilk.current = s.ilk.current ∧ t.ilk.active = s.ilk.active ∧
      t.ilk.epochCount = s.ilk.epochCount ∧ t.ilk.worlds = s.ilk.worlds ∧ counted s t (pgIlk + 0x120)))

/-- R273–R276, R278, R284: a CHECK request ends with a result for every candidate, in full before its check stop and with the segments tested so far at it; the
results and the summary land in its result area, it signals its event and frees the engine. A PLAN request's CLEAR candidates go to the Timetabling stage, and one
with none ends, or waits for a running plan watch. -/
def Obligations.ChecksEndWithTheirResults : Prop :=
  ∀ (s : State) (r : IlkRun) (f : IlkFinding), s.ilkRuns = true → f.found = .clean → s.checking = some r → s.ilk.pendingLoad = none →
    let ended := fun (t : State) => t.ilk.running = none ∧ t.signals = s.signals ++ [(r.slot, r.event, r.tenant)] ∧ counted s t (pgIlk + 0x114)
    let waits := fun (t : State) => t.mem = s.mem ∧ t.signals = s.signals ∧ ∃ r', t.ilk.running = some r' ∧ r'.row = r.row ∧ r'.checked = true ∧ r'.todo = []
    (s.inTime r = true → s.devHeld r.cand r.candBytes = false → s.devMarked r.cand r.candBytes = false →
      let full := checkAll (r.nwp - 1) s.lanes r.stopFirst (s.candTraces r)
      let r1 := { r with results := full, checked := true, tests := full.foldl (fun n c => n + c.cycles) 0 }
      (r.kind = 2 → Answers (.checkComplete f) s (fun t => ended t ∧ resultHeld s t r 4 full)) ∧
      (r.kind ≠ 2 → s.timetablingOut = false → s.clearByCost r1 ≠ [] → Answers (.checkComplete f) s (fun t =>
        t.ilk.running = some { r1 with todo := s.clearByCost r1 } ∧ t.mem = s.mem)) ∧
      (r.kind ≠ 2 → (s.clearByCost r1 = [] ∨ s.timetablingOut = true) → Answers (.checkComplete f) s (if s.ilk.watch then waits else ended))) ∧
    (∀ tested, (∀ a, s.attemptTime r = some a → r.deadline ≤ s.now + a) →
      let some' := checkSome (r.nwp - 1) tested (s.candTraces r)
      (r.kind = 2 → Answers (.checkStop tested f) s (fun t => ended t ∧ resultHeld s t r 4 some')) ∧
      (r.kind ≠ 2 → s.inTime r = false → Answers (.checkStop tested f) s (if s.ilk.watch then waits else ended)))

/-- R258, R263, R279–R284: an attempt whose re-check is CLEAR within its bound is adopted as the plan, and another gives way to the next candidate; a plan watch that finds
a hit or an untested segment fails the plan; the buffer-stop starts at the first plan sample at least
20 ms ahead; an uncorrectable word of the current world's buffer loses the epoch, fails the plan and starts the recovery. -/
def Obligations.AttemptsAndWatchesDecideThePlan : Prop :=
  ∀ (s : State) (f : IlkFinding), s.ilkRuns = true → f.found = .clean →
    (∀ r c rest, s.ilk.running = some r → r.checked = true → r.todo = c :: rest → s.ilk.pendingLoad = none →
      let p := timePath (limitsOf r.row) (s.candWays r c)
      let tr := pathTrace s.mem (worldBase r.buf) (s.boundWorld r.epoch r.buf) (checkReqOf r.row r.tref) (State.sampleWays (planSamples p))
      let good := decide ((candOf 199 tr 199 (traceCycles tr)).status = 1 ∧ traceCycles tr ≤ r.recheck)
      (good = true → Answers (.timetablingAttempt f) s (fun t => t.ilk.running = none ∧ t.ilk.planRow = r.row ∧
        t.ilk.planStatus = (if s.ilkEpoch = r.epoch then .clear else .watching) ∧ t.reg (pgIlk + 0x10C) = BitVec.ofNat 32 r.epoch ∧
        t.signals = s.signals ++ [(r.slot, r.event, r.tenant)])) ∧
      (good = false → rest ≠ [] → s.inTime r = true → s.timetablingOut = false → Answers (.timetablingAttempt f) s (fun t =>
        (∃ r', t.ilk.running = some r' ∧ r'.todo = rest ∧ r'.tried = r.tried + 1) ∧ t.ilk.planStatus = s.ilk.planStatus ∧ t.mem = s.mem))) ∧
    (s.ilk.watch = true → s.ilk.planStatus ≠ .none →
      let tr := s.areaTrace planArea s.ilk.watchFrom
      Answers (.planWatch f) s (fun t => t.ilk.watch = false ∧ t.reg (pgIlk + 0x10C) = BitVec.ofNat 32 s.ilkEpoch ∧
        t.ilk.planStatus = if State.traceHits tr = false ∧ tr.any (fun x => x = .unchecked) = false then .clear else .failed)) ∧
    (MemInv s → s.ilk.planStatus ≠ .none → Answers (.bufferStopComputed f) s (fun t =>
      let ref := s.areaRef planArea
      let j := ((List.range 200).find? (fun k => decide (s.now + 20000000 ≤ ref + 20000000 * k))).getD 199
      t.areaRef stopArea = (ref + 20000000 * j) % 2 ^ 64 ∧ (s.service ≠ 1 → t.ilk.bsHit = State.traceHits (t.areaTrace stopArea 0)) ∧
      ∀ b, b < stopArea → memByte t.mem b = memByte s.mem b)) ∧
    (∀ g : IlkFinding, g.found = .uncorrectable → g.area = s.ilk.active → s.ilk.current = true → s.ilk.watch = true → Answers (.planWatch g) s (fun t =>
      stuck t pgIlk 0x4305 ∧ t.ilk.current = false ∧ t.ilk.watch = false ∧ (s.ilk.planStatus ≠ .none → t.ilk.planStatus = .failed) ∧ t.safety.phase = .quench))

/-- R286: the owner changes in depot service with no request outstanding, and the change scrubs the store and restarts the epochs; any other write keeps it. -/
def Sys2Proof.Claims.OwnerChangesScrubTheStore : Prop :=
  ∀ (s : State) (who : Writer) (w : Word), s.live = true → mayWrite s who (pgIlk + 0x110) = true →
    (s.service = 2 → s.ilkOutstanding = [] → bitsOf w 11 0 ≠ s.fld (pgIlk + 0x110) 11 0 → Answers (.ilkOwner who w) s (fun t =>
      t.fld (pgIlk + 0x110) 11 0 = bitsOf w 11 0 ∧ (∀ b, ilkBase ≤ b → b < ilkBase + ilkBytes → memByte t.mem b = 0) ∧
      (∀ b, b < ilkBase ∨ ilkBase + ilkBytes ≤ b → memByte t.mem b = memByte s.mem b) ∧ RegsBut s t [pgIlk + 0x110] ∧
      t.ilk.epochCount = 0 ∧ t.ilk.current = false ∧ t.ilk.worlds = [] ∧ t.ilk.planStatus = .none)) ∧
    ((s.service ≠ 2 ∨ s.ilkOutstanding ≠ [] ∨ bitsOf w 11 0 = s.fld (pgIlk + 0x110) 11 0) → Answers (.ilkOwner who w) s (fun t => t = s))

/-- R261–R263: a load that holds makes its buffer the current world at the next epoch, and one that fails leaves the current world as it was. R286: the owner changes in depot service with no request outstanding, and the change scrubs the store and restarts the epochs; any other write keeps it. -/
def Obligations.WorldsAndOwnersChangeWhole : Prop :=
  Sys2Proof.Claims.LoadsChangeTheWorldWhole ∧ Sys2Proof.Claims.OwnerChangesScrubTheStore

/-! ### Stacked DRAM, temperature and power -/

/-- R291–R294, R297, R307: the patrol takes each line of a stack in turn and counts its walks; a line with one bad symbol is corrected, counted and waits for its
rewrite; one with two, or whose MAC fails, is cleared and its mark ends; a line that a requester's read can correct waits for its rewrite too, and one that it cannot
correct is marked and starts the recovery; in the
drive reserve the other copy serves it, or the device resets where that one is bad too. -/
def Sys2Proof.Claims.StackLinesAreCorrectedOrCleared : Prop :=
  ∀ (s : State) (d : Nat) (cb : Bool), s.live = true → s.stackUp d = true →
    let K := s.stack d
    let p := pgDramc d
    let l := d * stackLines + K.patrolAt
    (s.fld (p + 0x100) 3 3 = 0 → K.patrolAt < stackLines → l ∉ s.dram.marked →
      Answers (.patrol d [] false cb) s (fun t => (t.stack d).patrolAt = (K.patrolAt + 1) % stackLines ∧ t.mem = s.mem ∧ RegsBut s t [p + 0x124] ∧
        if K.patrolAt + 1 = stackLines then counted s t (p + 0x124) else t.regs = s.regs) ∧
      (∀ x, x < 72 → Answers (.patrol d [x] false cb) s (fun t => l ∈ (t.stack d).rewrites ∧ counted s t (p + 0x114) ∧ t.mem = s.mem)) ∧
      (∀ f : List Nat × Bool, (f = ([], true) ∨ ∃ x y, x < 72 ∧ y < 72 ∧ x ≠ y ∧ f = ([x, y], false)) →
        (s.inReserve l = false → Answers (.patrol d f.1 f.2 cb) s (fun t =>
          l ∉ t.dram.marked ∧ counted s t (if f.2 then p + 0x11C else p + 0x118) ∧ t.safety.phase = s.safety.phase ∧
          ∀ b, l * 64 ≤ b → b < l * 64 + 64 → memByte t.mem b = 0)) ∧
        (s.inReserve l = true → s.otherCopyGood l = true → Answers (.patrol d f.1 f.2 false) s (fun t =>
          l ∉ t.dram.marked ∧ counted s t (if f.2 then p + 0x11C else p + 0x118) ∧ t.safety.phase = s.safety.phase ∧ t.mem = s.mem)))) ∧
    (∀ addr, lineDie (addr / 64) = d → s.fld (p + 0x100) 3 3 = 0 →
      let m := addr / 64
      (m ∈ s.dram.marked → s.inReserve m = false → s.safety.phase = .none → ∀ sy mac, Answers (.dramUe addr sy mac cb) s (fun t =>
        counted s t (p + 0x120) ∧ t.mem = s.mem ∧ t.safety.phase = .quench)) ∧
      (m ∉ s.dram.marked → (∀ x, x < 72 → Answers (.dramUe addr [x] false cb) s (fun t =>
        m ∈ (t.stack d).rewrites ∧ counted s t (p + 0x114) ∧ t.mem = s.mem ∧ t.safety.phase = s.safety.phase))) ∧
      (m ∉ s.dram.marked → ∀ f : List Nat × Bool, (f = ([], true) ∨ ∃ x y, x < 72 ∧ y < 72 ∧ x ≠ y ∧ f = ([x, y], false)) →
        (s.inReserve m = false → s.safety.phase = .none → Answers (.dramUe addr f.1 f.2 cb) s (fun t =>
          m ∈ t.dram.marked ∧ counted s t (if f.2 then p + 0x11C else p + 0x118) ∧ t.mem = s.mem ∧ t.safety.phase = .quench ∧
          t.safety.detectedAt = s.now ∧ t.safety.suspects = [.none])) ∧
        (s.inReserve m = true → s.otherCopyGood m = true → Answers (.dramUe addr f.1 f.2 false) s (fun t =>
          m ∉ t.dram.marked ∧ t.mem = s.mem ∧ t.safety.phase = s.safety.phase)) ∧
        (s.inReserve m = true → (s.otherCopyGood m = false ∨ cb = true) → Answers (.dramUe addr f.1 f.2 cb) s (fun t =>
          t.pins.safeA = true ∧ t.pins.safeB = true ∧ t.start.hold = .warm ∧ t.start.safeReset = true))))

/-- R293, R300, R301, R320: a corrected line is written back in its turn; channel 32 takes a failing channel's place; a refresh changes no contents; a new
copy of the drive reserve takes free pages of its stack, holds what the other one holds, and joins it; without room it waits. -/
def Sys2Proof.Claims.StackRepairsComplete : Prop :=
  ∀ (s : State) (d : Nat), s.live = true →
    (∀ l ls, (s.stack d).rewrites = l :: ls → s.fld (pgDramc d + 0x100) 3 3 = 0 → Answers (.lineRewrite d) s (fun t =>
      (t.stack d).rewrites = ls ∧ l ∈ (t.stack d).rewritten ∧ t.mem = s.mem ∧ t.regs = s.regs)) ∧
    (∀ ch since, (s.stack d).failing = some (ch, since) → ch < 32 → s.fld (pgDramc d + 0x100) 3 3 = 0 → Answers (.chMigrated d []) s (fun t =>
      (t.stack d).failing = none ∧ t.fld (pgDramc d + 0x100) 1 1 = 1 ∧ t.fld (pgDramc d + 0x100) 2 2 = 0 ∧ t.fld (pgDramc d + 0x100) 12 8 = ch ∧ t.mem = s.mem)) ∧
    (∀ ch b, Answers (.dramRefresh d ch b) s (fun t => t.mem = s.mem ∧ t.regs = s.regs ∧ t.dram = s.dram ∧
      (s.stackUp d = true → s.fld (pgDramc d + 0x100) 3 3 = 0 → t = s.countEvent (pgDieCnt d) 6))) ∧
    (∀ e src rest, s.dram.building = some e → s.dram.reserveSites = src :: rest → src ≠ e → MemInv s →
      let n := s.dram.reservePages * pageBytes
      let fit := poolFit s.ledger.pool (e * stackPages) ((e + 1) * stackPages) s.dram.reservePages
      (fit = none → Answers .driveReserveCopy s (fun t => t = s)) ∧
      (∀ a, fit = some a → Answers .driveReserveCopy s (fun t =>
        let lo := t.reserveBase e
        t.dram.building = none ∧ t.dram.reserveSites = s.dram.reserveSites ++ [e] ∧ t.reserveStart e = a % stackPages ∧ t.regs = s.regs ∧
        t.ledger.pool = poolCut s.ledger.pool a s.dram.reservePages ∧
        (∀ k, k < n → memByte t.mem (lo + k) = memByte s.mem (s.reserveBase src + k)) ∧
        ∀ b, b < lo ∨ lo + n ≤ b → memByte t.mem b = memByte s.mem b)))

/-- R303–R306, R447: a die's sample sets its band, at most the held one is in force, its tiles take the allowance, and band 5 brings self-refresh that the band's end
lifts; a hub is hot from 105 °C until it reads below 100 °C. -/
def Obligations.TemperatureSetsTheBand : Prop :=
  ∀ (s : State) (diodes : List (Int × Int)) (sensors : List Int), s.live = true →
    (∀ d, d ∈ s.sites →
      let temp := (s.sampleSpots d diodes).2
      let b := State.bandNext (s.therm d) temp (sensors.filter State.tempOk)
      Answers (.thermalSample d diodes sensors) s (fun t => (t.therm d).called = b.1 ∧ (t.therm d).cool = b.2 ∧
        t.fld (pgDramc d + 0x104) 2 0 = t.heldBand d ∧ (∀ u, u < 68 → State.dieOf u = d → t.fld (pgTile u + 0x108) 4 0 = t.dieK d) ∧
        ((s.therm d).called < 5 → b.1 = 5 → t.fld (pgDramc d + 0x100) 3 3 = 1) ∧ ((s.therm d).called = 5 → b.1 < 5 → t.fld (pgDramc d + 0x100) 3 3 = 0))) ∧
    (∀ h, h = 4 ∨ h = 5 → Answers (.thermalSample h diodes sensors) s (fun t =>
      (t.therm h).allLost = (s.sampleSpots h diodes).2.isNone ∧ t.mem = s.mem ∧
      (∀ x, (s.sampleSpots h diodes).2 = some x → (840 ≤ x → (t.therm h).hubHot = true) ∧ (x < 800 → (t.therm h).hubHot = false) ∧
        (800 ≤ x → x < 840 → (t.therm h).hubHot = (s.therm h).hubHot))))

/-- R443, R445: the package power moves the power step by at most one, down where it lies above the lowest limit; the AVS target moves by at most 5 mV toward the
highest request plus 10 mV, between 650 and 850 mV. -/
def Sys2Proof.Claims.PowerAndVoltageMoveByOneStep : Prop :=
  ∀ (s : State), s.live = true →
    (∀ (watts : Nat), s.coolLost = false → s.hubBlind = false →
      let w := ((watts : Int) + s.calEff pgPwr 1 10).toNat
      Answers (.powerSample watts) s (fun t => t.fld (pgPwr + 0x104) 9 0 = min 1023 w ∧ t.power.kc ≤ s.power.kc + 1 ∧ s.power.kc ≤ t.power.kc + 1 ∧
        (s.lowestLimit < w → t.power.kc = s.power.kc - 1) ∧ (9 * s.lowestLimit ≤ 10 * w → w ≤ s.lowestLimit → s.hubHot = false → t.power.kc = s.power.kc))) ∧
    (∀ r rs read, let a := pgPwr + 0x108
      let cur := s.fld a 9 0
      let want := max 650 (min 850 ((r :: rs).foldl max 0 + 10))
      Answers (.avsUpdate (r :: rs) read) s (fun t => t.mem = s.mem ∧ RegsBut s t [a] ∧
        t.fld a 9 0 = if cur = 0 then want else if cur < want then min want (cur + 5) else max want (cur - 5)))

/-- R306, R442, R450, R454, R457, R469: a brownout resets the device with both pins, a thermal trip (a diode at 115 °C or above by its factory calibration) holds its logic with every stack in self-refresh, lost coolant brings
the power step to 0, a worn tile is noted, and a slack fault starts the recovery. -/
def Sys2Proof.Claims.PowerAndHeatFaultsAct : Prop :=
  ∀ (s : State),
    (s.live = true →
      (∀ rail, Answers (.brownout rail) s (fun t => t.pins.safeA = true ∧ t.pins.safeB = true ∧ t.start.hold = .warm ∧ t.start.safeReset = true)) ∧
      (∀ slope, s.coolLost = false → (if slope then s.powerSteady && (List.range 6).any (fun d => decide (200 < s.fineSlope d)) else s.fld (pgCool + 0x104) 18 18 = 0) = true →
        Answers (.coolingLost slope) s (fun t => t.fld (pgCool + 0x104) 17 17 = 1 ∧ t.power.kc = 0 ∧ t.power.flowCap = 4)) ∧
      (∀ latest overrate inlet outlet, 0 < overrate → ∀ edges, Answers (.flowSample edges latest overrate inlet outlet) s (fun t =>
        t.fld (pgCool + 0x104) 18 18 = 1 ∧ t.fld (pgCool + 0x104) 15 0 = s.fld (pgCool + 0x104) 15 0 ∧
        t.reg (pgCool + 0x10C) = BitVec.ofNat 32 (min 0xFFFFFFFF ((s.reg (pgCool + 0x10C)).toNat + if s.flowFault then latest else overrate)))) ∧
      (∀ edges latest inlet outlet, s.fld (pgCool + 0x104) 18 18 = 0 →
        let f := ((edges * 60000 / s.fld (pgCool + 0x100) 15 0 : Nat) : Int) * (1000 + s.calEff pgCool 2 100) / 1000
        Answers (.flowSample edges latest 0 inlet outlet) s (fun t => t.fld (pgCool + 0x104) 15 0 = min 65535 f.toNat)) ∧
      (∀ u h, s.tilePresent u = true → (s.tile u).worn = false → h < 40 → Answers (.agingMonitor u h) s (fun t => (t.tile u).worn = true ∧
        (h < s.fld (pgTherm (State.dieOf u) + 0x12C) 7 0 → t.fld (pgTherm (State.dieOf u) + 0x12C) 7 0 = h))) ∧
      (∀ d, d ∈ s.sites → s.safety.phase = .none → Answers (.slackFault d) s (fun t => t.safety.phase = .quench ∧ t.safety.suspects = [.dieSlack d] ∧ t.mem = s.mem))) ∧
    (∀ ds, s.start.hold ≠ .porst → s.hotDiodes ds 920 ≠ [] → Answers (.thermalTrip ds) s (fun t => t.start.hold = .trip ∧
      (s.start.hold ≠ .trip → t.pins.safeA = true ∧ t.pins.safeB = true ∧ t.fld (pgPwr + 0x104) 15 15 = 1 ∧ ∀ x ∈ s.sites, t.fld (pgDramc x + 0x100) 3 3 = 1)))

/-- R291–R294, R297, R307: the patrol takes each line of a stack in turn and counts its walks; a line with one bad symbol is corrected, counted and waits for its rewrite; one with two, or whose MAC fails, is cleared and its mark ends; a line that a requester's read can correct waits for its rewrite too, and one that it cannot correct is marked and starts the recovery; in the drive reserve the other copy serves it, or the device resets where that one is bad too. R293, R300, R301, R320: a corrected line is written back in its turn; channel 32 takes a failing channel's place; a refresh changes no contents; a new copy of the drive reserve takes free pages of its stack, holds what the other one holds, and joins it; without room it waits. -/
def Obligations.StackLinesAreCorrectedClearedAndRepaired : Prop :=
  Sys2Proof.Claims.StackLinesAreCorrectedOrCleared ∧ Sys2Proof.Claims.StackRepairsComplete

/-- R443, R445: the package power moves the power step by at most one, down where it lies above the lowest limit; the AVS target moves by at most 5 mV toward the highest request plus 10 mV, between 650 and 850 mV. R306, R442, R450, R454, R457, R469: a brownout resets the device with both pins, a thermal trip (a diode at 115 °C or above by its factory calibration) holds its logic with every stack in self-refresh, lost coolant brings the power step to 0, a worn tile is noted, and a slack fault starts the recovery. -/
def Obligations.PowerStepsAndFaultsAct : Prop :=
  Sys2Proof.Claims.PowerAndVoltageMoveByOneStep ∧ Sys2Proof.Claims.PowerAndHeatFaultsAct

/-! ### Recovery, self-tests and the islands -/

namespace Sys2Proof.Claims

open Sys2Proof Sys2Proof.Machine

/-- A recovery has just started at Quench with one suspect (R317, R318). -/
def quenched (s t : State) (x : Suspect) : Prop :=
  t.safety.phase = .quench ∧ t.safety.detectedAt = s.now ∧ t.safety.suspects = [x] ∧ t.disp.stopped = true ∧ t.mem = s.mem

/-- SAFE_RESET has been carried out: both pins, and an internal warm reset (R334). -/
def wasReset (t : State) : Prop := t.pins.safeA = true ∧ t.pins.safeB = true ∧ t.start.hold = .warm ∧ t.start.safeReset = true

end Sys2Proof.Claims

/-- R311, R314, R317, R320: a mismatch of a coupled unit with work, a router fault and a hub's fabric fault act at once; a mismatch of an idle pair or lane pair
isolates it for its verdict self-test without a recovery, and a router fault of a die without work quarantines the die at once. -/
def Obligations.FaultsStartTheRecovery : Prop :=
  ∀ (s : State), s.live = true → s.safety.phase = .none →
    (∀ p, s.pairServes p = true → ∀ u ∈ [FaultUnit.pair p, .tile (2 * p), .tile (2 * p + 1)],
      (s.suspectBusy (.unit (.pair p)) = true → Answers (.compareMismatch u) s (fun t => quenched s t (.unit (.pair p)) ∧ stuck t (pgTile (2 * p + 1)) 0x2601)) ∧
      (s.suspectBusy (.unit (.pair p)) = false → Answers (.compareMismatch u) s (fun t => t.safety.phase = .none ∧ t.mem = s.mem ∧
        ∀ x ∈ [2 * p, 2 * p + 1], (t.tile x).health = .verdict ∧ (t.tile x).stopped = true ∧ t.fld (pgTile x + 0x100) 2 0 = 4 ∧ (x < 64 → t.safeBit 0x104 x = true)))) ∧
    (∀ j, s.ilk.coupled = true → j ∉ s.ilk.lanesOut →
      (s.suspectBusy (.unit (.lane j)) = true → Answers (.compareMismatch (.lane j)) s (fun t => quenched s t (.unit (.lane j)))) ∧
      (s.suspectBusy (.unit (.lane j)) = false → Answers (.compareMismatch (.lane j)) s (fun t => t.safety.phase = .none ∧ t.ilk.lanesOut = j :: s.ilk.lanesOut))) ∧
    (s.ilk.coupled = true → s.ilk.running = none → s.timetablingOut = false → Answers (.compareMismatch .timetabling) s (fun t => t.ilk.timetablingFault = true ∧ t.safety.phase = .none)) ∧
    (∀ d region, d ∈ s.sites → s.fld (pgDramc d + 0x100) 4 4 = 0 →
      (s.suspectBusy (.die d) = true → Answers (.routerFault d region) s (fun t => quenched s t (.die d))) ∧
      (s.suspectBusy (.die d) = false → Answers (.routerFault d region) s (fun t =>
        t.safety.phase = .none ∧ t.fld (pgDramc d + 0x100) 4 4 = 1 ∧ t.fld (pgDramc d + 0x100) 0 0 = 0))) ∧
    (∀ d, Answers (.fabricFault d) s wasReset)

/-- R318, R320, R321, R327, R328: the phases follow one another to Resume, which lets dispatch go on; a fault found after the Isolate deadline runs the recovery again;
a missed deadline passes it to the other island once, and then resets the device. -/
def Obligations.RecoveryPhasesFollowOneAnother : Prop :=
  ∀ (s : State), s.live = true →
    let P := s.safety.phase
    (P = .quench → Answers .recoveryPhaseEnd s (fun t => t = s.setPhase .discard)) ∧
    (P = .discard → Answers .recoveryPhaseEnd s (fun t => t.safety.phase = .isolate ∧ t.signals = [] ∧ t.disp.placements.all (·.ended) = true)) ∧
    (P = .isolate → (∀ p, s.safety.suspects = [.unit (.pair p)] → s.tileJudged (2 * p) = true → s.tileJudged (2 * p + 1) = true →
      Answers .recoveryPhaseEnd s (fun t => t.safety.phase = .spareLoad ∧ t.mem = s.mem ∧ ∀ x ∈ [2 * p, 2 * p + 1], (t.tile x).health = .verdict))) ∧
    (P = .spareLoad → s.safety.restart = none → Answers .recoveryPhaseEnd s (fun t => t.safety.phase = .resume)) ∧
    (P = .resume → s.safety.restart = none → Answers .recoveryPhaseEnd s (fun t => t.safety.phase = .none ∧ t.safety.suspects = [] ∧ t.disp.stopped = false)) ∧
    (∀ at', (P = .spareLoad ∨ P = .resume) → s.safety.restart = some at' → Answers .recoveryPhaseEnd s (fun t =>
      t.safety.phase = .discard ∧ t.safety.suspects = s.safety.next ∧ t.safety.detectedAt = at' ∧ t.safety.restart = none)) ∧
    (P ≠ .none → s.safety.detectedAt + State.phaseDeadline P < s.now →
      let other : Side := if s.fld (pgSafety + 0x100) 4 4 = 0 then .b else .a
      (s.fld (pgSafety + 0x100) 3 3 = 0 → s.islandOk other = true → Answers .phaseLate s (fun t =>
        t.safety.phase = .quench ∧ t.safety.detectedAt = s.now ∧ t.fld (pgSafety + 0x100) 3 3 = 1 ∧ t.fld (pgSafety + 0x100) 4 4 = State.sideNo other ∧
        counted s t (pgSafety + 0x130))) ∧
      ((s.fld (pgSafety + 0x100) 3 3 = 1 ∨ s.islandOk other = false) → Answers .phaseLate s wasReset))

/-- R315, R316, R323, R324, R329–R331: verdicts, injection tests and self-tests return the units that pass and isolate those that fail; a tile that has run too long
without a pass is withdrawn from safety work. -/
def Sys2Proof.Claims.TestsDecideUnits : Prop :=
  ∀ (s : State), s.live = true →
    (∀ p, (s.tile (2 * p)).health = .verdict → (s.tile (2 * p + 1)).health = .verdict →
      Answers (.verdict (.pair p) [true, true]) s (fun t => (t.tile (2 * p)).health = .injecting ∧ (t.tile (2 * p + 1)).health = .injecting ∧
        counted s t (pgSafety + 0x124) ∧ t.mem = s.mem) ∧
      (s.safety.phase = .none → Answers (.verdict (.pair p) [false, false]) s (fun t => quenched s t (.die (p / 8))))) ∧
    (∀ u, (s.tile u).health = .verdict → (s.tile u).coupled = false → s.needsReload u = false → s.dieHalted u = false →
      Answers (.verdict (.tile u) [true]) s (fun t => (t.tile u).health = .inService ∧ (t.tile u).stopped = false ∧ t.fld (pgTile u + 0x100) 2 0 = 1 ∧ t.mem = s.mem)) ∧
    (∀ j, j < 16 → j ∈ s.ilk.lanesOut → j ∉ s.ilk.lanesLost →
      Answers (.verdict (.lane j) [true, true]) s (fun t => j ∉ t.ilk.lanesOut ∧ t.fld (pgSafety + 0x114) j j = 0) ∧
      Answers (.verdict (.lane j) [false, true]) s (fun t => j ∈ t.ilk.lanesOut ∧ j ∈ t.ilk.lanesLost)) ∧
    (s.ilk.timetablingFault = true → FaultUnit.timetabling ∉ s.safety.injFailed → Answers (.verdict .timetabling [true]) s (fun t => t.ilk.timetablingFault = false)) ∧
    (∀ p, s.pairTested p = true →
      (s.dieHalted (2 * p) = false → s.dieHalted (2 * p + 1) = false → Answers (.injectionTest (.pair p) true) s (fun t =>
        (t.tile (2 * p)).health = .inService ∧ (t.tile (2 * p + 1)).health = .inService ∧ FaultUnit.pair p ∉ t.safety.injFailed)) ∧
      (.pair p ∉ s.safety.injFailed → Answers (.injectionTest (.pair p) false) s (fun t =>
        (t.tile (2 * p)).health = .injecting ∧ (t.tile (2 * p + 1)).health = .injecting ∧ FaultUnit.pair p ∈ t.safety.injFailed ∧ counted s t (pgSafety + 0x134)))) ∧
    (∀ u, s.tilePresent u = true → s.tileTaken u = false → (s.tile u).health = .inService → (s.tile u).coupled = false →
      (s.driveRuns = true → (s.tile u).segment.isSome = true) → Answers (.selftestSegment (.tile u) true) s (fun t => (t.tile u).health = .inService ∧ t.mem = s.mem ∧
        if (s.tile u).segsDone + 1 = 80 then (t.tile u).segsDone = 0 ∧ (t.tile u).lastPass = s.now else (t.tile u).segsDone = (s.tile u).segsDone + 1) ∧
      Answers (.selftestSegment (.tile u) false) s (fun t => (t.tile u).health = .verdict ∧ (t.tile u).stopped = true)) ∧
    (∀ j, j < 16 → j ∉ s.ilk.lanesOut → smSorted s.ilk.laneSegs = true →
      Answers (.selftestSegment (.lane j) true) s (fun t => t.ilk.lanesOut = s.ilk.lanesOut ∧
        smGet t.ilk.laneSegs 0 j = if smGet s.ilk.laneSegs 0 j + 1 = 40 then 0 else smGet s.ilk.laneSegs 0 j + 1) ∧
      Answers (.selftestSegment (.lane j) false) s (fun t => j ∈ t.ilk.lanesOut ∧ t.fld (pgSafety + 0x114) j j = 1)) ∧
    (∀ u, u < 64 → s.tilePresent u = true → (s.tile u).lastPass + s.diagInterval < s.now →
      Answers (.diagnosticInterval u) s (fun t => t.safeBit 0x10C u = true))

/-- R321, R325: a spare that joins a survivor gets its whole store and its berth and dock registers; a tile that owes its contexts loads them and rejoins or goes on to
its injection test. -/
def Sys2Proof.Claims.SparesGetTheirContexts : Prop :=
  ∀ (s : State), s.live = true → MemInv s → s.safety.phase = .none →
    (∀ d f, s.safety.fills.find? (fun f => f.die = d && !f.cut && (s.tile f.tile).health = .injecting && (s.tile f.survivor).health = .injecting
        && !(s.tile f.survivor).reload) = some f → f.tile ≠ f.survivor → f.tile < 68 → f.survivor < 68 →
      Answers (.spareFill d) s (fun t => f ∉ t.safety.fills ∧ (t.tile f.tile).ibuf = (s.tile f.survivor).ibuf ∧
        (∀ k, k < 0xA0000 → memByte t.mem (tileStoreBase f.tile + k) = memByte s.mem (tileStoreBase f.survivor + k)) ∧
        (∀ b, b < tileStoreBase f.tile ∨ tileStoreBase f.tile + 0xA0000 ≤ b → memByte t.mem b = memByte s.mem b) ∧
        (∀ i, i < 32 → t.reg (pgBerth f.tile + 0x100 + 4 * i) = s.reg (pgBerth f.survivor + 0x100 + 4 * i)) ∧
        (∀ i, i < 256 → t.reg (pgDock f.tile + 0x100 + 4 * i) = s.reg (pgDock f.survivor + 0x100 + 4 * i)))) ∧
    (∀ u, (s.tile u).reload = true → (s.tile u).health = .injecting → (∀ f ∈ s.safety.fills, f.tile ≠ u) → s.dieHalted u = false →
      Answers (.contextLoad u) s (fun t => (t.tile u).reload = false ∧ (t.tile u).health = if (s.tile u).coupled then .injecting else .inService))

/-- R34, R333–R335: a faulty island asserts its pin and stops while the other supervises, and the fault of both resets the device; three missed state words make an
island faulty, three missed heartbeats reset; two clocks that agree show a third that fails; a rail three times outside its window resets; a lost frame is recorded. -/
def Obligations.IslandsSuperviseAndAct : Prop :=
  ∀ (s : State), s.live = true →
    (∀ x, s.islandOk x = true →
      (s.islandOk (otherSide x) = true → Answers (.islandFault x) s (fun t => t.islandOk x = false ∧ t.islandOk (otherSide x) = true ∧
        t.fld (pgIsl (State.sideNo x) + 0x100) 3 3 = 1 ∧ (x = .a → t.pins.safeA = true) ∧ (x = .b → t.pins.safeB = true))) ∧
      (s.islandOk (otherSide x) = false → Answers (.islandFault x) s wasReset)) ∧
    (s.islandOk .a = true → s.islandOk .b = true → s.safety.islB.peerMissed < 2 →
      (s.safety.islA.peerMissed < 2 → Answers (.islandStateWord false false) s (fun t => t.islandOk .a = true ∧ t.islandOk .b = true ∧
        t.safety.islA.peerMissed = s.safety.islA.peerMissed + 1 ∧ t.safety.islB.peerMissed = s.safety.islB.peerMissed + 1)) ∧
      (2 ≤ s.safety.islA.peerMissed → Answers (.islandStateWord true false) s (fun t => t.islandOk .a = true ∧ t.islandOk .b = false))) ∧
    (s.islandOk .a = true →
      (s.safety.islA.beatMissedA = 2 → Answers (.heartbeatCheck false true) s wasReset) ∧
      (s.progressMissing = false → Answers (.heartbeatCheck true true) s (fun t =>
        t.safety.islA.beatMissedA = 0 ∧ t.safety.islA.beatMissedB = 0 ∧ t.start = s.start)) ∧
      (s.progressMissing = true → Answers (.heartbeatCheck true true) s wasReset)) ∧
    (∀ c a b, (clocksAgree a b = true → clocksAgree c a = false → clocksAgree c b = false → Answers (.clockCheck c a b) s wasReset) ∧
      (clocksAgree c b = true → clocksAgree c a = false → clocksAgree a b = false → Answers (.clockCheck c a b) s (fun t => t.islandOk .a = false)) ∧
      (clocksAgree c a = true → clocksAgree c b = false → clocksAgree a b = false → Answers (.clockCheck c a b) s (fun t => t.islandOk .b = false)) ∧
      (clocksAgree c a = true → clocksAgree c b = true → Answers (.clockCheck c a b) s (fun t => t = s))) ∧
    (∀ mv, s.islandOk .a = true →
      (s.railOut 1 mv = false → smSorted s.safety.islA.railsOut = true → Answers (.voltageSample .a [(1, mv)]) s (fun t => smFind t.safety.islA.railsOut 1 = none ∧ t.start = s.start)) ∧
      (s.railOut 1 mv = true → 2 ≤ smGet s.safety.islA.railsOut 0 1 → Answers (.voltageSample .a [(1, mv)]) s wasReset)) ∧
    (s.service = 1 → s.disp.tt.isSome = true → s.disp.frameStart + 2 * s.framePeriod < s.now →
      Answers .frameLost s (fun t => stuck t pgTick 0x5904 ∧ (smFind s.safety.actions State.evFrameLost = none → t.pins.safeA = true ∧ t.pins.safeB = true)))

/-- R315, R316, R323, R324, R329–R331: verdicts, injection tests and self-tests return the units that pass and isolate those that fail; a tile that has run too long without a pass is withdrawn from safety work. R321, R325: a spare that joins a survivor gets its whole store and its berth and dock registers; a tile that owes its contexts loads them and rejoins or goes on to its injection test. -/
def Obligations.TestsAndSparesReturnUnits : Prop :=
  Sys2Proof.Claims.TestsDecideUnits ∧ Sys2Proof.Claims.SparesGetTheirContexts

/-! ### The Platform ports -/

namespace Sys2Proof.Claims

open Sys2Proof Sys2Proof.Machine

/-- A trained, awake port hears its host, and the burst at this offset comes from the open row that the map gives (R342, R343, R345). -/
def portServes (s : State) (p offset ch bank : Nat) : Prop :=
  s.live = true ∧ s.portHears p = true ∧ (s.port p).vacant = false ∧ s.portTrained p = true ∧ s.portSleep p ch = .none ∧ s.rowOpen p offset ch bank = true

/-- A port hears commands on a channel outside a low-power state. -/
def portAwake (s : State) (p ch : Nat) : Prop := s.portHears p = true ∧ s.portSleep p ch = .none

/-- A violation of a class is recorded on a port (R361). -/
def violated (s t : State) (p cls : Nat) : Prop := t.fld (pgPlat p + 0x118) cls cls = 1 ∧ t.fld (pgPlat p + 0x11C) 2 0 = cls ∧ counted s t (pgPlat p + 0x120)

end Sys2Proof.Claims

/-- R344–R350, R353, R361: a host burst reads and writes Platform SRAM (a burst of 64 bytes in the two burst columns that the map gives it) and the own hub's registers, a write to the other hub's waits to be forwarded, a vacant port shows
the vacant pattern, and a burst outside the open row or into the device's part of the SRAM is a violation. -/
def Obligations.HostBurstsReachTheirWindows : Prop :=
  ∀ (s : State) (p offset ch bank : Nat), p < 2 → portServes s p offset ch bank →
    let col := s.withColumn p offset ((s.sourceBits p offset 0 6 + 1) % 64) / 32 * 32
    let n := 32 - offset % 32
    let at' := fun (o : Nat) => psramBase p + (o - State.winSram)
    (∀ len, State.winSram ≤ offset → offset < State.winSram + psramBytes →
      (len ≤ n → Answers (.hostRead p offset len ch bank .good) s (fun t => (t.port p).readData = s.bytes (at' offset) len ∧ t.mem = s.mem ∧ t.regs = s.regs)) ∧
      (n < len → State.winSram ≤ col → col < State.winSram + psramBytes → Answers (.hostRead p offset len ch bank .good) s (fun t =>
        (t.port p).readData = s.bytes (at' offset) n ++ s.bytes (at' col) (len - n) ∧ t.mem = s.mem ∧ t.regs = s.regs))) ∧
    (∀ len, len ≤ n → State.winBellEnd ≤ offset → offset < State.winSram → Answers (.hostRead p offset len ch bank .good) s (fun t =>
      (t.port p).readData = List.replicate len vacantByte ∧ t.mem = s.mem ∧ t.regs = s.regs)) ∧
    (∀ len, s.fld (pgPlat p + 0x100) 1 0 = 2 → Answers (.hostRead p offset len ch bank .timing) s (fun t =>
      (t.port p).readData = List.replicate len vacantByte ∧ violated s t p 0)) ∧
    (offset < State.winProxy → offset % 4 = 0 → offset / 0x800000 = p → (s.block ((0x5000000000 + offset) / 0x1000 * 0x1000)).isSome = true →
      (s.regAt (0x5000000000 + offset)).isSome = true →
      Answers (.hostRead p offset 4 ch bank .good) s (fun t => (t.port p).readData = natLE 4 (s.regValue (.host p) (0x5000000000 + offset)).toNat) ∧
      ∀ w : Word, Answers (.hostWrite p offset ((natLE 4 w.toNat).map some) ch bank .good) s (fun t => t = s.writeReg (.host p) (0x5000000000 + offset) w)) ∧
    (offset < State.winProxy → offset % 4 = 0 → offset / 0x800000 ≠ p → ∀ w : Word,
      Answers (.hostWrite p offset ((natLE 4 w.toNat).map some) ch bank .good) s (fun t =>
        (t.port p).forwards = (s.port p).forwards ++ [{ addr := 0x5000000000 + offset, value := w }] ∧ t.regs = s.regs ∧ t.mem = s.mem)) ∧
    (MemInv s → ∀ bs : List Byte, bs ≠ [] → State.winSram ≤ offset → offset < State.winSram + 0x1F00000 →
      (bs.length ≤ n → Answers (.hostWrite p offset (bs.map some) ch bank .good) s (fun t =>
        t.bytes (at' offset) bs.length = bs ∧ t.regs = s.regs ∧
        ∀ b, b < at' offset ∨ at' offset + bs.length ≤ b → memByte t.mem b = memByte s.mem b)) ∧
      (n < bs.length → bs.length ≤ n + 32 → State.winSram ≤ col → col < State.winSram + 0x1F00000 → col ≠ offset / 32 * 32 →
        Answers (.hostWrite p offset (bs.map some) ch bank .good) s (fun t =>
          t.bytes (at' offset) n ++ t.bytes (at' col) (bs.length - n) = bs ∧ t.regs = s.regs ∧
          ∀ b, (b < at' offset ∨ at' offset + n ≤ b) → (b < at' col ∨ at' col + (bs.length - n) ≤ b) → memByte t.mem b = memByte s.mem b))) ∧
    (∀ b : Byte, s.fld (pgPlat p + 0x100) 1 0 = 2 → State.winSram + 0x1F00000 ≤ offset → offset < State.winSram + psramBytes →
      Answers (.hostWrite p offset [some b] ch bank .good) s (fun t => violated s t p 5))

/-- R341–R345, R361, R483: the host's row, mode, training and low-power commands change the port's part as the standard says, and a reset of the port returns it to its
defaults; a refresh changes nothing where its banks have no open row, and per-pin DFE training is a violation. -/
def Obligations.PortCommandsSetTheirPart : Prop :=
  ∀ (s : State) (p : Nat), p < 2 →
    (∀ ch, portAwake s p ch →
      (∀ bank row, smFind (s.port p).openRows (State.bankKey ch bank) = none → Answers (.activate p ch bank row .good) s (fun t =>
        smFind (t.port p).openRows (State.bankKey ch bank) = some (row % 65536) ∧ t.mem = s.mem ∧ t.regs = s.regs)) ∧
      (∀ bank, Answers (.precharge p ch bank .good) s (fun t => (t.port p).openRows = smErase (s.port p).openRows (State.bankKey ch bank) ∧ t.regs = s.regs)) ∧
      (∀ mr v, Answers (.modeRegisterWrite p ch mr v .good) s (fun t => smFind (t.port p).mode (256 * ch + mr) = some v ∧
        (mr = 22 → t.fld (pgPlat p + 0x100) 2 2 = b2n ((t.port p).mode.any (fun e => e.1 % 256 = 22 && e.2.toNat / 16 ≠ 0))))) ∧
      (∀ f, f ≠ .perPinDfe → Answers (.training p ch f true) s (fun t => (ch, f) ∈ (t.port p).trained ∧ t.regs = s.regs)) ∧
      (s.live = true → s.portUp p = true → Answers (.training p ch .perPinDfe true) s (fun t => violated s t p 6)) ∧
      (∀ bank, (s.bankOpen p ch bank = false → Answers (.hostRefresh p ch bank .good) s (fun t => t = s)) ∧
        (s.live = true → s.portUp p = true → s.bankOpen p ch bank = true → Answers (.hostRefresh p ch bank .good) s (fun t => violated s t p 1))) ∧
      (∀ c ∈ [(Instr.powerDownEntry p ch .good, PortSleep.powerDown), (.selfRefreshEntry p ch .good, .selfRefresh), (.deepSleepEntry p ch .good, .deepSleep)],
        s.bankOpen p ch none = false → Answers c.1 s (fun t => t.portSleep p ch = c.2 ∧ t.regs = s.regs ∧ t.mem = s.mem))) ∧
    (s.portHears p = true →
      (∀ ch, ∀ c ∈ [(Instr.powerDownExit p ch .good, PortSleep.powerDown), (.selfRefreshExit p ch .good, .selfRefresh), (.deepSleepExit p ch .good, .deepSleep)],
        s.portSleep p ch = c.2 → Answers c.1 s (fun t => t.portSleep p ch = .none ∧ t.regs = s.regs ∧ t.mem = s.mem)) ∧
      Answers (.portReset p) s (fun t => (t.port p).mode = [] ∧ (t.port p).trained = [] ∧ (t.port p).sleep = [] ∧ (t.port p).openRows = [] ∧
        t.fld (pgPlat p + 0x100) 2 2 = 0 ∧ RegsBut s t [pgPlat p + 0x100]))

/-- R348, R351, R352, R360, R362: forwarded writes land in order, a proxy entry takes one request and answers it with the interrupt PROXY, ones clear their interrupt causes,
and a controller port follows its peer. -/
def Obligations.ProxyInterruptsAndPeersAnswer : Prop :=
  ∀ (s : State) (p : Nat), s.live = true → p < 2 →
    (∀ f fs, (s.port p).forwards = f :: fs → Answers (.forwardedWrite p) s (fun t => t = (s.updPort p (fun P => { P with forwards := fs })).writeReg (.host p) f.addr f.value)) ∧
    (s.portUp p = true → ∀ e a wd ctl,
      ((s.proxyEntry p e).busy = false → Answers (.proxyRequest p e a wd ctl) s (fun t => (t.proxyEntry p e).busy = true ∧ (t.proxyEntry p e).addr = a ∧
        (t.proxyEntry p e).wdata = wd ∧ (t.proxyEntry p e).ctl = ctl ∧ t.regs = s.regs)) ∧
      ((s.proxyEntry p e).busy = true → Answers (.proxyRequest p e a wd ctl) s (fun t => t.ports = s.ports ∧ counted s t (pgPlat p + 0x130)))) ∧
    (∀ e, let x := s.proxyEntry p e
      x.busy = true → s.safety.phase = .none → bitsOf x.ctl 7 0 = 1 → bitsOf x.ctl 31 16 = 0 → psramBase 0 ≤ x.addr.toNat → x.addr.toNat < psramBase 0 + 0x4000000 → x.addr.toNat % 4 = 0 →
        Answers (.proxyResponse p e) s (fun t => (t.proxyEntry p e).busy = false ∧ t.mem = s.mem ∧ t.fld (pgPlat p + 0x108) 3 3 = 1 ∧
          (t.proxyEntry p e).resp = natLE 4 (bitsOf x.ctl 15 8 + 256) ++ natLE 4 (s.nat x.addr.toNat 4) ++ natLE 8 0)) ∧
    (∀ w, Answers (.platIrqStat p w) s (fun t => t.fld (pgPlat p + 0x108) 3 0 = s.fld (pgPlat p + 0x108) 3 0 &&& (15 - bitsOf w 3 0) ∧ RegsBut s t [pgPlat p + 0x108])) ∧
    ((s.port p).unreported = true → Answers (.completionHoldoff p) s (fun t => (t.port p).unreported = false ∧ t.fld (pgPlat p + 0x108) 1 1 = 1 ∧ RegsBut s t [pgPlat p + 0x108])) ∧
    (s.controls p = true →
      Answers (.peerTraining p true) s (fun t => (t.port p).peerTrained = true ∧ t.fld (pgPlat p + 0x100) 1 1 = 1 ∧ t.fld (pgPlat p + 0x100) 3 3 = 1 ∧ t.mem = s.mem) ∧
      (∀ fell, Answers (.peerLost p fell) s (fun t => (t.port p).peerTrained = false ∧ t.fld (pgPlat p + 0x100) 3 3 = 0 ∧ counted s t (pgPlat p + 0x134) ∧
        t.fld (pgPlat p + 0x100) 1 1 = if fell then 0 else s.fld (pgPlat p + 0x100) 1 1)) ∧
      Answers (.peerIrq p) s (fun t => (t.port p).peerIrqSeen = true ∧ t.mem = s.mem ∧ t.regs = s.regs))

/-! ### Register pages and counters -/

namespace Sys2Proof.Claims

open Sys2Proof Sys2Proof.Machine

/-- A page of this device, with its block. -/
def pageOf (s : State) (page : Nat) (b : Blk) (i : Nat) : Prop := page % 0x1000 = 0 ∧ s.block page = some (b, i)

/-- The records of an error that a page detects: the registers that they change (R463). -/
def errRegs (page : Nat) : List Nat := [page + 0x20, page + 0x28, page + 0x2C]

end Sys2Proof.Claims

/-- R13, R459: a write of a register by a writer that its block refuses, or of an unlisted encoding, is recorded as REG_ACCESS and changes no other register; a misaligned
one is ADDR_ALIGN and one that reaches an unmapped word ADDR_UNMAPPED on the writer's page. -/
def Obligations.RefusedWritesAreRecorded : Prop :=
  ∀ (s : State) (who : Writer) (a : Nat) (w : Word), s.live = true →
    let page := a / 0x1000 * 0x1000
    (a % 4 = 0 → (s.regAt a).isSome = true → mayWrite s who a = false → Answers (.registerWrite who a w) s (fun t =>
      stuck t page 0x5103 ∧ RegsBut s t (errRegs page) ∧ t.mem = s.mem)) ∧
    (a % 4 = 0 → s.regAt a = none → Answers (.registerWrite who a w) s (fun t =>
      stuck t (writerPage who) 0x5101 ∧ RegsBut s t (errRegs (writerPage who)) ∧ t.mem = s.mem)) ∧
    (a % 4 ≠ 0 → Answers (.registerWrite who a w) s (fun t =>
      stuck t (writerPage who) (if (s.regAt (a / 4 * 4)).isSome && (s.regAt (a / 4 * 4 + 4)).isSome then 0x5102 else 0x5101) ∧ RegsBut s t (errRegs (writerPage who)) ∧ t.mem = s.mem)) ∧
    (mayWrite s who (pgTick + 0x100) = true →
      (10 ≤ bitsOf w 8 0 → bitsOf w 8 0 ≤ 500 → Answers (.registerWrite who (pgTick + 0x100) w) s (fun t =>
        t.fld (pgTick + 0x100) 8 0 = bitsOf w 8 0 ∧ t.fld (pgTick + 0x100) 9 9 = bitsOf w 9 9 ∧ RegsBut s t [pgTick + 0x100])) ∧
      (bitsOf w 8 0 < 10 → Answers (.registerWrite who (pgTick + 0x100) w) s (fun t =>
        t.fld (pgTick + 0x100) 8 0 = s.fld (pgTick + 0x100) 8 0 ∧ t.fld (pgTick + 0x100) 9 9 = bitsOf w 9 9 ∧ stuck t pgTick 0x5103)))

/-- R460, R461, R463, R464, R466: a read of ERR_NEXT takes the oldest record, ones clear sticky bits, VALID clears the first record, an injected code is recorded by a block that
detects it and refused by one that does not, and a read of HUB_TIME_LO captures the high half. -/
def Obligations.ErrorRecordsAreReadAndCleared : Prop :=
  ∀ (s : State) (page : Nat) (b : Blk) (i : Nat) (who : Writer) (w : Word), s.live = true → pageOf s page b i →
    (∀ x q, smSorted s.errq = true → smGet s.errq [] page = x :: q → Answers (.errNext .monitor page) s (fun t =>
      smGet t.errq [] page = q ∧ page ∉ t.errOvf ∧ t.mon.words = [(s.errNextWord page).toNat] ∧ t.regs = s.regs)) ∧
    (mayWrite s who (page + 0x20) = true → Answers (.errSticky who page w) s (fun t => RegsBut s t [page + 0x20] ∧ t.errq = s.errq ∧
      ∀ c, 1 ≤ c → c ≤ 14 → t.fld (page + 0x20) c c = s.fld (page + 0x20) c c * (1 - bitsOf w c c))) ∧
    (mayWrite s who (page + 0x28) = true → Answers (.errFirst who page w) s (fun t => RegsBut s t [page + 0x28] ∧ t.errq = s.errq ∧
      t.reg (page + 0x28) = if bitsOf w 31 31 = 1 then 0 else s.reg (page + 0x28))) ∧
    (mayWrite s who (page + 0x34) = true → bitsOf w 31 31 = 1 → bitsOf w 30 30 = 0 → s.fld (page + 0x34) 30 30 = 0 →
      let code := bitsOf w 15 0
      (State.detectsCode b code = true → Answers (.errInject who page w) s (fun t => stuck t page code ∧ counted s t (page + 0x2C) ∧
        RegsBut s t ((page + 0x34) :: errRegs page) ∧ t.mem = s.mem ∧
        (State.countedCode (code % 4096) = false → (smGet s.errq [] page).length < 8 → smGet t.errq [] page =
          smGet s.errq [] page ++ [BitVec.ofNat 32 (code + bitsOf w 21 16 * 65536 + 2 ^ 31)]))) ∧
      (State.detectsCode b code = false → Answers (.errInject who page w) s (fun t => stuck t page 0x5103 ∧ t.mem = s.mem))) ∧
    (∀ h, Answers (.hubTimeLo h) s (fun t => t.reg (pgHub (State.sideNo h) + 0x104) = BitVec.ofNat 32 (s.now / 2 ^ 32) ∧ RegsBut s t [pgHub (State.sideNo h) + 0x104]))

/-- R470, R473, R474: CNT_GO starts and stops counters but refuses both for one; a read of CNT_LO captures the counter for its reader; a write sets all 48 bits and the reload
value; a counter that wraps starts from 0 or its reload value and sets its overflow bit. -/
def Obligations.CountersStartCaptureAndWrap : Prop :=
  ∀ (s : State) (page : Nat) (b : Blk) (i n : Nat) (who : Writer) (w : Word), s.live = true → pageOf s page b i → n < blkCounters b →
    let sel := page + 0x120 + 0x10 * n
    let k := sel + 4
    (mayWrite s who (page + 0x100) = true →
      ((∀ j, j < blkCounters b → bitsOf w j j = 0 ∨ bitsOf w (16 + j) (16 + j) = 0) → Answers (.cntGo who page w) s (fun t => t.cnt = s.cnt ∧
        t.fld sel 14 14 = if bitsOf w n n = 1 then 1 else if bitsOf w (16 + n) (16 + n) = 1 then 0 else s.fld sel 14 14)) ∧
      (bitsOf w n n = 1 → bitsOf w (16 + n) (16 + n) = 1 → Answers (.cntGo who page w) s (fun t => stuck t page 0x5103 ∧ t.reg sel = s.reg sel ∧ t.cnt = s.cnt))) ∧
    (Answers (.cntLoRead .monitor page n) s (fun t => t.mon.words = [s.counter k % 2 ^ 32] ∧ smGet t.cntCapture 0 (State.captureKey .monitor k) = s.counter k ∧
      t.regs = s.regs ∧ t.cnt = s.cnt)) ∧
    (mayWrite s who k = true → Answers (.cntLoWrite who page n w) s (fun t =>
      let v := smGet s.cntHeld 0 k % 65536 * 2 ^ 32 + w.toNat
      smGet t.cnt 0 k = v ∧ smGet t.cntReload 0 k = v ∧ t.regs = s.regs ∧ t.mem = s.mem)) ∧
    (∀ bundle, 2 ^ 48 ≤ smGet s.cnt 0 k → Answers (.counterWrap page n bundle) s (fun t => t.fld (page + 0x104) n n = 1 ∧
      smGet t.cnt 0 k = if s.fld sel 15 15 = 1 then smGet s.cntReload 0 k else 0))

/-! ### Security and the serial monitor -/

namespace Sys2Proof.Claims

open Sys2Proof Sys2Proof.Machine

/-- An owner command runs and its record keeps R397's form and freshness. -/
def ownerRuns (s : State) (cmd : Nat) (bs : List Byte) : Prop :=
  s.live = true ∧ s.service ≠ 3 ∧ s.fld (pgSec + 0x140) 2 0 = 1 ∧ bs = s.ownerRecord ∧ State.orCmd bs = cmd ∧ s.orFresh bs = true

/-- An owner command has ended with a result, and a new challenge is drawn. -/
def ownerEnded (s t : State) (res : Nat) : Prop := t.fld (pgSec + 0x140) 2 0 = res ∧ t.free = s.free + 1

/-- The monitor serves a command (R475, R476). -/
def monOpen (s : State) (c : MonCommand) : Prop := s.live = true ∧ s.sec.life ≠ 5 ∧ s.mon.testing = none ∧ s.serves c = true

/-- A monitor command has ended with OK and these words. -/
def monOk (t : State) (ws : List Nat) : Prop := t.mon.reply = .ok ∧ t.mon.words = ws

/-- A monitor command was refused, and counted (R480). -/
def monRefused (s t : State) : Prop := t.mon.reply = .err .denied ∧ counted s t (pgMon + 0x114)

end Sys2Proof.Claims

/-- R395–R397, R420: each owner command has its one effect on the fuses where its own state and its signature allow it; one that is not permitted, stale, wrongly signed or made in
a handover ends with its result and changes nothing; TO_RETURNED erases the device step by step, burns the lifecycle fuse last and resets the device (one step in a nanosecond is the model's choice, log entry 144). -/
def Sys2Proof.Claims.OwnerCommandsBurnWhatTheyName : Prop :=
  ∀ (s : State) (bs : List Byte),
    let a := State.orArg bs
    let own := s.fuses.lifecycle = 2 ∨ s.fuses.lifecycle = 3
    let ends := fun (t : State) (signed : Bool) (f : Fuses) => t.mem = s.mem ∧ if signed then t.fuses = f ∧ ownerEnded s t 2 else t.fuses = s.fuses ∧ ownerEnded s t 3
    (ownerRuns s 1 bs → own → a ≤ 3 → a ∉ s.fuses.ownerSet → Answers .setOwnerSlot s (fun t => ends t
      (if s.fuses.lifecycle = 2 then State.orSigner bs = 0 && zeroAt bs 0x70 133 && zeroAt bs 0x100 132 else s.orSigned bs)
      { s.fuses with
        ownerSet := a :: s.fuses.ownerSet
        ownerHash := smPut s.fuses.ownerHash a ((bs.drop 0x30).take 64) })) ∧
    (ownerRuns s 2 bs → own → a ≤ 3 → (∃ k, k < 4 ∧ k ≠ a ∧ s.slotGood k = true) → Answers .revokeSlot s (fun t => ends t
      (State.orSigner bs ≠ a && s.orSigned bs) { s.fuses with ownerRevoked := a :: s.fuses.ownerRevoked.filter (· ≠ a) })) ∧
    (ownerRuns s 3 bs → own → s.fuses.rollback < a → a ≤ s.fld (pgSec + 0x108) 11 5 → Answers .advanceRollback s (fun t => ends t (s.orSigned bs)
      { s.fuses with rollback := a })) ∧
    (ownerRuns s 4 bs → s.fuses.lifecycle = 2 → s.fuses.ownerSet ≠ [] → Answers .toField s (fun t => ends t (s.orSigned bs) { s.fuses with lifecycle := 3 })) ∧
    (ownerRuns s 5 bs → s.fuses.lifecycle = 3 → s.safety.islA.park.level = true → s.safety.islB.park.level = true → Answers .toReturned s (fun t =>
      t.fuses = s.fuses ∧ t.mem = s.mem ∧ if s.orSigned bs then t.start.hold = .erasing 0 ∧ ownerEnded s t 2 else t.start = s.start ∧ ownerEnded s t 3)) ∧
    (∀ k, s.start.hold = .erasing k → s.pending = [] → ∃ t, step s = .next t ∧
      (k = 0 → t.mem = [] ∧ t.safety.ttDigest = []) ∧ (k = 1 → t.dram.keyTable = [] ∧ t.sec.sessions = [] ∧ t.sec.handles = []) ∧
      (2 ≤ k → k ≤ 5 → k - 2 ∈ t.fuses.ownerRevoked) ∧ (k = 6 → t.fuses.seed = none) ∧
      if k < 7 then t.start.hold = .erasing (k + 1) ∧ t.fuses.lifecycle = s.fuses.lifecycle
      else t.fuses.lifecycle = max s.fuses.lifecycle 4 ∧ t.start.hold = .warm ∧ t.start.coldOwed = true ∧ t.pins.safeA = true ∧ t.pins.safeB = true) ∧
    (ownerRuns s 6 bs → (own ∨ s.fuses.lifecycle = 4) → Answers .toScrapped s (fun t => ends t
      (if s.fuses.lifecycle = 4 then State.orVerified bs s.fuses.rom.test else s.orSigned bs) { s.fuses with lifecycle := 5 })) ∧
    (∀ c ∈ [((1 : Nat), Instr.setOwnerSlot), (2, .revokeSlot), (3, .advanceRollback), (4, .toField), (5, .toReturned), (6, .toScrapped)],
      s.live = true → s.fld (pgSec + 0x140) 2 0 = 1 → bs = s.ownerRecord → State.orCmd bs = c.1 →
        (s.service = 3 → Answers c.2 s (fun t => ownerEnded s t 6 ∧ t.fuses = s.fuses)) ∧
        (s.service ≠ 3 → s.fuses.lifecycle < 2 → Answers c.2 s (fun t => ownerEnded s t 5 ∧ t.fuses = s.fuses)) ∧
        (s.service ≠ 3 → s.orFresh bs = false → Answers c.2 s (fun t => t.fuses = s.fuses ∧ (ownerEnded s t 4 ∨ ownerEnded s t 5))))

/-- R401: after 2²⁰ requests a reseed of a healthy generator starts its count again, and a failed health test of either source marks it and the generator unhealthy. -/
def Sys2Proof.Claims.EntropyHealthIsKept : Prop :=
  ∀ (s : State), s.live = true →
    (s.fld (pgSec + 0x10C) 0 0 = 1 → 2 ^ 20 ≤ s.sec.drbgCount → Answers .drbgReseed s (fun t => t.sec.drbgCount = 0 ∧ t.regs = s.regs ∧ t.mem = s.mem)) ∧
    (s.sec.drbgCount < 2 ^ 20 → Answers .drbgReseed s (fun t => t = s)) ∧
    (∀ h, Answers (.trngFail h) s (fun t => t.fld (pgSec + 0x10C) 1 0 = 0 ∧ counted s t (pgSec + 0x150) ∧ stuck t pgSec 0x5B03 ∧ t.mem = s.mem))

/-- R475–R478: the monitor answers what the lifecycle state serves and counts what it refuses: identity, rate, tokens, status, reads, counters, error records and writes. -/
def Obligations.MonitorServesItsCommands : Prop :=
  ∀ (s : State),
    (monOpen s .ident → Answers .monId s (fun t => t.mon.reply = .ok ∧ t.mon.words.length = 11 ∧ t.mon.words.getD 4 0 = s.sec.life ∧
      t.mon.words.getD 5 0 = s.sec.bootId ∧ t.regs = s.regs)) ∧
    (∀ rate, monOpen s .baud → (rate ∈ baudRates → Answers (.monBaud rate) s (fun t => monOk t [] ∧ t.fld (pgMon + 0x104) 21 0 = rate)) ∧
      (rate ∉ baudRates → Answers (.monBaud rate) s (fun t => t.mon.reply = .err .badArg ∧ t.regs = s.regs))) ∧
    (∀ tok : List Byte, monOpen s .token → s.mon.tokenAgainAt ≤ s.now → tok.length = 308 →
      Answers (.monToken tok) s (fun t => if s.tokenOk tok then t.mon.token = some (bytesNat tok 6 1 % 16, bytesNat tok 0x20 8) ∧ monOk t []
        else monRefused s t ∧ counted s t (pgMon + 0x118) ∧ t.mon.token = s.mon.token ∧ t.mon.tokenAgainAt = s.now + 1000000000)) ∧
    (monOpen s .token → Answers .monEnd s (fun t => t.mon.token = none ∧ monOk t [])) ∧
    (∀ scope expiry, s.live = true → s.mon.token = some (scope, expiry) → expiry ≤ s.now → Answers .tokenExpiry s (fun t => t.mon.token = none ∧ t.regs = s.regs)) ∧
    (∀ ok, monOpen s .unlock → s.mon.unlockAgainAt ≤ s.now → Answers (.monUnlock ok) s (fun t =>
      if ok then t.mon.testModes = true ∧ monOk t [] else monRefused s t ∧ t.mon.testModes = s.mon.testModes ∧ t.mon.unlockAgainAt = s.now + 1000000000)) ∧
    (monOpen s (.scoped .read) →
      Answers .monStat s (fun t => monOk t ([pgService + 0x104, pgSafety + 0x100, pgTick + 0x104, pgPwr + 0x104, pgCool + 0x104].map
        (fun a => (s.regValue .monitor a).toNat) ++ [s.now % 2 ^ 64]) ∧ t.regs = s.regs) ∧
      (∀ a, a % 4 = 0 → (s.regAt a).isSome = true → Answers (.monRd a 1) s (fun t => monOk t [(s.regValue .monitor a).toNat])) ∧
      (∀ a n, a % 4 = 0 → 1 ≤ n → n ≤ 256 → s.regAt a = none → Answers (.monRd a n) s (fun t => t.mon.reply = .err .unmapped ∧ t.mon.words = [])) ∧
      (∀ page, s.countersOf page ≠ 0 → Answers (.monCnt page) s (fun t => t.mon.reply = .ok ∧ t.mon.words.length = 4 * s.countersOf page ∧ t.cnt = s.cnt)) ∧
      Answers (.monErr none) s (fun t => t.mon.reply = .ok ∧ t.mon.words.length = 3 * s.errorPages.length ∧ t.errq = s.errq) ∧
      (∀ page b i, pageOf s page b i → smGet s.errq [] page = [] → Answers (.monErr (some page)) s (fun t => monOk t [0] ∧ t.errq = s.errq))) ∧
    (monOpen s (.scoped .write) →
      (∀ a w, a % 4 = 0 → (s.regAt a).isSome = true → Answers (.monWr a w) s (fun t => t.mon.reply = .ok ∧ t.regs = (s.writeReg .monitor a w).regs)) ∧
      (∀ page b i, pageOf s page b i → b ≠ .isl → b ≠ .sec → Answers (.monErrclr page) s (fun t => t.mon.reply = .ok ∧ t.fld (page + 0x20) 14 1 = 0 ∧ t.reg (page + 0x28) = 0 ∧
        RegsBut s t [page + 0x20, page + 0x28]))) ∧
    (s.live = true → s.sec.life = 3 → s.romMonitor = false → s.mon.testing = none → s.mon.token = none → ∀ a w, Answers (.monWr a w) s (fun t => monRefused s t ∧
      RegsBut s t [pgMon + 0x114] ∧ t.mem = s.mem))

/-- R398, R399, R478, R479: LOAD writes its bytes where their check holds and zeros where not, BOOT takes a loaded image that verifies and stops the start of one that does not, and
TEST keeps a unit from new work until its pass is reported. -/
def Obligations.MonitorLoadsBootsAndTests : Prop :=
  ∀ (s : State), MemInv s →
    (∀ l : LoadInput, monOpen s (.scoped .load) → s.service ≠ 2 → State.loadFits l.off l.len = true → l.data.length = l.len →
      let a := psramBase 0 + l.off
      let kept := fun (t : State) => ∀ b, b < a ∨ a + l.len ≤ b → memByte t.mem b = memByte s.mem b
      (crc32c l.data = l.crc.toNat → Answers (.monLoad l) s (fun t => monOk t [] ∧ t.bytes a l.len = l.data ∧ t.mon.loaded = some (l.off, l.len) ∧ kept t)) ∧
      (crc32c l.data ≠ l.crc.toNat → Answers (.monLoad l) s (fun t => t.mon.reply = .err .crc ∧ (∀ b, a ≤ b → b < a + l.len → memByte t.mem b = 0) ∧ kept t)) ∧
      Answers (.monLoadTimeout l.off l.len) s (fun t => t.mon.reply = .err .crc ∧ (∀ b, a ≤ b → b < a + l.len → memByte t.mem b = 0) ∧ kept t)) ∧
    (∀ off image o n, monOpen s .boot → s.mon.loaded = some (o, n) → o ≤ off → off + 512 ≤ o + n → s.start.step = 2 →
      Answers (.monBoot off image) s (fun t => if s.imageOk image then monOk t [] ∧ t.mon.booted = some image ∧ t.start = s.start
        else monRefused s t ∧ t.start.stopped = true ∧ stuck t pgSec 0x5B01)) ∧
    (∀ u, monOpen s (.scoped .test) → u < 64 → s.tileServes u = true → s.safetyNeeds (u / 2) = false → Answers (.monTest (.tile u)) s (fun t =>
      t.mon.testing = some (.tile u) ∧ t.mon.testAt = s.now ∧ (t.tile u).testAsked = true ∧ t.regs = s.regs)) ∧
    (∀ u, s.live = true → s.mon.testing = some (.tile u) → s.tileServes u = true → s.tileTaken u = false → (s.tile u).coupled = false →
      Answers (.testReport true) s (fun t => t.mon.testing = none ∧ monOk t [1] ∧ (t.tile u).testAsked = false ∧ (t.tile u).lastPass = s.now) ∧
      Answers (.testReport false) s (fun t => t.mon.testing = none ∧ monOk t [0] ∧ (t.tile u).health = .verdict))

/-- R395–R397, R420: each owner command has its one effect on the fuses where its own state and its signature allow it; one that is not permitted, stale, wrongly signed or made in a handover ends with its result and changes nothing; TO_RETURNED erases the device step by step, burns the lifecycle fuse last and resets the device (one step in a nanosecond is the model's choice, log entry 144). R401: after 2²⁰ requests a reseed of a healthy generator starts its count again, and a failed health test of either source marks it and the generator unhealthy. -/
def Obligations.OwnerCommandsAndEntropyKeepTheirChecks : Prop :=
  Sys2Proof.Claims.OwnerCommandsBurnWhatTheyName ∧ Sys2Proof.Claims.EntropyHealthIsKept

/-! ### The convoy -/

namespace Sys2Proof.Claims

open Sys2Proof Sys2Proof.Machine

/-- A message that has just been sent on the convoy ports. -/
def said (s t : State) (m : Sent) : Prop := t.convoy.sent = s.convoy.sent ++ [m]

/-- This seat is a live seat of the convoy other than the leader. -/
def follows (s : State) : Prop := s.live = true ∧ s.isMember = true ∧ s.leads = false

/-- A Caravan packet reaches this member by a port that is up, from a live seat, and passes every check of R379 but that of its tag; its operation keeps R381's form. -/
def packetTaken (s : State) (p : CaravanPacket) : Prop :=
  s.live = true ∧ (s.arrives p.port p.udp p.version p.convoy).1 = true ∧ s.isMember = true ∧ p.dst = s.ownSeat ∧
  p.keyEpoch = (s.seat p.src).keyEpoch ∧ s.seatLive p.src = true ∧ (s.seat p.src).manifestOk = true ∧ State.opBad p.op = false ∧
  p.len = (State.caravanData p.op).length

/-- A packet with its tag and a PSN not seen before, from a seat toward which nothing is unacknowledged or waits. -/
def heard (s : State) (p : CaravanPacket) : Prop :=
  packetTaken s p ∧ p.tag = s.caravanTag p ∧ (s.peer p.src).unacked = [] ∧ (s.peer p.src).waiting = [] ∧ State.psnSeen (s.peer p.src) p.psn = false

/-- An operation is on its way to a seat: its packet is sealed under the pair's keys and kept until the seat acknowledges it. -/
def posted (t : State) (seat : Nat) (o : CaravanOp) : Prop :=
  ∃ u ∈ (t.peer seat).unacked, u.pkt.op = o ∧ u.pkt.src = t.ownSeat ∧ u.pkt.dst = seat ∧ u.pkt.tag = t.caravanTag u.pkt ∧
    u.wire = State.caravanHeader u.pkt ++ (t.caravanSeal u.pkt).1 ++ u.pkt.tag

end Sys2Proof.Claims

/-- R365–R369, R394: a port's link comes up when it is enabled and its partner agrees, and its loss is counted; a port answers neighbor solicitations and echo requests for its address,
remembers the neighbours that answer it and counts every frame that it discards; station time steps forward over an offset below −1 ms and is slewed over another. -/
def Obligations.ConvoyPortsAndTimeFollow : Prop :=
  ∀ (s : State), s.live = true →
    (∀ p, p < 4 → let st := pgEth p + 0x104
      let ctl := pgEth p + 0x100
      (s.fld st 0 0 = 1 → Answers (.linkDown p) s (fun t => t.fld st 2 0 = 0 ∧ counted s t (pgEth p + 0x12C) ∧ RegsBut s t [st, pgEth p + 0x12C])) ∧
      (∀ partner, s.fld ctl 3 3 = 1 → s.fld st 0 0 = 0 →
        (s.fld ctl 2 2 = 0 ∨ partner = some (s.fld ctl 1 0) → Answers (.linkUp p partner) s (fun t =>
          t.fld st 0 0 = 1 ∧ t.fld st 1 1 = s.fld ctl 2 2 ∧ t.fld st 2 2 = 1 ∧ RegsBut s t [st])) ∧
        (s.fld ctl 2 2 = 1 → partner ≠ some (s.fld ctl 1 0) → Answers (.linkUp p partner) s (fun t => t = s))) ∧
      (∀ f : EthFrame, s.fld st 0 0 = 1 →
        (State.frameTaken f = true →
          (f.body = .neighborSolicit (s.ethAddr p) → Answers (.ethernetFrame p f) s (fun t => said s t (.neighborAdvert p) ∧ RegsBut s t [pgEth p + 0x120])) ∧
          (∀ a, f.body = .neighborAdvert a → Answers (.ethernetFrame p f) s (fun t => (p, a) ∈ t.convoy.neighbors ∧ RegsBut s t [pgEth p + 0x120])) ∧
          (∀ bs, f.body = .echoRequest (s.ethAddr p) bs → Answers (.ethernetFrame p f) s (fun t =>
            said s t (.echoReply p bs) ∧ t.reg (pgEth p + 0x120) = BitVec.ofNat 32 (min 0xFFFFFFFF ((s.reg (pgEth p + 0x120)).toNat + f.fecCorr)) ∧
            RegsBut s t [pgEth p + 0x120]))) ∧
        (State.frameTaken f = false ∨ f.body = .macControl ∨ f.body = .other ∨ (∃ a, a ≠ s.ethAddr p ∧ (f.body = .neighborSolicit a ∨ ∃ bs, f.body = .echoRequest a bs)) →
          Answers (.ethernetFrame p f) s (fun t => t.convoy = s.convoy ∧ counted s t (pgEth p + 0x128) ∧
            RegsBut s t [pgEth p + 0x120, pgEth p + 0x124, pgEth p + 0x128])))) ∧
    (∀ x : PtpSync,
      (s.ptpFollows x = false → Answers (.ptpSync x) s (fun t => t = s)) ∧
      (s.ptpFollows x = true → let d := s.ptpOffset x
        (d < -1000000 → Answers (.ptpSync x) s (fun t => t.now = s.now + d.natAbs ∧ t.convoy.slew = 0 ∧ t.convoy.ptpMaster = some (x.master, s.now) ∧ t.mem = s.mem)) ∧
        (-1000000 ≤ d → Answers (.ptpSync x) s (fun t => t.now = s.now ∧ t.convoy.slew = -d ∧ t.convoy.ptpMaster = some (x.master, s.now) ∧ t.mem = s.mem)) ∧
        (d.natAbs ≤ 100 → 15 ≤ s.convoy.ptpGood → Answers (.ptpSync x) s (fun t => t.fld (pgCvy + 0x104) 3 3 = 1)) ∧
        (1000 < d.natAbs → Answers (.ptpSync x) s (fun t => t.fld (pgCvy + 0x104) 3 3 = 0))))

/-- R370, R371, R373: a JOIN as leader founds the convoy at seat 0 and any other sends its Manifest to the leader; the leader admits a device that passes its checks to the lowest free
seat with a new epoch and posts it the roster; the joining device takes the seat that the roster gives it, and heartbeats and acknowledgements keep a seat heard and its lease running. -/
def Obligations.SeatsAreAdmittedAndHeard : Prop :=
  ∀ (s : State),
    (∀ who, s.live = true → mayWrite s who (pgCvy + 0x100) = true → s.depotOpen = true → (s.cvyState = 0 ∨ s.cvyState = 3) →
      (s.fld (pgCvy + 0x100) 1 0 = 2 → Answers (.join who) s (fun t => t.cvyState = 2 ∧ t.leads = true ∧ t.ownSeat = 0 ∧ t.liveSeats = [0] ∧
        t.memEpoch = (s.memEpoch + 1) % 2 ^ 32)) ∧
      (s.fld (pgCvy + 0x100) 1 0 ≠ 2 → Answers (.join who) s (fun t => t.cvyState = 1 ∧ t.leads = false ∧ t.liveSeats = [] ∧
        ∀ p, s.nextPort = some p →
          Sent.join p s.leaderAddr ((s.freshBytes 64).2.signManifest 0 (s.freshBytes 64).1).1 (s.fld (pgCvy + 0x100) 1 0 = 3) ∈ t.convoy.sent))) ∧
    (∀ j : JoinRequest, s.live = true → s.leads = true → (s.arrives j.port j.udp j.version j.convoy).1 = true →
      let refused := Answers (.joinRequest j) s (fun t => said s t (.refused (j.addrs.headD 0)) ∧ t.regs = s.regs ∧ t.convoy.roster = s.convoy.roster)
      (∀ n, (List.range 256).find? (fun n => !s.seatLive n) = some n →
        (j.chainOk = true → State.manifestGood j.manifest j.attestKey = true → s.seatLive s.ownSeat = true → (s.seat n).keyEpoch ≠ s.memEpoch + 1 →
          Answers (.joinRequest j) s (fun t =>
            t.seat n = { live := true, keyEpoch := s.memEpoch + 1, addrs := j.addrs, manifest := j.manifest, attestKey := j.attestKey, manifestOk := true,
                         standby := j.standby, lastBeat := s.now } ∧
            t.memEpoch = (s.memEpoch + 1) % 2 ^ 32 ∧ ∃ infos, t.seatInfo n ∈ infos ∧ posted t n (.roster infos))) ∧
        ((j.chainOk && State.manifestGood j.manifest j.attestKey) = false → refused)) ∧
      ((List.range 256).find? (fun n => !s.seatLive n) = none → refused)) ∧
    (∀ p seats, s.live = true → s.cvyState = 1 → p.op = .roster seats → (s.arrives p.port p.udp p.version p.convoy).1 = true → p.dst < 256 →
      (∀ x, seats.find? (fun x => x.seat = p.dst && x.live) = some x → let j := s.seated p seats x
        (j.seat p.src).manifestOk = true → p.tag = j.caravanTag p → Answers (.rosterUpdate p) s (fun t =>
          t.cvyState = 2 ∧ t.ownSeat = p.dst ∧ t.convoy.leaderSeat = p.src ∧ t.convoy.leaseOn = true ∧ t.convoy.leaseAt = s.now + 8000000)) ∧
      (seats.find? (fun x => x.seat = p.dst && x.live) = none → Answers (.rosterUpdate p) s (fun t => t.cvyState = 0 ∧ stuck t pgCvy 0x6D05))) ∧
    (follows s →
      (s.now < s.convoy.beatAt + 1000000 → Answers .heartbeatTimer s (fun t => t = s)) ∧
      (s.convoy.beatAt + 1000000 ≤ s.now → Answers .heartbeatTimer s (fun t => t.convoy.beatAt = s.now ∧ t.regs = s.regs ∧
        ∀ n ∈ s.watchers, s.roomFor n = true → ∃ a b c, posted t n (.heartbeat a b c)))) ∧
    (∀ p steps suspects claims, heard s p → p.op = .heartbeat steps suspects claims →
      (s.leads = false → Answers (.heartbeat p) s (fun t => (t.seat p.src).lastBeat = s.now ∧ t.regs = s.regs)) ∧
      (s.leads = true → claims = [] → Answers (.heartbeat p) s (fun t => (t.seat p.src).lastBeat = s.now ∧
        posted t p.src (.ack (((smPut s.convoy.roster p.src { s.seat p.src with lastBeat := s.now }).filter (fun e => decide (p.memEpoch < e.2.keyEpoch))).map
          (fun e => s.seatInfo e.1)) false)))) ∧
    (∀ p seats, heard s p → s.leads = false → p.op = .ack seats false → (∀ x ∈ seats, x.seat = s.ownSeat → x.live = true) →
      (s.memEpoch < p.memEpoch ∨ (p.memEpoch = s.memEpoch ∧ p.src = s.convoy.leaderSeat) → Answers (.acknowledgement p) s (fun t =>
        t.cvyState = 2 ∧ t.convoy.leaderSeat = p.src ∧ t.convoy.leaseOn = true ∧ t.convoy.leaseAt = s.now + 8000000)) ∧
      (p.memEpoch < s.memEpoch → Answers (.acknowledgement p) s (fun t => t.regs = s.regs ∧ t.convoy.leaseAt = s.convoy.leaseAt)))

/-- R374–R376: a seat that is silent for 4 ms, leaves or is fenced is no longer live and opens a new epoch; a seat whose lease has run out, that is fenced, or a leader that has lost
its majority fences itself; the standby claims the lead of a silent leader that it can replace. -/
def Obligations.SeatsAreFenced : Prop :=
  ∀ (s : State),
    let out := fun (t : State) => t.cvyState = 3 ∧ t.leads = false ∧ t.convoy.leaseOn = false ∧ t.convoy.ops = [] ∧ stuck t pgCvy 0x6D02
    let fenced := fun (t : State) (n : Nat) => t.seatLive n = false ∧ t.memEpoch = (s.memEpoch + 1) % 2 ^ 32 ∧ stuck t pgCvy 0x6D01
    (s.live = true → s.leads = true → ∀ n, n ≠ s.ownSeat → s.seatLive n = true → (s.seat n).lastBeat + 4000000 ≤ s.now →
      Answers (.seatDead n) s (fun t => fenced t n)) ∧
    (∀ p, heard s p → s.leads = true → p.op = .leave → p.src ≠ s.ownSeat → Answers (.leaveMessage p) s (fun t => fenced t p.src)) ∧
    (∀ p n e, heard s p → p.op = .fence n e →
      ((s.seat n).keyEpoch < e → n = s.ownSeat → Answers (.convoyFence p) s out) ∧
      ((s.seat n).keyEpoch < e → n ≠ s.ownSeat → s.seatLive n = true →
        Answers (.convoyFence p) s (fun t => t.seatLive n = false ∧ t.memEpoch = max s.memEpoch e % 2 ^ 32 ∧ t.cvyState = 2)) ∧
      (e ≤ (s.seat n).keyEpoch → Answers (.convoyFence p) s (fun t => t.regs = s.regs ∧ t.convoy.roster = s.convoy.roster))) ∧
    (∀ p seats, heard s p → s.leads = false → (s.memEpoch < p.memEpoch ∨ (p.memEpoch = s.memEpoch ∧ p.src = s.convoy.leaderSeat)) → p.op = .ack seats true →
      Answers (.acknowledgement p) s out) ∧
    (follows s → s.convoy.leaseOn = true → s.convoy.leaseAt ≤ s.now →
      ((s.standsBy && s.majorityHeard 2000000 false) = false → Answers .leaseExpiry s out) ∧
      (s.standsBy = true → s.majorityHeard 2000000 false = true → Answers .standbyClaim s (fun t => t.leads = true ∧ t.convoy.leaderSeat = s.ownSeat ∧
        t.seatLive s.convoy.leaderSeat = false))) ∧
    (s.live = true → s.leads = true → s.convoy.leadSince + 8000000 ≤ s.now →
      Answers .leaderSelfFence s (fun t => if s.majorityHeard 8000000 true then t = s else out t)) ∧
    (∀ who, s.live = true → mayWrite s who (pgCvy + 0x100) = true → s.isMember = true → Answers (.leave who) s out)

/-- R379–R382: a packet of an old key epoch, with a bad tag or for another UDP port is counted and has no effect, one received before is only acknowledged again, and a granted memory
write lands once and is answered; a packet that is not acknowledged in its timeout is sent again until its tries run out. -/
def Obligations.CaravanPacketsLandOnce : Prop :=
  ∀ (s : State),
    (∀ p, packetTaken s p →
      (∀ e, e ≠ p.keyEpoch → Answers (.caravanPacket { p with keyEpoch := e }) s (fun t => counted s t (pgCvy + 0x148) ∧ t.mem = s.mem ∧ t.convoy = s.convoy)) ∧
      (∀ u, u ≠ p.udp → Answers (.caravanPacket { p with udp := u }) s (fun t => counted s t (pgEth p.port + 0x128) ∧ t.mem = s.mem ∧ t.convoy = s.convoy)) ∧
      (p.tag ≠ s.caravanTag p → Answers (.caravanPacket p) s (fun t => counted s t (pgCvy + 0x144) ∧ t.mem = s.mem ∧ t.convoy = s.convoy)) ∧
      (p.tag = s.caravanTag p → p.op ≠ .ackOnly → State.psnSeen (s.peer p.src) p.psn = true → Answers (.caravanPacket p) s (fun t =>
        (t.peer p.src).ackOwed = true ∧ t.mem = s.mem ∧ t.regs = s.regs))) ∧
    (∀ p op a data, heard s p → p.op = .memWrite op a data → s.devHeld a data.length = false →
      (MemInv s → s.dram.marked = [] → (∀ i, i < data.length → s.twinKey (a + i) = none) → s.granted a data.length p.tenant 17 = true →
        Answers (.caravanPacket p) s (fun t => t.bytes a data.length = data ∧ (∀ b, b < a ∨ a + data.length ≤ b → memByte t.mem b = memByte s.mem b) ∧
          posted t p.src (.completion op msOk))) ∧
      (s.granted a data.length p.tenant 17 = false → Answers (.caravanPacket p) s (fun t => t.mem = s.mem ∧ counted s t (pgCvy + 0x14C) ∧
        posted t p.src (.completion op msUnmapped)))) ∧
    (∀ seat psn u, s.live = true → (s.peer seat).unacked.find? (fun u => u.pkt.psn = psn) = some u →
      (s.now < u.sentAt + s.rtoNs u.tries → Answers (.retransmit seat psn) s (fun t => t = s)) ∧
      (u.sentAt + s.rtoNs u.tries ≤ s.now → u.tries < s.fld (pgCvy + 0x124) 19 16 → Answers (.retransmit seat psn) s (fun t => counted s t (pgCvy + 0x140) ∧
        { u with tries := u.tries + 1, sentAt := s.now } ∈ (t.peer seat).unacked ∧ t.mem = s.mem)) ∧
      (u.sentAt + s.rtoNs u.tries ≤ s.now → s.fld (pgCvy + 0x124) 19 16 ≤ u.tries → (s.peer seat).waiting = [] → Answers (.retransmit seat psn) s (fun t =>
        (t.peer seat).suspect = true ∧ (∀ v ∈ (t.peer seat).unacked, v.pkt.psn ≠ psn) ∧ t.mem = s.mem))) ∧
    (∀ seat, s.live = true → s.isMember = true → (s.peer seat).ackOwed = true → Answers (.acknowledgementOnly seat) s (fun t => (t.peer seat).ackOwed = false ∧ t.regs = s.regs ∧
      (∀ e, s.nextPort = some e → (s.seat seat).manifestOk = true → ∃ k wire, Sent.packet (s.portDest seat e) k wire ∈ t.convoy.sent ∧ k.port = e ∧ k.op = .ackOnly ∧ k.dst = seat ∧
        k.ack = (s.peer seat).acked ∧ k.sack = State.sackOf (s.peer seat))))

/-- R384, R388–R390, R393: a slot whose conditions hold becomes ACTIVE and an aborted one is freed; the leader asks for a banking copy of a late member's step once, the banking
seat serves the copy or refuses it, and the losing copy is ended and counted. -/
def Obligations.ConsistSlotsBankTheirSteps : Prop :=
  ∀ (s : State) (n : Nat), n < 16 →
    let ctl := State.consistReg n 0
    let bankReg := State.consistReg n 8
    (∀ who w, s.live = true → mayWrite s who ctl = true →
      let named := (s.setFld ctl 15 0 (bitsOf w 15 0)).setFld ctl 27 16 (bitsOf w 27 16)
      (s.consistState n ≠ 1 → bitsOf w 31 31 = 0 → named.armOk n = true → Answers (.arm who n w) s (fun t => t.consistState n = 1 ∧ t.consistId n = bitsOf w 15 0 ∧
        t.fld ctl 27 16 = bitsOf w 27 16 ∧ (t.consist n).halves = [] ∧ t.mem = s.mem)) ∧
      (s.consistState n = 1 → bitsOf w 31 31 = 0 → Answers (.arm who n w) s (fun t => t.reg ctl = s.reg ctl ∧ stuck t pgCvy 0x5103)) ∧
      (s.consistState n = 2 → bitsOf w 30 30 = 0 → Answers (.freeSlot who n w) s (fun t => t.consistState n = 0 ∧ t.mem = s.mem))) ∧
    (∀ p op id step, heard s p → p.op = .bank op id step →
      (s.slotOfId id = none → Answers (.bank p) s (fun t => t.regs = s.regs ∧ posted t p.src (.completion op msUnmapped))) ∧
      (s.slotOfId id = some n → s.fld bankReg 31 31 = 1 → let r := s.fld bankReg 20 0
        (s.ring r).fill ≠ 0 → s.headHeld r = false → s.headMarked r = false → (s.headWaybill r).tag = step % 65536 →
        Answers (.bank p) s (fun t => posted t p.src (.completion op msOk) ∧ (s.dispatches = false → (t.consist n).bankStep = some step)))) ∧
    (∀ member step t0, s.live = true → s.leads = true → s.consistState n = 1 → s.fld bankReg 31 31 = 1 → s.consistHas n member = true →
      (s.consist n).halves = [(step, t0)] → smFind (s.consist n).ended member = none → s.fld (pgCvy + 0x128) 7 0 ≠ 0 → (s.consist n).durations ≠ [] →
      (member, step) ∉ (s.consist n).banked → t0 + medianOf (s.consist n).durations * s.fld (pgCvy + 0x128) 7 0 / 100 ≤ s.now →
      let bank := s.fld bankReg 28 21
      (bank ≠ s.ownSeat → s.roomFor bank = true → Answers (.bankLate n member) s (fun t => posted t bank (.bank s.convoy.nextOp (s.consistId n) step) ∧
        (t.consist n).banked = (s.consist n).banked ++ [(member, step)] ∧ t.regs = s.regs ∧ t.mem = s.mem)) ∧
      (bank = s.ownSeat → (s.ring (s.fld bankReg 20 0)).fill = 0 → Answers (.bankLate n member) s (fun t =>
        (t.consist n).banked = (s.consist n).banked ++ [(member, step)] ∧ stuck t pgCvy 0x6D04 ∧ t.mem = s.mem))) ∧
    (∀ p id step q, heard s p → p.op = .bankLost id step → s.slotOfId id = some n →
      s.disp.placements.find? (fun q => !q.ended && !q.aborting && q.started && q.serving && (s.consistRings n).contains q.wb.ring && s.srStep q.wb.arg0 = step) = some q →
      s.placed q.wid = some q → Answers (.bankLost p) s (fun t => counted s t (pgCvy + 0x158) ∧ ∀ x, t.placed q.wid = some x → x.aborting = true))

/-! ### The block as a whole -/

namespace Sys2Proof.Claims

open Sys2Proof Sys2Proof.Machine

/-- Memory is canonical and no error queue holds more than its 8 entries (R464). -/
def QueuesAndMemoryInv (s : State) : Prop := MemInv s ∧ ∀ e ∈ s.errq, e.2.length ≤ 8

/-- The slots of the bundle that the slot instruction completes (R80). -/
def bundleOf (s : State) (i : Issue) (ins : Instr) : List Slot := s.bundleSlots i ((s.tile i.tile).bundle ++ [ins])

/-- The tile takes the slot instruction as the last of its bundle. -/
def completesBundle (s : State) (i : Issue) : Prop :=
  s.live = true ∧ s.tileIssues i.tile = true ∧ s.follows i.tile = false ∧ i.last = true ∧ i.nops = 0

/-- What R109 finds in a bundle. -/
def bundleFinds (s : State) (i : Issue) (slots : List Slot) : Option (Nat × Nat) :=
  s.bundleError i.tile (slots.any (·.pos = .vec)) (slots.map (·.plan s i.tile))

/-- The bundle that the slot instruction completes meets an error of R109. -/
def bundleFails (s : State) (i : Issue) (ins : Instr) (code unit : Nat) : Prop :=
  completesBundle s i ∧ s.gated i.tile = false ∧ bundleFinds s i (bundleOf s i ins) = some (code, unit)

end Sys2Proof.Claims

/-- A step takes the command at the front of the queue and performs it with the queue's rest; with none waiting, a nanosecond of the device clock passes (log entry 7). -/
def Obligations.StepRunsTheFrontCommand : Prop :=
  ∀ (s : State) (c : Instr) (cs : List Instr),
    (s.pending = c :: cs → step s = exec c { s with pending := cs }) ∧
    (s.pending = [] → s.start.hold ≠ .porst → (∀ k, s.start.hold ≠ .erasing k) → ∃ t, step s = .next t ∧ t.clk = s.clk + 1 ∧ t.regs = s.regs ∧ t.mem = s.mem ∧ t.pending = [] ∧
      (s.convoy.slew = 0 → t.now = s.now + 1))

/-- Every command answers a next state and leaves the queue of waiting commands as it is. -/
def Obligations.EveryCommandCompletesBesideTheQueue : Prop :=
  ∀ (c : Instr) (s : State), ∃ t, exec c s = .next t ∧ t.pending = s.pending

/-- R464: every step keeps the canonical form of memory, and no page's error queue ever holds more than 8 entries. -/
def Obligations.StepsKeepMemoryAndQueues : Prop :=
  ∀ (s t : State), QueuesAndMemoryInv s → step s = .next t → QueuesAndMemoryInv t

/-- R35, R434: station time never decreases but for PORST_N, which loses everything that the fuses and the boot flash do not hold and takes it back to 0; a warm reset keeps it. -/
def Obligations.StationTimeNeverDecreases : Prop :=
  ∀ (s t : State), step s = .next t →
    (s.now ≤ t.now ∨ ∃ cs, s.pending = .porstNAssert :: cs) ∧
    ∀ cs, s.pending = .porstNAssert :: cs → t.now = 0 ∧ t.fuses = s.fuses ∧ t.flash = s.flash ∧ t.regs = [] ∧ t.mem = [] ∧ t.start.hold = .porst ∧ t.pending = cs

/-- R395, R422: the lifecycle state only ever advances, to Field, Returned or Scrapped, and no transition leads out of Returned except to Scrapped; an owner slot that is
set or revoked stays so, and the rollback floor never falls. -/
def Obligations.NoTransitionLeadsOutOfReturned : Prop :=
  ∀ (s t : State), step s = .next t →
    (s.fuses.lifecycle = 4 → t.fuses.lifecycle = 4 ∨ t.fuses.lifecycle = 5) ∧
    s.fuses.lifecycle ≤ t.fuses.lifecycle ∧ (t.fuses.lifecycle = s.fuses.lifecycle ∨ (3 ≤ t.fuses.lifecycle ∧ t.fuses.lifecycle ≤ 5)) ∧
    s.fuses.rollback ≤ t.fuses.rollback ∧ (∀ k ∈ s.fuses.ownerSet, k ∈ t.fuses.ownerSet) ∧
    ∀ k, k < 4 → k ∈ s.fuses.ownerRevoked → k ∈ t.fuses.ownerRevoked

/-- R437, R459, R461, R464: at power-on PORST_N holds the device, both SAFE_STATE pins are asserted, no command waits, every register holds its reset value, and the invariants hold. -/
def Obligations.ResetIsHeldWithEveryRegisterAtItsValue : Prop :=
  let s := State.reset
  QueuesAndMemoryInv s ∧ s.pending = [] ∧ s.mem = [] ∧ s.now = 0 ∧ s.start.hold = .porst ∧ s.pins.safeA = true ∧ s.pins.safeB = true ∧
    (∀ a, s.reg a = regReset s.fuses.size a) ∧ s.service = 1 ∧ s.fld (pgDispatch + 0x110) 13 8 = 0x10 ∧ s.fld (pgTick + 0x100) 8 0 = 100 ∧
    s.fld (pgLedger + 0x110) 31 16 = 0x80 ∧ s.fld (pgCool + 0x100) 31 16 = 1500 ∧ s.fld (pgCvy + 0x124) 19 16 = 8 ∧ s.fld (pgMon + 0x104) 21 0 = 115200

/-- R64, R106, R109: an MMA, MMAZ, CONV or DCONV whose mode differs from the mode recorded for the active buffer is the program error MODE_MISMATCH: it is recorded, the waybill ends,
and nothing is written to the accumulator. -/
def Obligations.ModeMismatchWritesNothing : Prop :=
  ∀ (i : Issue) (act : RowOp) (acc : AccOp) (m1 : BitVec 8) (sd : BitVec 5) (fmt : BitVec 4) (scl : RowOp) (g : BitVec 3) (s : State),
    (s.tile i.tile).active.mode ≠ fmtMode fmt.toNat → (s.tile i.tile).bundle = [] → i.nops = 0 →
    ∀ ins ∈ [(.mma i act acc m1 fmt scl : Instr), .mmaz i act acc m1 fmt scl, .conv i act acc sd fmt scl, .dconv i act acc sd fmt scl g],
      Answers ins s (fun t => ∀ u, (t.tile u).acc = (s.tile u).acc ∧ (t.tile u).accWritten = (s.tile u).accWritten) ∧
      (∀ u, bundleFails s i ins eModeMismatch u → ∀ w p, (s.tile i.tile).wid = some w → s.placed w = some p → p.ended = false → p.aborting = false →
        p.entry = none → i.tile ∈ p.tiles → Answers ins s (fun t => stuck t (pgTile i.tile) eModeMismatch ∧ (t.tile i.tile).stopped = true ∧
          ∀ q, t.placed w = some q → q.aborting = true))

/-- R82, R86–R90, R109: a slot on a tile that does not issue changes nothing, and one that is not its bundle's last only waits for the others; a bundle that a gated cycle (whatever it holds), a
condition of a slot, a move's range or a full range table holds changes nothing; one that meets an error has no effect of its own, and the error is recorded. -/
def Obligations.HeldSlotsChangeNothing : Prop :=
  ∀ (i : Issue) (v : VecOp) (s : State), s.live = true → ∀ e ∈ laneCommands v,
    let ins := e.cmd i
    let slots := bundleOf s i ins
    ((s.tileIssues i.tile = false ∨ s.follows i.tile = true) → Answers ins s (fun t => t = s)) ∧
    (s.tileIssues i.tile = true → s.follows i.tile = false → i.last = false → Answers ins s (fun t =>
      (t.tile i.tile).bundle = (s.tile i.tile).bundle ++ [ins] ∧ ({ t with tiles := s.tiles } : State) = s ∧ ∀ u, u ≠ i.tile → t.tile u = s.tile u)) ∧
    (completesBundle s i → (s.gated i.tile = true ∨ (bundleFinds s i slots = none ∧ s.bundleHeld i.tile (slots.map (·.plan s i.tile)) = true)) → Answers ins s (fun t => t = s)) ∧
    (∀ code u, bundleFails s i ins code u → Answers ins s (fun t => stuck t (pgTile i.tile) code ∧ counted s t (pgTile i.tile + 0x2C) ∧
      ∀ w, (t.tile w).vregs = (s.tile w).vregs ∧ (t.tile w).acc = (s.tile w).acc))

/-- R80, R82, R108: the slots of a bundle issue together: with a SETS handed over before it and NOPs in the other slots, a row-by-row vector instruction that completes the bundle
writes its result from the registers as they stood before the bundle, and SETS writes its own. -/
def Sys2Proof.Claims.BundledSlotsActTogether : Prop :=
  ∀ (i j : Issue) (v : VecOp) (dst : BitVec 6) (imm : Addr) (s : State), MemInv s → ∀ e ∈ laneCommands v,
    let ins := e.cmd i
    let slots := [slotSets dst imm, (slotOf ins).elim (slotSets dst imm) (·.2)]
    completesBundle s i → slotAlone s i = true → (s.tile i.tile).bundle = [.sets j dst imm] → s.slotFetched i .mov = none → s.slotFetched i .mat = none →
    bundleFinds s i slots = none → s.bundleHeld i.tile (slots.map (·.plan s i.tile)) = false → dst.toNat < 32 → imm.toNat < 2 ^ 32 →
    Answers ins s (fun t => (t.tile i.tile).s dst.toNat = imm.toNat ∧ (t.tile i.tile).pc = (s.tile i.tile).pc + 1 ∧ (t.tile i.tile).bundle = [] ∧
      ∀ j, j ≤ v.n1.toNat → vecOut s t i.tile v j = (vty v.ty).rowOf ((laneResults s i.tile v e j).map (·.bits)))

/-- R20, R101: a slot that a coupled pair's leader issues has its effect on both tiles of the pair. -/
def Sys2Proof.Claims.PairsRunEverySlotOnBothTiles : Prop :=
  ∀ (i : Issue) (s : State), (s.tile i.tile).coupled = true → i.ecc = [] → i.eccF = [] →
    let pair := [i.tile, i.tile + 1]
    (s.tile (i.tile + 1)).stopped = false →
    (∀ u ∈ pair, (s.tile u).pc + 1 < s.ibufSize u (s.berth u)) →
    (∀ (dst : BitVec 6) (imm : Addr), slotRuns s (.sets i dst imm) = true → dst.toNat < 32 → imm.toNat < 2 ^ 32 →
      Answers (.sets i dst imm) s (fun t => ∀ u ∈ pair, (t.tile u).s dst.toNat = imm.toNat ∧ (t.tile u).pc = (s.tile u).pc + 1 ∧
        ∀ n, n ≠ dst.toNat → (t.tile u).s n = (s.tile u).s n)) ∧
    (slotRuns s (.swapw i) = true → Answers (.swapw i) s (fun t => t.mem = s.mem ∧ t.regs = s.regs ∧
      ∀ u ∈ pair, (t.tile u).active = (s.tile u).inactive ∧ (t.tile u).inactive = (s.tile u).active))

/-- R80, R82, R108: the slots of a bundle issue together: with a SETS handed over before it and NOPs in the other slots, a row-by-row vector instruction that completes the bundle writes its result from the registers as they stood before the bundle, and SETS writes its own. R20, R101: a slot that a coupled pair's leader issues has its effect on both tiles of the pair. -/
def Obligations.BundlesRunEverySlotOnEveryTile : Prop :=
  Sys2Proof.Claims.BundledSlotsActTogether ∧ Sys2Proof.Claims.PairsRunEverySlotOnBothTiles
end

