-- ==== Sys2Proof/Laws/Maps.lean ====
section
/-! SUPPORT. Laws of the sparse maps and of memory: what a read after a write gives, that a write leaves every other key alone, and that every
memory operation keeps the canonical form. -/

set_option Elab.async false

namespace Sys2Proof.Machine

open Sys2Proof

variable {α : Type}

/-! ### Reads after writes -/

@[simp] theorem smFind_nil (k : Nat) : smFind ([] : SMap α) k = none := rfl

@[simp] theorem smFind_smPut_same (m : SMap α) (k : Nat) (v : α) : smFind (smPut m k v) k = some v := by
  induction m with
  | nil => simp [smPut, smFind]
  | cons e m ih =>
    obtain ⟨j, w⟩ := e
    simp only [smPut]
    split
    · simp [smFind]
    · split
      · simp [smFind]
      · rename_i h1 h2
        simp [smFind, h2, ih]

theorem smFind_smPut_ne (m : SMap α) {k j : Nat} (v : α) (h : j ≠ k) : smFind (smPut m k v) j = smFind m j := by
  induction m with
  | nil => simp [smPut, smFind, h]
  | cons e m ih =>
    obtain ⟨i, w⟩ := e
    simp only [smPut]
    split
    · simp [smFind, h]
    · split
      · rename_i h2
        subst h2
        simp [smFind, h]
      · simp [smFind, ih]

theorem smFind_smErase_ne (m : SMap α) {k j : Nat} (h : j ≠ k) : smFind (smErase m k) j = smFind m j := by
  induction m with
  | nil => rfl
  | cons e m ih =>
    obtain ⟨i, w⟩ := e
    simp only [smErase]
    split
    · rename_i h2
      subst h2
      simp [smFind, h]
    · simp [smFind, ih]

@[simp] theorem smGet_smPut_same (m : SMap α) (d : α) (k : Nat) (v : α) : smGet (smPut m k v) d k = v := by
  simp [smGet]

theorem smGet_smPut_ne (m : SMap α) (d : α) {k j : Nat} (v : α) (h : j ≠ k) : smGet (smPut m k v) d j = smGet m d j := by
  simp [smGet, smFind_smPut_ne m v h]

theorem smGet_smErase_ne (m : SMap α) (d : α) {k j : Nat} (h : j ≠ k) : smGet (smErase m k) d j = smGet m d j := by
  simp [smGet, smFind_smErase_ne m h]

/-! ### Members -/

theorem mem_smPut {m : SMap α} {k : Nat} {v : α} {e : Nat × α} (h : e ∈ smPut m k v) : e = (k, v) ∨ e ∈ m := by
  induction m with
  | nil => exact .inl (by simpa [smPut] using h)
  | cons f m ih =>
    obtain ⟨i, w⟩ := f
    simp only [smPut] at h
    split at h
    · rcases List.mem_cons.mp h with h | h
      · exact .inl h
      · exact .inr h
    · split at h
      · rcases List.mem_cons.mp h with h | h
        · exact .inl h
        · exact .inr (List.mem_cons_of_mem _ h)
      · rcases List.mem_cons.mp h with h | h
        · exact .inr (h ▸ List.mem_cons_self)
        · rcases ih h with h | h
          · exact .inl h
          · exact .inr (List.mem_cons_of_mem _ h)

theorem mem_smErase {m : SMap α} {k : Nat} {e : Nat × α} (h : e ∈ smErase m k) : e ∈ m := by
  induction m with
  | nil => exact h
  | cons f m ih =>
    obtain ⟨i, w⟩ := f
    simp only [smErase] at h
    split at h
    · exact List.mem_cons_of_mem _ h
    · rcases List.mem_cons.mp h with h | h
      · exact h ▸ List.mem_cons_self
      · exact List.mem_cons_of_mem _ (ih h)

theorem mem_of_smFind {m : SMap α} {k : Nat} {v : α} (h : smFind m k = some v) : (k, v) ∈ m := by
  induction m with
  | nil => simp at h
  | cons f m ih =>
    obtain ⟨i, w⟩ := f
    simp only [smFind] at h
    split at h
    · rename_i hk
      subst hk
      simp_all
    · exact List.mem_cons_of_mem _ (ih h)

/-! ### The sorted form -/

theorem smSorted_cons {k : Nat} {v : α} {m : SMap α} :
    smSorted ((k, v) :: m) = true ↔ (∀ e ∈ m, k < e.1) ∧ smSorted m = true := by
  simp [smSorted]

theorem smSorted_smPut {m : SMap α} (k : Nat) (v : α) (h : smSorted m = true) : smSorted (smPut m k v) = true := by
  induction m with
  | nil => simp [smPut, smSorted]
  | cons f m ih =>
    obtain ⟨i, w⟩ := f
    obtain ⟨h1, h2⟩ := smSorted_cons.mp h
    simp only [smPut]
    split
    · rename_i hk
      refine smSorted_cons.mpr ⟨?_, h⟩
      intro e he
      rcases List.mem_cons.mp he with he | he
      · subst he; exact hk
      · exact Nat.lt_trans hk (h1 e he)
    · split
      · rename_i hk
        subst hk
        exact smSorted_cons.mpr ⟨h1, h2⟩
      · rename_i hk1 hk2
        refine smSorted_cons.mpr ⟨?_, ih h2⟩
        intro e he
        rcases mem_smPut he with he | he
        · subst he; simp only; omega
        · exact h1 e he

theorem smSorted_smErase {m : SMap α} (k : Nat) (h : smSorted m = true) : smSorted (smErase m k) = true := by
  induction m with
  | nil => exact h
  | cons f m ih =>
    obtain ⟨i, w⟩ := f
    obtain ⟨h1, h2⟩ := smSorted_cons.mp h
    simp only [smErase]
    split
    · exact h2
    · exact smSorted_cons.mpr ⟨fun e he => h1 e (mem_smErase he), ih h2⟩

theorem smSorted_filter {m : SMap α} (p : Nat × α → Bool) (h : smSorted m = true) : smSorted (m.filter p) = true := by
  induction m with
  | nil => exact h
  | cons f m ih =>
    obtain ⟨i, w⟩ := f
    obtain ⟨h1, h2⟩ := smSorted_cons.mp h
    rw [List.filter_cons]
    split
    · exact smSorted_cons.mpr ⟨fun e he => h1 e (List.mem_filter.mp he).1, ih h2⟩
    · exact ih h2

theorem smFind_eq_none_of_lt {m : SMap α} {k : Nat} (h : ∀ e ∈ m, k < e.1) : smFind m k = none := by
  induction m with
  | nil => rfl
  | cons f m ih =>
    obtain ⟨i, w⟩ := f
    have h1 : k < i := h (i, w) List.mem_cons_self
    have h2 : ¬ k = i := by omega
    simp [smFind, h2, ih (fun e he => h e (List.mem_cons_of_mem _ he))]

theorem smFind_smErase_same {m : SMap α} (k : Nat) (h : smSorted m = true) : smFind (smErase m k) k = none := by
  induction m with
  | nil => rfl
  | cons f m ih =>
    obtain ⟨i, w⟩ := f
    obtain ⟨h1, h2⟩ := smSorted_cons.mp h
    simp only [smErase]
    split
    · rename_i hk
      subst hk
      exact smFind_eq_none_of_lt h1
    · rename_i hk
      simp [smFind, hk, ih h2]

theorem smFind_filter {m : SMap α} (p : Nat → Bool) (k : Nat) :
    smFind (m.filter (fun e => p e.1)) k = if p k then smFind m k else none := by
  induction m with
  | nil => simp
  | cons f m ih =>
    obtain ⟨i, w⟩ := f
    rw [List.filter_cons]
    by_cases hk : k = i
    · subst hk
      cases hp : p k <;> simp [smFind, hp, ih]
    · cases hp : p i <;> simp [smFind, hk, ih]

/-! ### Memory -/

theorem wf_iff {m : SMap Byte} : Memory.wf m = true ↔ smSorted m = true ∧ ∀ e ∈ m, e.2 ≠ memDefault := by
  simp [Memory.wf]

theorem wf_nil : Memory.wf [] = true := rfl

theorem wf_filter {m : SMap Byte} (p : Nat × Byte → Bool) (h : Memory.wf m = true) : Memory.wf (m.filter p) = true := by
  obtain ⟨h1, h2⟩ := wf_iff.mp h
  exact wf_iff.mpr ⟨smSorted_filter p h1, fun e he => h2 e (List.mem_filter.mp he).1⟩

theorem wf_memPut {m : SMap Byte} (a : Nat) (b : Byte) (h : Memory.wf m = true) : Memory.wf (memPut m a b) = true := by
  obtain ⟨h1, h2⟩ := wf_iff.mp h
  rw [memPut]
  split
  · exact wf_iff.mpr ⟨smSorted_smErase a h1, fun e he => h2 e (mem_smErase he)⟩
  · rename_i hb
    refine wf_iff.mpr ⟨smSorted_smPut a b h1, fun e he => ?_⟩
    rcases mem_smPut he with he | he
    · subst he; exact hb
    · exact h2 e he

theorem wf_memWrite {m : SMap Byte} (a : Nat) (bs : List Byte) (h : Memory.wf m = true) : Memory.wf (memWrite m a bs) = true := by
  induction bs generalizing m a with
  | nil => exact h
  | cons b bs ih => exact ih (a + 1) (wf_memPut a b h)

theorem wf_memZero {m : SMap Byte} (a n : Nat) (h : Memory.wf m = true) : Memory.wf (memZero m a n) = true := wf_filter _ h

theorem wf_foldl {β : Type} (l : List β) (f : SMap Byte → β → SMap Byte) (hf : ∀ m x, Memory.wf m = true → Memory.wf (f m x) = true)
    {m : SMap Byte} (h : Memory.wf m = true) : Memory.wf (l.foldl f m) = true := by
  induction l generalizing m with
  | nil => exact h
  | cons x l ih => exact ih (hf m x h)

theorem memByte_memPut_same {m : SMap Byte} (a : Nat) (b : Byte) (h : Memory.wf m = true) : memByte (memPut m a b) a = b := by
  obtain ⟨h1, -⟩ := wf_iff.mp h
  rw [memPut]
  split
  · rename_i hb
    simp [memByte, smGet, smFind_smErase_same a h1, hb]
  · simp [memByte]

theorem memByte_memPut_ne (m : SMap Byte) {a c : Nat} (b : Byte) (hc : c ≠ a) : memByte (memPut m a b) c = memByte m c := by
  rw [memPut]
  split
  · exact smGet_smErase_ne m _ hc
  · exact smGet_smPut_ne m _ b hc

/-- A write leaves every byte outside the written ones alone. -/
theorem memByte_memWrite_outside (m : SMap Byte) (a : Nat) (bs : List Byte) {c : Nat} (hc : c < a ∨ a + bs.length ≤ c) :
    memByte (memWrite m a bs) c = memByte m c := by
  induction bs generalizing m a with
  | nil => rfl
  | cons b bs ih =>
    have h1 : c < a + 1 ∨ a + 1 + bs.length ≤ c := by simp only [List.length_cons] at hc; omega
    have h2 : c ≠ a := by simp only [List.length_cons] at hc; omega
    rw [memWrite, ih _ _ h1, memByte_memPut_ne m b h2]

/-- A read after a write gives the bytes written. -/
theorem memByte_memWrite_inside {m : SMap Byte} (a : Nat) (bs : List Byte) (h : Memory.wf m = true) (i : Nat) (hi : i < bs.length) :
    memByte (memWrite m a bs) (a + i) = bs[i] := by
  induction bs generalizing m a i with
  | nil => simp at hi
  | cons b bs ih =>
    cases i with
    | zero =>
      rw [memWrite, memByte_memWrite_outside _ _ _ (.inl (by omega))]
      exact memByte_memPut_same a b h
    | succ i =>
      have := ih (a + 1) (wf_memPut a b h) i (by simpa using hi)
      rw [memWrite]
      simpa [Nat.add_assoc, Nat.add_comm 1 i] using this

/-- Zeroing gives zeros inside the range and leaves every byte outside it alone. -/
theorem memByte_memZero (m : SMap Byte) (a n c : Nat) :
    memByte (memZero m a n) c = if a ≤ c ∧ c < a + n then memDefault else memByte m c := by
  have h := smFind_filter (m := m) (fun k => !(decide (a ≤ k) && decide (k < a + n))) c
  simp only [memByte, memZero, smGet, h]
  split <;> split <;> simp_all

end Sys2Proof.Machine
end

