-- ==== Sys2Proof/Laws/Evolve.lean ====
section
/-! SUPPORT. What every operation of the machine keeps: the queue, the burnt fuses, station time, the canonical form of memory and the bound of
the error queues. `Evolves s t` relates a state to one that operations reach from it; one lemma per operation says that it continues the relation,
so that a statement about every command needs no operation's body. -/

set_option Elab.async false
set_option linter.unusedSimpArgs false

namespace Sys2Proof.Machine

open Sys2Proof

/-- Fuses only ever burn (R395, R397): what a later state's fuses keep of an earlier one's. -/
structure Burns (f g : Fuses) : Prop where
  size : g.size = f.size
  lifecycle : f.lifecycle ≤ g.lifecycle
  rollback : f.rollback ≤ g.rollback
  slots : ∀ k ∈ f.ownerSet, k ∈ g.ownerSet
  revoked : ∀ k < 4, k ∈ f.ownerRevoked → k ∈ g.ownerRevoked

theorem Burns.refl (f : Fuses) : Burns f f := ⟨rfl, Nat.le_refl _, Nat.le_refl _, fun _ h => h, fun _ _ h => h⟩

theorem Burns.trans {f g h : Fuses} (a : Burns f g) (b : Burns g h) : Burns f h :=
  ⟨b.size.trans a.size, Nat.le_trans a.lifecycle b.lifecycle, Nat.le_trans a.rollback b.rollback,
   fun k hk => b.slots k (a.slots k hk), fun k hk h => b.revoked k hk (a.revoked k hk h)⟩

/-- No page's error queue holds more than its 8 entries (R464). -/
def ErrqInv (s : State) : Prop := ∀ e ∈ s.errq, e.2.length ≤ 8

/-- What the operations of a command keep. -/
structure Evolves (s t : State) : Prop where
  pending : t.pending = s.pending
  now : s.now ≤ t.now
  burns : Burns s.fuses t.fuses
  mem : Memory.wf s.mem = true → Memory.wf t.mem = true
  errq : ErrqInv s → ErrqInv t

/-- A meaning answers a next state that keeps this. -/
def EvolvesRes (s : State) (r : Res) : Prop := ∃ t, r = .next t ∧ Evolves s t

theorem Evolves.refl (s : State) : Evolves s s := ⟨rfl, Nat.le_refl _, Burns.refl _, fun h => h, fun h => h⟩

theorem evolves_id {s t : State} (h : Evolves s t) : Evolves s t := h

theorem Evolves.trans {s t u : State} (a : Evolves s t) (b : Evolves t u) : Evolves s u :=
  ⟨b.pending.trans a.pending, Nat.le_trans a.now b.now, a.burns.trans b.burns, fun h => b.mem (a.mem h), fun h => b.errq (a.errq h)⟩

theorem evolves_mk {s u : State} {clk_} {free_} {flash_} {regs_} {errOvf_} {cnt_} {cntHeld_} {cntReload_} {cntCapture_} {cntLevel_} {evs_} {start_} {svc_} {tiles_} {disp_} {ledger_} {ilk_} {dram_} {safety_} {ports_} {convoy_} {sec_} {power_} {links_} {signals_} {arbs_} {mon_} {pins_} (h : Evolves s u) :
    Evolves s (State.mk u.pending clk_ u.now free_ u.fuses flash_ regs_ u.errq errOvf_ cnt_ cntHeld_ cntReload_ cntCapture_ cntLevel_ evs_ u.mem start_ svc_ tiles_ disp_ ledger_ ilk_ dram_ safety_ ports_ convoy_ sec_ power_ links_ signals_ arbs_ mon_ pins_) :=
  ⟨h.pending, h.now, h.burns, h.mem, h.errq⟩

theorem evolves_mk_iff {s u : State} {clk_} {free_} {flash_} {regs_} {errOvf_} {cnt_} {cntHeld_} {cntReload_} {cntCapture_} {cntLevel_} {evs_} {start_} {svc_} {tiles_} {disp_} {ledger_} {ilk_} {dram_} {safety_} {ports_} {convoy_} {sec_} {power_} {links_} {signals_} {arbs_} {mon_} {pins_} :
    Evolves s (State.mk u.pending clk_ u.now free_ u.fuses flash_ regs_ u.errq errOvf_ cnt_ cntHeld_ cntReload_ cntCapture_ cntLevel_ evs_ u.mem start_ svc_ tiles_ disp_ ledger_ ilk_ dram_ safety_ ports_ convoy_ sec_ power_ links_ signals_ arbs_ mon_ pins_) ↔ Evolves s u :=
  ⟨fun h => ⟨h.pending, h.now, h.burns, h.mem, h.errq⟩, fun h => ⟨h.pending, h.now, h.burns, h.mem, h.errq⟩⟩

theorem evolves_mem {s u : State} {m : SMap Byte} {clk_} {free_} {flash_} {regs_} {errOvf_} {cnt_} {cntHeld_} {cntReload_} {cntCapture_} {cntLevel_} {evs_} {start_} {svc_} {tiles_} {disp_} {ledger_} {ilk_} {dram_} {safety_} {ports_} {convoy_} {sec_} {power_} {links_} {signals_} {arbs_} {mon_} {pins_} (h : Evolves s u) (hm : Memory.wf u.mem = true → Memory.wf m = true) :
    Evolves s (State.mk u.pending clk_ u.now free_ u.fuses flash_ regs_ u.errq errOvf_ cnt_ cntHeld_ cntReload_ cntCapture_ cntLevel_ evs_ m start_ svc_ tiles_ disp_ ledger_ ilk_ dram_ safety_ ports_ convoy_ sec_ power_ links_ signals_ arbs_ mon_ pins_) :=
  ⟨h.pending, h.now, h.burns, fun w => hm (h.mem w), h.errq⟩

theorem evolves_now {s u : State} {k : Nat} {clk_} {free_} {flash_} {regs_} {errOvf_} {cnt_} {cntHeld_} {cntReload_} {cntCapture_} {cntLevel_} {evs_} {start_} {svc_} {tiles_} {disp_} {ledger_} {ilk_} {dram_} {safety_} {ports_} {convoy_} {sec_} {power_} {links_} {signals_} {arbs_} {mon_} {pins_} (h : Evolves s u) :
    Evolves s (State.mk u.pending clk_ (u.now + k) free_ u.fuses flash_ regs_ u.errq errOvf_ cnt_ cntHeld_ cntReload_ cntCapture_ cntLevel_ evs_ u.mem start_ svc_ tiles_ disp_ ledger_ ilk_ dram_ safety_ ports_ convoy_ sec_ power_ links_ signals_ arbs_ mon_ pins_) :=
  ⟨h.pending, Nat.le_trans h.now (Nat.le_add_right _ _), h.burns, h.mem, h.errq⟩

theorem evolves_getD {s u : State} {o : Option State} (h : ∀ t, o = some t → Evolves s t) (hu : Evolves s u) : Evolves s (o.getD u) := by
  cases o with
  | none => exact hu
  | some t => exact h t rfl

theorem evolves_ite {s a b : State} {c : Prop} [Decidable c] (ha : Evolves s a) (hb : Evolves s b) : Evolves s (if c then a else b) := by
  split <;> assumption

theorem evolves_bite {s a b : State} {c : Bool} (ha : Evolves s a) (hb : Evolves s b) : Evolves s (bif c then a else b) := by
  cases c <;> assumption

/-- The state in a result keeps this: the result's second part. A structure, so that a goal about a call's result stays a goal about the call. -/
structure EvolvesSnd {α : Type} (s : State) (p : α × State) : Prop where
  out : Evolves s p.2

/-- The same for a result's first part. -/
structure EvolvesFst {α : Type} (s : State) (p : State × α) : Prop where
  out : Evolves s p.1

/-- The same for a result's third part. -/
structure EvolvesTrd {α β : Type} (s : State) (p : α × β × State) : Prop where
  out : Evolves s p.2.2

theorem evolvesSnd_mk {α : Type} {s t : State} {a : α} (h : Evolves s t) : EvolvesSnd s (a, t) := ⟨h⟩
theorem evolvesFst_mk {α : Type} {s t : State} {a : α} (h : Evolves s t) : EvolvesFst s (t, a) := ⟨h⟩
theorem evolvesTrd_mk {α β : Type} {s t : State} {a : α} {b : β} (h : Evolves s t) : EvolvesTrd s (a, b, t) := ⟨h⟩

theorem evolves_ite_snd {α : Type} {s : State} {a b : α × State} {c : Prop} [Decidable c] (ha : EvolvesSnd s a) (hb : EvolvesSnd s b) :
    EvolvesSnd s (if c then a else b) := by
  split <;> assumption

theorem evolves_ite_fst {α : Type} {s : State} {a b : State × α} {c : Prop} [Decidable c] (ha : EvolvesFst s a) (hb : EvolvesFst s b) :
    EvolvesFst s (if c then a else b) := by
  split <;> assumption

theorem evolves_snd_eq {α : Type} {s t : State} {a : α} {p : α × State} (h : p = (a, t)) (hp : EvolvesSnd s p) : Evolves s t := by
  subst h; exact hp.out

theorem evolves_fst_eq {α : Type} {s t : State} {a : α} {p : State × α} (h : p = (t, a)) (hp : EvolvesFst s p) : Evolves s t := by
  subst h; exact hp.out

theorem evolves_trd_eq {α β : Type} {s t : State} {a : α} {b : β} {p : α × β × State} (h : p = (a, b, t)) (hp : EvolvesTrd s p) : Evolves s t := by
  subst h; exact hp.out

theorem evolves_foldl {α : Type} {s u : State} (l : List α) (f : State → α → State) (hf : ∀ v x, Evolves s v → Evolves s (f v x))
    (h : Evolves s u) : Evolves s (l.foldl f u) := by
  induction l generalizing u with
  | nil => exact h
  | cons x l ih => exact ih (hf u x h)

theorem evolves_foldl_snd {α β : Type} {s : State} {u : β × State} (l : List α) (f : β × State → α → β × State)
    (hf : ∀ v x, EvolvesSnd s v → EvolvesSnd s (f v x)) (h : EvolvesSnd s u) : EvolvesSnd s (l.foldl f u) := by
  induction l generalizing u with
  | nil => exact h
  | cons x l ih => exact ih (hf u x h)

theorem evolves_foldl_fst {α β : Type} {s : State} {u : State × β} (l : List α) (f : State × β → α → State × β)
    (hf : ∀ v x, EvolvesFst s v → EvolvesFst s (f v x)) (h : EvolvesFst s u) : EvolvesFst s (l.foldl f u) := by
  induction l generalizing u with
  | nil => exact h
  | cons x l ih => exact ih (hf u x h)

theorem evolves_forEach {α : Type} {s u : State} (l : List α) (f : State → α → State) (hf : ∀ v x, Evolves s v → Evolves s (f v x))
    (h : Evolves s u) : Evolves s (forEach l u f) := evolves_foldl l f hf h

theorem evolvesRes_next {s t : State} (h : Evolves s t) : EvolvesRes s (.next t) := ⟨t, rfl, h⟩

theorem evolvesRes_whenLive {s : State} (f : State → State) (hf : ∀ v, Evolves s v → Evolves s (f v)) : EvolvesRes s (whenLive s f) :=
  ⟨_, rfl, evolves_ite (hf s (Evolves.refl s)) (Evolves.refl s)⟩

end Sys2Proof.Machine
end

