-- ==== Sys2Proof/Laws/EvolveOps.lean ====
section
/-! SUPPORT. What the operations of Machine/Ops.lean keep. -/

set_option Elab.async false
set_option linter.unusedSimpArgs false

namespace Sys2Proof.Machine

open Sys2Proof

theorem evolves_setReg {o0 : State} (s : State) (a : Nat) (w : Word)  (hev : Evolves o0 s) :
    Evolves o0 (Sys2Proof.Machine.State.setReg s a w) := by
  unfold Sys2Proof.Machine.State.setReg
  repeat' (first | intro _ | with_reducible assumption | with_reducible refine EvolvesSnd.out ?_ | with_reducible refine EvolvesFst.out ?_ | with_reducible refine EvolvesTrd.out ?_ | with_reducible apply evolves_forEach | with_reducible apply evolves_foldl | with_reducible apply evolves_foldl_snd | with_reducible apply evolves_foldl_fst | with_reducible apply evolves_ite | with_reducible apply evolves_ite_snd | with_reducible apply evolves_ite_fst | with_reducible apply evolves_now | with_reducible refine evolves_getD (fun t ht => ?_) ?_ | (with_reducible refine evolves_id ?_; simp only [↓evolves_mk_iff]) | split | with_reducible apply evolvesSnd_mk | with_reducible apply evolvesFst_mk | with_reducible apply evolvesTrd_mk | (refine evolves_snd_eq (by with_reducible assumption) ?_) | (refine evolves_fst_eq (by with_reducible assumption) ?_) | (refine evolves_trd_eq (by with_reducible assumption) ?_))

theorem evolves_setFld {o0 : State} (s : State) (a : Nat) (hi : Nat) (lo : Nat) (v : Nat)  (hev : Evolves o0 s) :
    Evolves o0 (Sys2Proof.Machine.State.setFld s a hi lo v) := by
  unfold Sys2Proof.Machine.State.setFld
  repeat' (first | intro _ | with_reducible assumption | with_reducible refine EvolvesSnd.out ?_ | with_reducible refine EvolvesFst.out ?_ | with_reducible refine EvolvesTrd.out ?_ | with_reducible apply evolves_setReg | with_reducible apply evolves_forEach | with_reducible apply evolves_foldl | with_reducible apply evolves_foldl_snd | with_reducible apply evolves_foldl_fst | with_reducible apply evolves_ite | with_reducible apply evolves_ite_snd | with_reducible apply evolves_ite_fst | with_reducible apply evolves_now | with_reducible refine evolves_getD (fun t ht => ?_) ?_ | (with_reducible refine evolves_id ?_; simp only [↓evolves_mk_iff]) | split | with_reducible apply evolvesSnd_mk | with_reducible apply evolvesFst_mk | with_reducible apply evolvesTrd_mk | (refine evolves_snd_eq (by with_reducible assumption) ?_) | (refine evolves_fst_eq (by with_reducible assumption) ?_) | (refine evolves_trd_eq (by with_reducible assumption) ?_))

theorem evolves_bump {o0 : State} (s : State) (a : Nat) (n : Nat)  (hev : Evolves o0 s) :
    Evolves o0 (Sys2Proof.Machine.State.bump s a n) := by
  unfold Sys2Proof.Machine.State.bump
  repeat' (first | intro _ | with_reducible assumption | with_reducible refine EvolvesSnd.out ?_ | with_reducible refine EvolvesFst.out ?_ | with_reducible refine EvolvesTrd.out ?_ | with_reducible apply evolves_setReg | with_reducible apply evolves_forEach | with_reducible apply evolves_foldl | with_reducible apply evolves_foldl_snd | with_reducible apply evolves_foldl_fst | with_reducible apply evolves_ite | with_reducible apply evolves_ite_snd | with_reducible apply evolves_ite_fst | with_reducible apply evolves_now | with_reducible refine evolves_getD (fun t ht => ?_) ?_ | (with_reducible refine evolves_id ?_; simp only [↓evolves_mk_iff]) | split | with_reducible apply evolvesSnd_mk | with_reducible apply evolvesFst_mk | with_reducible apply evolvesTrd_mk | (refine evolves_snd_eq (by with_reducible assumption) ?_) | (refine evolves_fst_eq (by with_reducible assumption) ?_) | (refine evolves_trd_eq (by with_reducible assumption) ?_))

theorem evolves_write {s0 s : State} (a : Nat) (bs : List Byte) (hev : Evolves s0 s) : Evolves s0 (s.write a bs) :=
  evolves_mem hev (wf_memWrite a bs)

theorem evolves_writeNat {o0 : State} (s : State) (a : Nat) (n : Nat) (v : Nat)  (hev : Evolves o0 s) :
    Evolves o0 (Sys2Proof.Machine.State.writeNat s a n v) := by
  unfold Sys2Proof.Machine.State.writeNat
  repeat' (first | intro _ | with_reducible assumption | with_reducible refine EvolvesSnd.out ?_ | with_reducible refine EvolvesFst.out ?_ | with_reducible refine EvolvesTrd.out ?_ | with_reducible apply evolves_write | with_reducible apply evolves_forEach | with_reducible apply evolves_foldl | with_reducible apply evolves_foldl_snd | with_reducible apply evolves_foldl_fst | with_reducible apply evolves_ite | with_reducible apply evolves_ite_snd | with_reducible apply evolves_ite_fst | with_reducible apply evolves_now | with_reducible refine evolves_getD (fun t ht => ?_) ?_ | (with_reducible refine evolves_id ?_; simp only [↓evolves_mk_iff]) | split | with_reducible apply evolvesSnd_mk | with_reducible apply evolvesFst_mk | with_reducible apply evolvesTrd_mk | (refine evolves_snd_eq (by with_reducible assumption) ?_) | (refine evolves_fst_eq (by with_reducible assumption) ?_) | (refine evolves_trd_eq (by with_reducible assumption) ?_))

theorem evolves_zero {s0 s : State} (a n : Nat) (hev : Evolves s0 s) : Evolves s0 (s.zero a n) :=
  evolves_mem hev (wf_memZero a n)

theorem evolves_fresh {s0 s : State} (hev : Evolves s0 s) : EvolvesSnd s0 s.fresh := ⟨evolves_mk hev⟩

theorem evolves_freshBytes {s0 s : State} (n : Nat) (hev : Evolves s0 s) : EvolvesSnd s0 (s.freshBytes n) := ⟨evolves_mk hev⟩

theorem evolves_drbgBytes {o0 : State} (s : State) (n : Nat)  (hev : Evolves o0 s) :
    EvolvesSnd o0 (Sys2Proof.Machine.State.drbgBytes s n) := by
  unfold Sys2Proof.Machine.State.drbgBytes
  repeat' (first | intro _ | with_reducible assumption | with_reducible refine EvolvesSnd.out ?_ | with_reducible refine EvolvesFst.out ?_ | with_reducible refine EvolvesTrd.out ?_ | with_reducible apply evolves_freshBytes | with_reducible apply evolves_forEach | with_reducible apply evolves_foldl | with_reducible apply evolves_foldl_snd | with_reducible apply evolves_foldl_fst | with_reducible apply evolves_ite | with_reducible apply evolves_ite_snd | with_reducible apply evolves_ite_fst | with_reducible apply evolves_now | with_reducible refine evolves_getD (fun t ht => ?_) ?_ | (with_reducible refine evolves_id ?_; simp only [↓evolves_mk_iff]) | split | with_reducible apply evolvesSnd_mk | with_reducible apply evolvesFst_mk | with_reducible apply evolvesTrd_mk | (refine evolves_snd_eq (by with_reducible assumption) ?_) | (refine evolves_fst_eq (by with_reducible assumption) ?_) | (refine evolves_trd_eq (by with_reducible assumption) ?_))

theorem evolves_setTile {o0 : State} (s : State) (t : Nat) (T : Tile)  (hev : Evolves o0 s) :
    Evolves o0 (Sys2Proof.Machine.State.setTile s t T) := by
  unfold Sys2Proof.Machine.State.setTile
  repeat' (first | intro _ | with_reducible assumption | with_reducible refine EvolvesSnd.out ?_ | with_reducible refine EvolvesFst.out ?_ | with_reducible refine EvolvesTrd.out ?_ | with_reducible apply evolves_forEach | with_reducible apply evolves_foldl | with_reducible apply evolves_foldl_snd | with_reducible apply evolves_foldl_fst | with_reducible apply evolves_ite | with_reducible apply evolves_ite_snd | with_reducible apply evolves_ite_fst | with_reducible apply evolves_now | with_reducible refine evolves_getD (fun t ht => ?_) ?_ | (with_reducible refine evolves_id ?_; simp only [↓evolves_mk_iff]) | split | with_reducible apply evolvesSnd_mk | with_reducible apply evolvesFst_mk | with_reducible apply evolvesTrd_mk | (refine evolves_snd_eq (by with_reducible assumption) ?_) | (refine evolves_fst_eq (by with_reducible assumption) ?_) | (refine evolves_trd_eq (by with_reducible assumption) ?_))

theorem evolves_updTile {o0 : State} (s : State) (t : Nat) (f : Tile → Tile)  (hev : Evolves o0 s) :
    Evolves o0 (Sys2Proof.Machine.State.updTile s t f) := by
  unfold Sys2Proof.Machine.State.updTile
  repeat' (first | intro _ | with_reducible assumption | with_reducible refine EvolvesSnd.out ?_ | with_reducible refine EvolvesFst.out ?_ | with_reducible refine EvolvesTrd.out ?_ | with_reducible apply evolves_setTile | with_reducible apply evolves_forEach | with_reducible apply evolves_foldl | with_reducible apply evolves_foldl_snd | with_reducible apply evolves_foldl_fst | with_reducible apply evolves_ite | with_reducible apply evolves_ite_snd | with_reducible apply evolves_ite_fst | with_reducible apply evolves_now | with_reducible refine evolves_getD (fun t ht => ?_) ?_ | (with_reducible refine evolves_id ?_; simp only [↓evolves_mk_iff]) | split | with_reducible apply evolvesSnd_mk | with_reducible apply evolvesFst_mk | with_reducible apply evolvesTrd_mk | (refine evolves_snd_eq (by with_reducible assumption) ?_) | (refine evolves_fst_eq (by with_reducible assumption) ?_) | (refine evolves_trd_eq (by with_reducible assumption) ?_))

theorem evolves_countErr {o0 : State} (s : State) (page : Nat) (code : Nat)  (hev : Evolves o0 s) :
    Evolves o0 (Sys2Proof.Machine.State.countErr s page code) := by
  unfold Sys2Proof.Machine.State.countErr
  repeat' (first | intro _ | with_reducible assumption | with_reducible refine EvolvesSnd.out ?_ | with_reducible refine EvolvesFst.out ?_ | with_reducible refine EvolvesTrd.out ?_ | with_reducible apply evolves_setFld | with_reducible apply evolves_bump | with_reducible apply evolves_forEach | with_reducible apply evolves_foldl | with_reducible apply evolves_foldl_snd | with_reducible apply evolves_foldl_fst | with_reducible apply evolves_ite | with_reducible apply evolves_ite_snd | with_reducible apply evolves_ite_fst | with_reducible apply evolves_now | with_reducible refine evolves_getD (fun t ht => ?_) ?_ | (with_reducible refine evolves_id ?_; simp only [↓evolves_mk_iff]) | split | with_reducible apply evolvesSnd_mk | with_reducible apply evolvesFst_mk | with_reducible apply evolvesTrd_mk | (refine evolves_snd_eq (by with_reducible assumption) ?_) | (refine evolves_fst_eq (by with_reducible assumption) ?_) | (refine evolves_trd_eq (by with_reducible assumption) ?_))

theorem evolves_queueErr {s0 s : State} (page code unit : Nat) (hev : Evolves s0 s) : Evolves s0 (s.queueErr page code unit) := by
  unfold State.queueErr
  by_cases hq : (smGet s.errq [] page).length < 8
  · simp only [hq, if_true]
    refine ⟨hev.pending, hev.now, hev.burns, hev.mem, fun h e he => ?_⟩
    rcases mem_smPut he with he | he
    · subst he
      simp only [List.length_append, List.length_cons, List.length_nil]
      omega
    · exact hev.errq h e he
  · simp only [hq, if_false]
    exact evolves_mk hev

theorem evolves_recordErr {o0 : State} (s : State) (page : Nat) (code : Nat) (unit : Nat)  (hev : Evolves o0 s) :
    Evolves o0 (Sys2Proof.Machine.State.recordErr s page code unit) := by
  unfold Sys2Proof.Machine.State.recordErr
  repeat' (first | intro _ | with_reducible assumption | with_reducible refine EvolvesSnd.out ?_ | with_reducible refine EvolvesFst.out ?_ | with_reducible refine EvolvesTrd.out ?_ | with_reducible apply evolves_setReg | with_reducible apply evolves_countErr | with_reducible apply evolves_queueErr | with_reducible apply evolves_forEach | with_reducible apply evolves_foldl | with_reducible apply evolves_foldl_snd | with_reducible apply evolves_foldl_fst | with_reducible apply evolves_ite | with_reducible apply evolves_ite_snd | with_reducible apply evolves_ite_fst | with_reducible apply evolves_now | with_reducible refine evolves_getD (fun t ht => ?_) ?_ | (with_reducible refine evolves_id ?_; simp only [↓evolves_mk_iff]) | split | with_reducible apply evolvesSnd_mk | with_reducible apply evolvesFst_mk | with_reducible apply evolvesTrd_mk | (refine evolves_snd_eq (by with_reducible assumption) ?_) | (refine evolves_fst_eq (by with_reducible assumption) ?_) | (refine evolves_trd_eq (by with_reducible assumption) ?_))

theorem evolves_regAccess {o0 : State} (s : State) (page : Nat)  (hev : Evolves o0 s) :
    Evolves o0 (Sys2Proof.Machine.State.regAccess s page) := by
  unfold Sys2Proof.Machine.State.regAccess
  repeat' (first | intro _ | with_reducible assumption | with_reducible refine EvolvesSnd.out ?_ | with_reducible refine EvolvesFst.out ?_ | with_reducible refine EvolvesTrd.out ?_ | with_reducible apply evolves_recordErr | with_reducible apply evolves_forEach | with_reducible apply evolves_foldl | with_reducible apply evolves_foldl_snd | with_reducible apply evolves_foldl_fst | with_reducible apply evolves_ite | with_reducible apply evolves_ite_snd | with_reducible apply evolves_ite_fst | with_reducible apply evolves_now | with_reducible refine evolves_getD (fun t ht => ?_) ?_ | (with_reducible refine evolves_id ?_; simp only [↓evolves_mk_iff]) | split | with_reducible apply evolvesSnd_mk | with_reducible apply evolvesFst_mk | with_reducible apply evolvesTrd_mk | (refine evolves_snd_eq (by with_reducible assumption) ?_) | (refine evolves_fst_eq (by with_reducible assumption) ?_) | (refine evolves_trd_eq (by with_reducible assumption) ?_))

theorem evolves_refuseAccess {o0 : State} (s : State) (r : Requester) (acc : Access)  (hev : Evolves o0 s) :
    Evolves o0 (Sys2Proof.Machine.State.refuseAccess s r acc) := by
  unfold Sys2Proof.Machine.State.refuseAccess
  repeat' (first | intro _ | with_reducible assumption | with_reducible refine EvolvesSnd.out ?_ | with_reducible refine EvolvesFst.out ?_ | with_reducible refine EvolvesTrd.out ?_ | with_reducible apply evolves_recordErr | with_reducible apply evolves_forEach | with_reducible apply evolves_foldl | with_reducible apply evolves_foldl_snd | with_reducible apply evolves_foldl_fst | with_reducible apply evolves_ite | with_reducible apply evolves_ite_snd | with_reducible apply evolves_ite_fst | with_reducible apply evolves_now | with_reducible refine evolves_getD (fun t ht => ?_) ?_ | (with_reducible refine evolves_id ?_; simp only [↓evolves_mk_iff]) | split | with_reducible apply evolvesSnd_mk | with_reducible apply evolvesFst_mk | with_reducible apply evolvesTrd_mk | (refine evolves_snd_eq (by with_reducible assumption) ?_) | (refine evolves_fst_eq (by with_reducible assumption) ?_) | (refine evolves_trd_eq (by with_reducible assumption) ?_))

theorem evolves_countOne {o0 : State} (s : State) (page : Nat) (n : Nat) (v : Nat)  (hev : Evolves o0 s) :
    Evolves o0 (Sys2Proof.Machine.State.countOne s page n v) := by
  unfold Sys2Proof.Machine.State.countOne
  repeat' (first | intro _ | with_reducible assumption | with_reducible refine EvolvesSnd.out ?_ | with_reducible refine EvolvesFst.out ?_ | with_reducible refine EvolvesTrd.out ?_ | with_reducible apply evolves_forEach | with_reducible apply evolves_foldl | with_reducible apply evolves_foldl_snd | with_reducible apply evolves_foldl_fst | with_reducible apply evolves_ite | with_reducible apply evolves_ite_snd | with_reducible apply evolves_ite_fst | with_reducible apply evolves_now | with_reducible refine evolves_getD (fun t ht => ?_) ?_ | (with_reducible refine evolves_id ?_; simp only [↓evolves_mk_iff]) | split | with_reducible apply evolvesSnd_mk | with_reducible apply evolvesFst_mk | with_reducible apply evolvesTrd_mk | (refine evolves_snd_eq (by with_reducible assumption) ?_) | (refine evolves_fst_eq (by with_reducible assumption) ?_) | (refine evolves_trd_eq (by with_reducible assumption) ?_))

theorem evolves_countEvent {o0 : State} (s : State) (page : Nat) (ev : Nat) (sub : Nat) (v : Nat)  (hev : Evolves o0 s) :
    Evolves o0 (Sys2Proof.Machine.State.countEvent s page ev sub v) := by
  unfold Sys2Proof.Machine.State.countEvent
  repeat' (first | intro _ | with_reducible assumption | with_reducible refine EvolvesSnd.out ?_ | with_reducible refine EvolvesFst.out ?_ | with_reducible refine EvolvesTrd.out ?_ | with_reducible apply evolves_forEach | with_reducible apply evolves_foldl | with_reducible apply evolves_foldl_snd | with_reducible apply evolves_foldl_fst | with_reducible apply evolves_ite | with_reducible apply evolves_ite_snd | with_reducible apply evolves_ite_fst | with_reducible apply evolves_now | with_reducible refine evolves_getD (fun t ht => ?_) ?_ | (with_reducible refine evolves_id ?_; simp only [↓evolves_mk_iff]) | split | with_reducible apply evolvesSnd_mk | with_reducible apply evolvesFst_mk | with_reducible apply evolvesTrd_mk | (refine evolves_snd_eq (by with_reducible assumption) ?_) | (refine evolves_fst_eq (by with_reducible assumption) ?_) | (refine evolves_trd_eq (by with_reducible assumption) ?_))

end Sys2Proof.Machine
end

