-- ==== Sys2Proof/Laws/EvolveOperands.lean ====
section
/-! SUPPORT. What the operations of Machine/Operands.lean keep. -/

set_option Elab.async false
set_option linter.unusedSimpArgs false

namespace Sys2Proof.Machine

open Sys2Proof

theorem evolves_writeRow {o0 : State} (s : State) (t : Nat) (r : Nat) (bs : List Byte)  (hev : Evolves o0 s) :
    Evolves o0 (Sys2Proof.Machine.State.writeRow s t r bs) := by
  unfold Sys2Proof.Machine.State.writeRow
  repeat' (first | intro _ | with_reducible assumption | with_reducible refine EvolvesSnd.out ?_ | with_reducible refine EvolvesFst.out ?_ | with_reducible refine EvolvesTrd.out ?_ | with_reducible apply evolves_write | with_reducible apply evolves_forEach | with_reducible apply evolves_foldl | with_reducible apply evolves_foldl_snd | with_reducible apply evolves_foldl_fst | with_reducible apply evolves_ite | with_reducible apply evolves_ite_snd | with_reducible apply evolves_ite_fst | with_reducible apply evolves_now | with_reducible refine evolves_getD (fun t ht => ?_) ?_ | (with_reducible refine evolves_id ?_; simp only [↓evolves_mk_iff]) | split | with_reducible apply evolvesSnd_mk | with_reducible apply evolvesFst_mk | with_reducible apply evolvesTrd_mk | (refine evolves_snd_eq (by with_reducible assumption) ?_) | (refine evolves_fst_eq (by with_reducible assumption) ?_) | (refine evolves_trd_eq (by with_reducible assumption) ?_))

end Sys2Proof.Machine
end

