-- ==== Sys2Proof/Laws/EvolveArbiter.lean ====
section
/-! SUPPORT. What the operations of Machine/Arbiter.lean keep. -/

set_option Elab.async false
set_option linter.unusedSimpArgs false

namespace Sys2Proof.Machine

open Sys2Proof

theorem evolves_passArbiter {o0 : State} (s : State) (key : Nat) (weight : List Nat) (waiting : List Nat) (i : Nat) (n : Nat) (die : Option Nat)  (hev : Evolves o0 s) :
    Evolves o0 (Sys2Proof.Machine.State.passArbiter s key weight waiting i n die) := by
  unfold Sys2Proof.Machine.State.passArbiter
  repeat' (first | intro _ | with_reducible assumption | with_reducible refine EvolvesSnd.out ?_ | with_reducible refine EvolvesFst.out ?_ | with_reducible refine EvolvesTrd.out ?_ | with_reducible apply evolves_countEvent | with_reducible apply evolves_forEach | with_reducible apply evolves_foldl | with_reducible apply evolves_foldl_snd | with_reducible apply evolves_foldl_fst | with_reducible apply evolves_ite | with_reducible apply evolves_ite_snd | with_reducible apply evolves_ite_fst | with_reducible apply evolves_now | with_reducible refine evolves_getD (fun t ht => ?_) ?_ | (with_reducible refine evolves_id ?_; simp only [↓evolves_mk_iff]) | split | with_reducible apply evolvesSnd_mk | with_reducible apply evolvesFst_mk | with_reducible apply evolvesTrd_mk | (refine evolves_snd_eq (by with_reducible assumption) ?_) | (refine evolves_fst_eq (by with_reducible assumption) ?_) | (refine evolves_trd_eq (by with_reducible assumption) ?_))

theorem evolves_passRegion {o0 : State} (s : State) (active : List Nat) (t : Nat) (n : Nat)  (hev : Evolves o0 s) :
    Evolves o0 (Sys2Proof.Machine.State.passRegion s active t n) := by
  unfold Sys2Proof.Machine.State.passRegion
  repeat' (first | intro _ | with_reducible assumption | with_reducible refine EvolvesSnd.out ?_ | with_reducible refine EvolvesFst.out ?_ | with_reducible refine EvolvesTrd.out ?_ | with_reducible apply evolves_passArbiter | with_reducible apply evolves_forEach | with_reducible apply evolves_foldl | with_reducible apply evolves_foldl_snd | with_reducible apply evolves_foldl_fst | with_reducible apply evolves_ite | with_reducible apply evolves_ite_snd | with_reducible apply evolves_ite_fst | with_reducible apply evolves_now | with_reducible refine evolves_getD (fun t ht => ?_) ?_ | (with_reducible refine evolves_id ?_; simp only [↓evolves_mk_iff]) | split | with_reducible apply evolvesSnd_mk | with_reducible apply evolvesFst_mk | with_reducible apply evolvesTrd_mk | (refine evolves_snd_eq (by with_reducible assumption) ?_) | (refine evolves_fst_eq (by with_reducible assumption) ?_) | (refine evolves_trd_eq (by with_reducible assumption) ?_))

theorem evolves_passDie {o0 : State} (s : State) (active : List Nat) (r : Nat) (n : Nat) (x : Nat) (out : Nat)  (hev : Evolves o0 s) :
    Evolves o0 (Sys2Proof.Machine.State.passDie s active r n x out) := by
  unfold Sys2Proof.Machine.State.passDie
  repeat' (first | intro _ | with_reducible assumption | with_reducible refine EvolvesSnd.out ?_ | with_reducible refine EvolvesFst.out ?_ | with_reducible refine EvolvesTrd.out ?_ | with_reducible apply evolves_countEvent | with_reducible apply evolves_passArbiter | with_reducible apply evolves_forEach | with_reducible apply evolves_foldl | with_reducible apply evolves_foldl_snd | with_reducible apply evolves_foldl_fst | with_reducible apply evolves_ite | with_reducible apply evolves_ite_snd | with_reducible apply evolves_ite_fst | with_reducible apply evolves_now | with_reducible refine evolves_getD (fun t ht => ?_) ?_ | (with_reducible refine evolves_id ?_; simp only [↓evolves_mk_iff]) | split | with_reducible apply evolvesSnd_mk | with_reducible apply evolvesFst_mk | with_reducible apply evolvesTrd_mk | (refine evolves_snd_eq (by with_reducible assumption) ?_) | (refine evolves_fst_eq (by with_reducible assumption) ?_) | (refine evolves_trd_eq (by with_reducible assumption) ?_))

theorem evolves_travelTo {o0 : State} (s : State) (r : Nat) (dst : Nat) (out : Nat) (n : Nat)  (hev : Evolves o0 s) :
    Evolves o0 (Sys2Proof.Machine.State.travelTo s r dst out n) := by
  unfold Sys2Proof.Machine.State.travelTo
  repeat' (first | intro _ | with_reducible assumption | with_reducible refine EvolvesSnd.out ?_ | with_reducible refine EvolvesFst.out ?_ | with_reducible refine EvolvesTrd.out ?_ | with_reducible apply evolves_passRegion | with_reducible apply evolves_passDie | with_reducible apply evolves_forEach | with_reducible apply evolves_foldl | with_reducible apply evolves_foldl_snd | with_reducible apply evolves_foldl_fst | with_reducible apply evolves_ite | with_reducible apply evolves_ite_snd | with_reducible apply evolves_ite_fst | with_reducible apply evolves_now | with_reducible refine evolves_getD (fun t ht => ?_) ?_ | (with_reducible refine evolves_id ?_; simp only [↓evolves_mk_iff]) | split | with_reducible apply evolvesSnd_mk | with_reducible apply evolvesFst_mk | with_reducible apply evolvesTrd_mk | (refine evolves_snd_eq (by with_reducible assumption) ?_) | (refine evolves_fst_eq (by with_reducible assumption) ?_) | (refine evolves_trd_eq (by with_reducible assumption) ?_))

theorem evolves_travel {o0 : State} (s : State) (r : Nat) (dst : Nat) (n : Nat)  (hev : Evolves o0 s) :
    Evolves o0 (Sys2Proof.Machine.State.travel s r dst n) := by
  unfold Sys2Proof.Machine.State.travel
  repeat' (first | intro _ | with_reducible assumption | with_reducible refine EvolvesSnd.out ?_ | with_reducible refine EvolvesFst.out ?_ | with_reducible refine EvolvesTrd.out ?_ | with_reducible apply evolves_travelTo | with_reducible apply evolves_forEach | with_reducible apply evolves_foldl | with_reducible apply evolves_foldl_snd | with_reducible apply evolves_foldl_fst | with_reducible apply evolves_ite | with_reducible apply evolves_ite_snd | with_reducible apply evolves_ite_fst | with_reducible apply evolves_now | with_reducible refine evolves_getD (fun t ht => ?_) ?_ | (with_reducible refine evolves_id ?_; simp only [↓evolves_mk_iff]) | split | with_reducible apply evolvesSnd_mk | with_reducible apply evolvesFst_mk | with_reducible apply evolvesTrd_mk | (refine evolves_snd_eq (by with_reducible assumption) ?_) | (refine evolves_fst_eq (by with_reducible assumption) ?_) | (refine evolves_trd_eq (by with_reducible assumption) ?_))

theorem evolves_passBack {o0 : State} (s : State) (active : List Nat) (a : Nat) (r : Nat) (n : Nat) (x : Nat) (out : Nat)  (hev : Evolves o0 s) :
    Evolves o0 (Sys2Proof.Machine.State.passBack s active a r n x out) := by
  unfold Sys2Proof.Machine.State.passBack
  repeat' (first | intro _ | with_reducible assumption | with_reducible refine EvolvesSnd.out ?_ | with_reducible refine EvolvesFst.out ?_ | with_reducible refine EvolvesTrd.out ?_ | with_reducible apply evolves_countEvent | with_reducible apply evolves_passArbiter | with_reducible apply evolves_forEach | with_reducible apply evolves_foldl | with_reducible apply evolves_foldl_snd | with_reducible apply evolves_foldl_fst | with_reducible apply evolves_ite | with_reducible apply evolves_ite_snd | with_reducible apply evolves_ite_fst | with_reducible apply evolves_now | with_reducible refine evolves_getD (fun t ht => ?_) ?_ | (with_reducible refine evolves_id ?_; simp only [↓evolves_mk_iff]) | split | with_reducible apply evolvesSnd_mk | with_reducible apply evolvesFst_mk | with_reducible apply evolvesTrd_mk | (refine evolves_snd_eq (by with_reducible assumption) ?_) | (refine evolves_fst_eq (by with_reducible assumption) ?_) | (refine evolves_trd_eq (by with_reducible assumption) ?_))

theorem evolves_travelRead {o0 : State} (s : State) (r : Nat) (a : Nat) (n : Nat)  (hev : Evolves o0 s) :
    Evolves o0 (Sys2Proof.Machine.State.travelRead s r a n) := by
  unfold Sys2Proof.Machine.State.travelRead
  repeat' (first | intro _ | with_reducible assumption | with_reducible refine EvolvesSnd.out ?_ | with_reducible refine EvolvesFst.out ?_ | with_reducible refine EvolvesTrd.out ?_ | with_reducible apply evolves_passArbiter | with_reducible apply evolves_travelTo | with_reducible apply evolves_passBack | with_reducible apply evolves_forEach | with_reducible apply evolves_foldl | with_reducible apply evolves_foldl_snd | with_reducible apply evolves_foldl_fst | with_reducible apply evolves_ite | with_reducible apply evolves_ite_snd | with_reducible apply evolves_ite_fst | with_reducible apply evolves_now | with_reducible refine evolves_getD (fun t ht => ?_) ?_ | (with_reducible refine evolves_id ?_; simp only [↓evolves_mk_iff]) | split | with_reducible apply evolvesSnd_mk | with_reducible apply evolvesFst_mk | with_reducible apply evolvesTrd_mk | (refine evolves_snd_eq (by with_reducible assumption) ?_) | (refine evolves_fst_eq (by with_reducible assumption) ?_) | (refine evolves_trd_eq (by with_reducible assumption) ?_))

theorem evolves_countLines {o0 : State} (s : State) (r : Nat) (ev : Nat) (ks : List Nat)  (hev : Evolves o0 s) :
    Evolves o0 (Sys2Proof.Machine.State.countLines s r ev ks) := by
  unfold Sys2Proof.Machine.State.countLines
  repeat' (first | intro _ | with_reducible assumption | with_reducible refine EvolvesSnd.out ?_ | with_reducible refine EvolvesFst.out ?_ | with_reducible refine EvolvesTrd.out ?_ | with_reducible apply evolves_countEvent | with_reducible apply evolves_travel | with_reducible apply evolves_travelRead | with_reducible apply evolves_forEach | with_reducible apply evolves_foldl | with_reducible apply evolves_foldl_snd | with_reducible apply evolves_foldl_fst | with_reducible apply evolves_ite | with_reducible apply evolves_ite_snd | with_reducible apply evolves_ite_fst | with_reducible apply evolves_now | with_reducible refine evolves_getD (fun t ht => ?_) ?_ | (with_reducible refine evolves_id ?_; simp only [↓evolves_mk_iff]) | split | with_reducible apply evolvesSnd_mk | with_reducible apply evolvesFst_mk | with_reducible apply evolvesTrd_mk | (refine evolves_snd_eq (by with_reducible assumption) ?_) | (refine evolves_fst_eq (by with_reducible assumption) ?_) | (refine evolves_trd_eq (by with_reducible assumption) ?_))

theorem evolves_countPsram {o0 : State} (s : State) (r : Nat) (read : Bool) (ks : List Nat)  (hev : Evolves o0 s) :
    Evolves o0 (Sys2Proof.Machine.State.countPsram s r read ks) := by
  unfold Sys2Proof.Machine.State.countPsram
  repeat' (first | intro _ | with_reducible assumption | with_reducible refine EvolvesSnd.out ?_ | with_reducible refine EvolvesFst.out ?_ | with_reducible refine EvolvesTrd.out ?_ | with_reducible apply evolves_countEvent | with_reducible apply evolves_travel | with_reducible apply evolves_travelRead | with_reducible apply evolves_forEach | with_reducible apply evolves_foldl | with_reducible apply evolves_foldl_snd | with_reducible apply evolves_foldl_fst | with_reducible apply evolves_ite | with_reducible apply evolves_ite_snd | with_reducible apply evolves_ite_fst | with_reducible apply evolves_now | with_reducible refine evolves_getD (fun t ht => ?_) ?_ | (with_reducible refine evolves_id ?_; simp only [↓evolves_mk_iff]) | split | with_reducible apply evolvesSnd_mk | with_reducible apply evolvesFst_mk | with_reducible apply evolvesTrd_mk | (refine evolves_snd_eq (by with_reducible assumption) ?_) | (refine evolves_fst_eq (by with_reducible assumption) ?_) | (refine evolves_trd_eq (by with_reducible assumption) ?_))

end Sys2Proof.Machine
end

