-- ==== Sys2Proof/Laws/EvolveFaults.lean ====
section
/-! SUPPORT. What the operations of Machine/Faults.lean keep. -/

set_option Elab.async false
set_option linter.unusedSimpArgs false

namespace Sys2Proof.Machine

open Sys2Proof

theorem evolves_irqCause {o0 : State} (s : State) (p : Nat) (bit : Nat)  (hev : Evolves o0 s) :
    Evolves o0 (Sys2Proof.Machine.State.irqCause s p bit) := by
  unfold Sys2Proof.Machine.State.irqCause
  repeat' (first | intro _ | with_reducible assumption | with_reducible refine EvolvesSnd.out ?_ | with_reducible refine EvolvesFst.out ?_ | with_reducible refine EvolvesTrd.out ?_ | with_reducible apply evolves_setFld | with_reducible apply evolves_forEach | with_reducible apply evolves_foldl | with_reducible apply evolves_foldl_snd | with_reducible apply evolves_foldl_fst | with_reducible apply evolves_ite | with_reducible apply evolves_ite_snd | with_reducible apply evolves_ite_fst | with_reducible apply evolves_now | with_reducible refine evolves_getD (fun t ht => ?_) ?_ | (with_reducible refine evolves_id ?_; simp only [↓evolves_mk_iff]) | split | with_reducible apply evolvesSnd_mk | with_reducible apply evolvesFst_mk | with_reducible apply evolvesTrd_mk | (refine evolves_snd_eq (by with_reducible assumption) ?_) | (refine evolves_fst_eq (by with_reducible assumption) ?_) | (refine evolves_trd_eq (by with_reducible assumption) ?_))

theorem evolves_setPort {o0 : State} (s : State) (p : Nat) (P : Port)  (hev : Evolves o0 s) :
    Evolves o0 (Sys2Proof.Machine.State.setPort s p P) := by
  unfold Sys2Proof.Machine.State.setPort
  repeat' (first | intro _ | with_reducible assumption | with_reducible refine EvolvesSnd.out ?_ | with_reducible refine EvolvesFst.out ?_ | with_reducible refine EvolvesTrd.out ?_ | with_reducible apply evolves_forEach | with_reducible apply evolves_foldl | with_reducible apply evolves_foldl_snd | with_reducible apply evolves_foldl_fst | with_reducible apply evolves_ite | with_reducible apply evolves_ite_snd | with_reducible apply evolves_ite_fst | with_reducible apply evolves_now | with_reducible refine evolves_getD (fun t ht => ?_) ?_ | (with_reducible refine evolves_id ?_; simp only [↓evolves_mk_iff]) | split | with_reducible apply evolvesSnd_mk | with_reducible apply evolvesFst_mk | with_reducible apply evolvesTrd_mk | (refine evolves_snd_eq (by with_reducible assumption) ?_) | (refine evolves_fst_eq (by with_reducible assumption) ?_) | (refine evolves_trd_eq (by with_reducible assumption) ?_))

theorem evolves_updPort {o0 : State} (s : State) (p : Nat) (f : Port → Port)  (hev : Evolves o0 s) :
    Evolves o0 (Sys2Proof.Machine.State.updPort s p f) := by
  unfold Sys2Proof.Machine.State.updPort
  repeat' (first | intro _ | with_reducible assumption | with_reducible refine EvolvesSnd.out ?_ | with_reducible refine EvolvesFst.out ?_ | with_reducible refine EvolvesTrd.out ?_ | with_reducible apply evolves_setPort | with_reducible apply evolves_forEach | with_reducible apply evolves_foldl | with_reducible apply evolves_foldl_snd | with_reducible apply evolves_foldl_fst | with_reducible apply evolves_ite | with_reducible apply evolves_ite_snd | with_reducible apply evolves_ite_fst | with_reducible apply evolves_now | with_reducible refine evolves_getD (fun t ht => ?_) ?_ | (with_reducible refine evolves_id ?_; simp only [↓evolves_mk_iff]) | split | with_reducible apply evolvesSnd_mk | with_reducible apply evolvesFst_mk | with_reducible apply evolvesTrd_mk | (refine evolves_snd_eq (by with_reducible assumption) ?_) | (refine evolves_fst_eq (by with_reducible assumption) ?_) | (refine evolves_trd_eq (by with_reducible assumption) ?_))

theorem evolves_noticeTo {o0 : State} (s : State) (p : Nat) (ty : Nat) (code : Nat) (tenant : Nat) (arg : Nat)  (hev : Evolves o0 s) :
    Evolves o0 (Sys2Proof.Machine.State.noticeTo s p ty code tenant arg) := by
  unfold Sys2Proof.Machine.State.noticeTo
  repeat' (first | intro _ | with_reducible assumption | with_reducible refine EvolvesSnd.out ?_ | with_reducible refine EvolvesFst.out ?_ | with_reducible refine EvolvesTrd.out ?_ | with_reducible apply evolves_setReg | with_reducible apply evolves_write | with_reducible apply evolves_irqCause | with_reducible apply evolves_updPort | with_reducible apply evolves_forEach | with_reducible apply evolves_foldl | with_reducible apply evolves_foldl_snd | with_reducible apply evolves_foldl_fst | with_reducible apply evolves_ite | with_reducible apply evolves_ite_snd | with_reducible apply evolves_ite_fst | with_reducible apply evolves_now | with_reducible refine evolves_getD (fun t ht => ?_) ?_ | (with_reducible refine evolves_id ?_; simp only [↓evolves_mk_iff]) | split | with_reducible apply evolvesSnd_mk | with_reducible apply evolvesFst_mk | with_reducible apply evolvesTrd_mk | (refine evolves_snd_eq (by with_reducible assumption) ?_) | (refine evolves_fst_eq (by with_reducible assumption) ?_) | (refine evolves_trd_eq (by with_reducible assumption) ?_))

theorem evolves_notice {o0 : State} (s : State) (ty : Nat) (code : Nat) (tenant : Nat) (arg : Nat)  (hev : Evolves o0 s) :
    Evolves o0 (Sys2Proof.Machine.State.notice s ty code tenant arg) := by
  unfold Sys2Proof.Machine.State.notice
  repeat' (first | intro _ | with_reducible assumption | with_reducible refine EvolvesSnd.out ?_ | with_reducible refine EvolvesFst.out ?_ | with_reducible refine EvolvesTrd.out ?_ | with_reducible apply evolves_noticeTo | with_reducible apply evolves_forEach | with_reducible apply evolves_foldl | with_reducible apply evolves_foldl_snd | with_reducible apply evolves_foldl_fst | with_reducible apply evolves_ite | with_reducible apply evolves_ite_snd | with_reducible apply evolves_ite_fst | with_reducible apply evolves_now | with_reducible refine evolves_getD (fun t ht => ?_) ?_ | (with_reducible refine evolves_id ?_; simp only [↓evolves_mk_iff]) | split | with_reducible apply evolvesSnd_mk | with_reducible apply evolvesFst_mk | with_reducible apply evolvesTrd_mk | (refine evolves_snd_eq (by with_reducible assumption) ?_) | (refine evolves_fst_eq (by with_reducible assumption) ?_) | (refine evolves_trd_eq (by with_reducible assumption) ?_))

theorem evolves_faultNotice {o0 : State} (s : State) (code : Nat) (tile : Nat)  (hev : Evolves o0 s) :
    Evolves o0 (Sys2Proof.Machine.State.faultNotice s code tile) := by
  unfold Sys2Proof.Machine.State.faultNotice
  repeat' (first | intro _ | with_reducible assumption | with_reducible refine EvolvesSnd.out ?_ | with_reducible refine EvolvesFst.out ?_ | with_reducible refine EvolvesTrd.out ?_ | with_reducible apply evolves_notice | with_reducible apply evolves_forEach | with_reducible apply evolves_foldl | with_reducible apply evolves_foldl_snd | with_reducible apply evolves_foldl_fst | with_reducible apply evolves_ite | with_reducible apply evolves_ite_snd | with_reducible apply evolves_ite_fst | with_reducible apply evolves_now | with_reducible refine evolves_getD (fun t ht => ?_) ?_ | (with_reducible refine evolves_id ?_; simp only [↓evolves_mk_iff]) | split | with_reducible apply evolvesSnd_mk | with_reducible apply evolvesFst_mk | with_reducible apply evolvesTrd_mk | (refine evolves_snd_eq (by with_reducible assumption) ?_) | (refine evolves_fst_eq (by with_reducible assumption) ?_) | (refine evolves_trd_eq (by with_reducible assumption) ?_))

theorem evolves_setIsland {o0 : State} (s : State) (x : Side) (i : Island)  (hev : Evolves o0 s) :
    Evolves o0 (Sys2Proof.Machine.State.setIsland s x i) := by
  unfold Sys2Proof.Machine.State.setIsland
  repeat' (first | intro _ | with_reducible assumption | with_reducible refine EvolvesSnd.out ?_ | with_reducible refine EvolvesFst.out ?_ | with_reducible refine EvolvesTrd.out ?_ | with_reducible apply evolves_forEach | with_reducible apply evolves_foldl | with_reducible apply evolves_foldl_snd | with_reducible apply evolves_foldl_fst | with_reducible apply evolves_ite | with_reducible apply evolves_ite_snd | with_reducible apply evolves_ite_fst | with_reducible apply evolves_now | with_reducible refine evolves_getD (fun t ht => ?_) ?_ | (with_reducible refine evolves_id ?_; simp only [↓evolves_mk_iff]) | split | with_reducible apply evolvesSnd_mk | with_reducible apply evolvesFst_mk | with_reducible apply evolvesTrd_mk | (refine evolves_snd_eq (by with_reducible assumption) ?_) | (refine evolves_fst_eq (by with_reducible assumption) ?_) | (refine evolves_trd_eq (by with_reducible assumption) ?_))

theorem evolves_assertPin {o0 : State} (s : State) (x : Side)  (hev : Evolves o0 s) :
    Evolves o0 (Sys2Proof.Machine.State.assertPin s x) := by
  unfold Sys2Proof.Machine.State.assertPin
  repeat' (first | intro _ | with_reducible assumption | with_reducible refine EvolvesSnd.out ?_ | with_reducible refine EvolvesFst.out ?_ | with_reducible refine EvolvesTrd.out ?_ | with_reducible apply evolves_setFld | with_reducible apply evolves_forEach | with_reducible apply evolves_foldl | with_reducible apply evolves_foldl_snd | with_reducible apply evolves_foldl_fst | with_reducible apply evolves_ite | with_reducible apply evolves_ite_snd | with_reducible apply evolves_ite_fst | with_reducible apply evolves_now | with_reducible refine evolves_getD (fun t ht => ?_) ?_ | (with_reducible refine evolves_id ?_; simp only [↓evolves_mk_iff]) | split | with_reducible apply evolvesSnd_mk | with_reducible apply evolvesFst_mk | with_reducible apply evolvesTrd_mk | (refine evolves_snd_eq (by with_reducible assumption) ?_) | (refine evolves_fst_eq (by with_reducible assumption) ?_) | (refine evolves_trd_eq (by with_reducible assumption) ?_))

theorem evolves_assertBoth {o0 : State} (s : State)  (hev : Evolves o0 s) :
    Evolves o0 (Sys2Proof.Machine.State.assertBoth s) := by
  unfold Sys2Proof.Machine.State.assertBoth
  repeat' (first | intro _ | with_reducible assumption | with_reducible refine EvolvesSnd.out ?_ | with_reducible refine EvolvesFst.out ?_ | with_reducible refine EvolvesTrd.out ?_ | with_reducible apply evolves_assertPin | with_reducible apply evolves_forEach | with_reducible apply evolves_foldl | with_reducible apply evolves_foldl_snd | with_reducible apply evolves_foldl_fst | with_reducible apply evolves_ite | with_reducible apply evolves_ite_snd | with_reducible apply evolves_ite_fst | with_reducible apply evolves_now | with_reducible refine evolves_getD (fun t ht => ?_) ?_ | (with_reducible refine evolves_id ?_; simp only [↓evolves_mk_iff]) | split | with_reducible apply evolvesSnd_mk | with_reducible apply evolvesFst_mk | with_reducible apply evolvesTrd_mk | (refine evolves_snd_eq (by with_reducible assumption) ?_) | (refine evolves_fst_eq (by with_reducible assumption) ?_) | (refine evolves_trd_eq (by with_reducible assumption) ?_))

theorem evolves_logIsland {o0 : State} (s : State) (x : Side) (code : Nat) (act : Nat)  (hev : Evolves o0 s) :
    Evolves o0 (Sys2Proof.Machine.State.logIsland s x code act) := by
  unfold Sys2Proof.Machine.State.logIsland
  repeat' (first | intro _ | with_reducible assumption | with_reducible refine EvolvesSnd.out ?_ | with_reducible refine EvolvesFst.out ?_ | with_reducible refine EvolvesTrd.out ?_ | with_reducible apply evolves_setReg | with_reducible apply evolves_forEach | with_reducible apply evolves_foldl | with_reducible apply evolves_foldl_snd | with_reducible apply evolves_foldl_fst | with_reducible apply evolves_ite | with_reducible apply evolves_ite_snd | with_reducible apply evolves_ite_fst | with_reducible apply evolves_now | with_reducible refine evolves_getD (fun t ht => ?_) ?_ | (with_reducible refine evolves_id ?_; simp only [↓evolves_mk_iff]) | split | with_reducible apply evolvesSnd_mk | with_reducible apply evolvesFst_mk | with_reducible apply evolvesTrd_mk | (refine evolves_snd_eq (by with_reducible assumption) ?_) | (refine evolves_fst_eq (by with_reducible assumption) ?_) | (refine evolves_trd_eq (by with_reducible assumption) ?_))

theorem evolves_logIslands {o0 : State} (s : State) (code : Nat) (act : Nat)  (hev : Evolves o0 s) :
    Evolves o0 (Sys2Proof.Machine.State.logIslands s code act) := by
  unfold Sys2Proof.Machine.State.logIslands
  repeat' (first | intro _ | with_reducible assumption | with_reducible refine EvolvesSnd.out ?_ | with_reducible refine EvolvesFst.out ?_ | with_reducible refine EvolvesTrd.out ?_ | with_reducible apply evolves_logIsland | with_reducible apply evolves_forEach | with_reducible apply evolves_foldl | with_reducible apply evolves_foldl_snd | with_reducible apply evolves_foldl_fst | with_reducible apply evolves_ite | with_reducible apply evolves_ite_snd | with_reducible apply evolves_ite_fst | with_reducible apply evolves_now | with_reducible refine evolves_getD (fun t ht => ?_) ?_ | (with_reducible refine evolves_id ?_; simp only [↓evolves_mk_iff]) | split | with_reducible apply evolvesSnd_mk | with_reducible apply evolvesFst_mk | with_reducible apply evolvesTrd_mk | (refine evolves_snd_eq (by with_reducible assumption) ?_) | (refine evolves_fst_eq (by with_reducible assumption) ?_) | (refine evolves_trd_eq (by with_reducible assumption) ?_))

theorem evolves_safeHold {o0 : State} (s : State) (code : Nat)  (hev : Evolves o0 s) :
    Evolves o0 (Sys2Proof.Machine.State.safeHold s code) := by
  unfold Sys2Proof.Machine.State.safeHold
  repeat' (first | intro _ | with_reducible assumption | with_reducible refine EvolvesSnd.out ?_ | with_reducible refine EvolvesFst.out ?_ | with_reducible refine EvolvesTrd.out ?_ | with_reducible apply evolves_assertBoth | with_reducible apply evolves_logIslands | with_reducible apply evolves_forEach | with_reducible apply evolves_foldl | with_reducible apply evolves_foldl_snd | with_reducible apply evolves_foldl_fst | with_reducible apply evolves_ite | with_reducible apply evolves_ite_snd | with_reducible apply evolves_ite_fst | with_reducible apply evolves_now | with_reducible refine evolves_getD (fun t ht => ?_) ?_ | (with_reducible refine evolves_id ?_; simp only [↓evolves_mk_iff]) | split | with_reducible apply evolvesSnd_mk | with_reducible apply evolvesFst_mk | with_reducible apply evolvesTrd_mk | (refine evolves_snd_eq (by with_reducible assumption) ?_) | (refine evolves_fst_eq (by with_reducible assumption) ?_) | (refine evolves_trd_eq (by with_reducible assumption) ?_))

theorem evolves_driveGpio {o0 : State} (s : State) (ev : Nat)  (hev : Evolves o0 s) :
    Evolves o0 (Sys2Proof.Machine.State.driveGpio s ev) := by
  unfold Sys2Proof.Machine.State.driveGpio
  repeat' (first | intro _ | with_reducible assumption | with_reducible refine EvolvesSnd.out ?_ | with_reducible refine EvolvesFst.out ?_ | with_reducible refine EvolvesTrd.out ?_ | with_reducible apply evolves_forEach | with_reducible apply evolves_foldl | with_reducible apply evolves_foldl_snd | with_reducible apply evolves_foldl_fst | with_reducible apply evolves_ite | with_reducible apply evolves_ite_snd | with_reducible apply evolves_ite_fst | with_reducible apply evolves_now | with_reducible refine evolves_getD (fun t ht => ?_) ?_ | (with_reducible refine evolves_id ?_; simp only [↓evolves_mk_iff]) | split | with_reducible apply evolvesSnd_mk | with_reducible apply evolvesFst_mk | with_reducible apply evolvesTrd_mk | (refine evolves_snd_eq (by with_reducible assumption) ?_) | (refine evolves_fst_eq (by with_reducible assumption) ?_) | (refine evolves_trd_eq (by with_reducible assumption) ?_))

theorem evolves_islandAct {o0 : State} (s : State) (ev : Nat) (code : Nat) (own : Bool) (safetyRank : Bool)  (hev : Evolves o0 s) :
    Evolves o0 (Sys2Proof.Machine.State.islandAct s ev code own safetyRank) := by
  unfold Sys2Proof.Machine.State.islandAct
  repeat' (first | intro _ | with_reducible assumption | with_reducible refine EvolvesSnd.out ?_ | with_reducible refine EvolvesFst.out ?_ | with_reducible refine EvolvesTrd.out ?_ | with_reducible apply evolves_faultNotice | with_reducible apply evolves_logIslands | with_reducible apply evolves_safeHold | with_reducible apply evolves_driveGpio | with_reducible apply evolves_forEach | with_reducible apply evolves_foldl | with_reducible apply evolves_foldl_snd | with_reducible apply evolves_foldl_fst | with_reducible apply evolves_ite | with_reducible apply evolves_ite_snd | with_reducible apply evolves_ite_fst | with_reducible apply evolves_now | with_reducible refine evolves_getD (fun t ht => ?_) ?_ | (with_reducible refine evolves_id ?_; simp only [↓evolves_mk_iff]) | split | with_reducible apply evolvesSnd_mk | with_reducible apply evolvesFst_mk | with_reducible apply evolvesTrd_mk | (refine evolves_snd_eq (by with_reducible assumption) ?_) | (refine evolves_fst_eq (by with_reducible assumption) ?_) | (refine evolves_trd_eq (by with_reducible assumption) ?_))

theorem evolves_stopTile {o0 : State} (s : State) (t : Nat)  (hev : Evolves o0 s) :
    Evolves o0 (Sys2Proof.Machine.State.stopTile s t) := by
  unfold Sys2Proof.Machine.State.stopTile
  repeat' (first | intro _ | with_reducible assumption | with_reducible refine EvolvesSnd.out ?_ | with_reducible refine EvolvesFst.out ?_ | with_reducible refine EvolvesTrd.out ?_ | with_reducible apply evolves_updTile | with_reducible apply evolves_forEach | with_reducible apply evolves_foldl | with_reducible apply evolves_foldl_snd | with_reducible apply evolves_foldl_fst | with_reducible apply evolves_ite | with_reducible apply evolves_ite_snd | with_reducible apply evolves_ite_fst | with_reducible apply evolves_now | with_reducible refine evolves_getD (fun t ht => ?_) ?_ | (with_reducible refine evolves_id ?_; simp only [↓evolves_mk_iff]) | split | with_reducible apply evolvesSnd_mk | with_reducible apply evolvesFst_mk | with_reducible apply evolvesTrd_mk | (refine evolves_snd_eq (by with_reducible assumption) ?_) | (refine evolves_fst_eq (by with_reducible assumption) ?_) | (refine evolves_trd_eq (by with_reducible assumption) ?_))

theorem evolves_warmStop {o0 : State} (s : State)  (hev : Evolves o0 s) :
    Evolves o0 (Sys2Proof.Machine.State.warmStop s) := by
  unfold Sys2Proof.Machine.State.warmStop
  repeat' (first | intro _ | with_reducible assumption | with_reducible refine EvolvesSnd.out ?_ | with_reducible refine EvolvesFst.out ?_ | with_reducible refine EvolvesTrd.out ?_ | with_reducible apply evolves_setFld | with_reducible apply evolves_updPort | with_reducible apply evolves_stopTile | with_reducible apply evolves_forEach | with_reducible apply evolves_foldl | with_reducible apply evolves_foldl_snd | with_reducible apply evolves_foldl_fst | with_reducible apply evolves_ite | with_reducible apply evolves_ite_snd | with_reducible apply evolves_ite_fst | with_reducible apply evolves_now | with_reducible refine evolves_getD (fun t ht => ?_) ?_ | (with_reducible refine evolves_id ?_; simp only [↓evolves_mk_iff]) | split | with_reducible apply evolvesSnd_mk | with_reducible apply evolvesFst_mk | with_reducible apply evolvesTrd_mk | (refine evolves_snd_eq (by with_reducible assumption) ?_) | (refine evolves_fst_eq (by with_reducible assumption) ?_) | (refine evolves_trd_eq (by with_reducible assumption) ?_))

theorem evolves_safeReset {o0 : State} (s : State) (code : Nat)  (hev : Evolves o0 s) :
    Evolves o0 (Sys2Proof.Machine.State.safeReset s code) := by
  unfold Sys2Proof.Machine.State.safeReset
  repeat' (first | intro _ | with_reducible assumption | with_reducible refine EvolvesSnd.out ?_ | with_reducible refine EvolvesFst.out ?_ | with_reducible refine EvolvesTrd.out ?_ | with_reducible apply evolves_assertBoth | with_reducible apply evolves_logIslands | with_reducible apply evolves_warmStop | with_reducible apply evolves_forEach | with_reducible apply evolves_foldl | with_reducible apply evolves_foldl_snd | with_reducible apply evolves_foldl_fst | with_reducible apply evolves_ite | with_reducible apply evolves_ite_snd | with_reducible apply evolves_ite_fst | with_reducible apply evolves_now | with_reducible refine evolves_getD (fun t ht => ?_) ?_ | (with_reducible refine evolves_id ?_; simp only [↓evolves_mk_iff]) | split | with_reducible apply evolvesSnd_mk | with_reducible apply evolvesFst_mk | with_reducible apply evolvesTrd_mk | (refine evolves_snd_eq (by with_reducible assumption) ?_) | (refine evolves_fst_eq (by with_reducible assumption) ?_) | (refine evolves_trd_eq (by with_reducible assumption) ?_))

theorem evolves_setSafeBit {o0 : State} (s : State) (base : Nat) (t : Nat) (b : Bool)  (hev : Evolves o0 s) :
    Evolves o0 (Sys2Proof.Machine.State.setSafeBit s base t b) := by
  unfold Sys2Proof.Machine.State.setSafeBit
  repeat' (first | intro _ | with_reducible assumption | with_reducible refine EvolvesSnd.out ?_ | with_reducible refine EvolvesFst.out ?_ | with_reducible refine EvolvesTrd.out ?_ | with_reducible apply evolves_setFld | with_reducible apply evolves_forEach | with_reducible apply evolves_foldl | with_reducible apply evolves_foldl_snd | with_reducible apply evolves_foldl_fst | with_reducible apply evolves_ite | with_reducible apply evolves_ite_snd | with_reducible apply evolves_ite_fst | with_reducible apply evolves_now | with_reducible refine evolves_getD (fun t ht => ?_) ?_ | (with_reducible refine evolves_id ?_; simp only [↓evolves_mk_iff]) | split | with_reducible apply evolvesSnd_mk | with_reducible apply evolvesFst_mk | with_reducible apply evolvesTrd_mk | (refine evolves_snd_eq (by with_reducible assumption) ?_) | (refine evolves_fst_eq (by with_reducible assumption) ?_) | (refine evolves_trd_eq (by with_reducible assumption) ?_))

theorem evolves_isolateTile {o0 : State} (s : State) (t : Nat) (h : Health)  (hev : Evolves o0 s) :
    Evolves o0 (Sys2Proof.Machine.State.isolateTile s t h) := by
  unfold Sys2Proof.Machine.State.isolateTile
  repeat' (first | intro _ | with_reducible assumption | with_reducible refine EvolvesSnd.out ?_ | with_reducible refine EvolvesFst.out ?_ | with_reducible refine EvolvesTrd.out ?_ | with_reducible apply evolves_setFld | with_reducible apply evolves_updTile | with_reducible apply evolves_setSafeBit | with_reducible apply evolves_forEach | with_reducible apply evolves_foldl | with_reducible apply evolves_foldl_snd | with_reducible apply evolves_foldl_fst | with_reducible apply evolves_ite | with_reducible apply evolves_ite_snd | with_reducible apply evolves_ite_fst | with_reducible apply evolves_now | with_reducible refine evolves_getD (fun t ht => ?_) ?_ | (with_reducible refine evolves_id ?_; simp only [↓evolves_mk_iff]) | split | with_reducible apply evolvesSnd_mk | with_reducible apply evolvesFst_mk | with_reducible apply evolvesTrd_mk | (refine evolves_snd_eq (by with_reducible assumption) ?_) | (refine evolves_fst_eq (by with_reducible assumption) ?_) | (refine evolves_trd_eq (by with_reducible assumption) ?_))

theorem evolves_isolateLane {o0 : State} (s : State) (j : Nat)  (hev : Evolves o0 s) :
    Evolves o0 (Sys2Proof.Machine.State.isolateLane s j) := by
  unfold Sys2Proof.Machine.State.isolateLane
  repeat' (first | intro _ | with_reducible assumption | with_reducible refine EvolvesSnd.out ?_ | with_reducible refine EvolvesFst.out ?_ | with_reducible refine EvolvesTrd.out ?_ | with_reducible apply evolves_setFld | with_reducible apply evolves_forEach | with_reducible apply evolves_foldl | with_reducible apply evolves_foldl_snd | with_reducible apply evolves_foldl_fst | with_reducible apply evolves_ite | with_reducible apply evolves_ite_snd | with_reducible apply evolves_ite_fst | with_reducible apply evolves_now | with_reducible refine evolves_getD (fun t ht => ?_) ?_ | (with_reducible refine evolves_id ?_; simp only [↓evolves_mk_iff]) | split | with_reducible apply evolvesSnd_mk | with_reducible apply evolvesFst_mk | with_reducible apply evolvesTrd_mk | (refine evolves_snd_eq (by with_reducible assumption) ?_) | (refine evolves_fst_eq (by with_reducible assumption) ?_) | (refine evolves_trd_eq (by with_reducible assumption) ?_))

theorem evolves_setDegraded {o0 : State} (s : State)  (hev : Evolves o0 s) :
    Evolves o0 (Sys2Proof.Machine.State.setDegraded s) := by
  unfold Sys2Proof.Machine.State.setDegraded
  repeat' (first | intro _ | with_reducible assumption | with_reducible refine EvolvesSnd.out ?_ | with_reducible refine EvolvesFst.out ?_ | with_reducible refine EvolvesTrd.out ?_ | with_reducible apply evolves_setFld | with_reducible apply evolves_forEach | with_reducible apply evolves_foldl | with_reducible apply evolves_foldl_snd | with_reducible apply evolves_foldl_fst | with_reducible apply evolves_ite | with_reducible apply evolves_ite_snd | with_reducible apply evolves_ite_fst | with_reducible apply evolves_now | with_reducible refine evolves_getD (fun t ht => ?_) ?_ | (with_reducible refine evolves_id ?_; simp only [↓evolves_mk_iff]) | split | with_reducible apply evolvesSnd_mk | with_reducible apply evolvesFst_mk | with_reducible apply evolvesTrd_mk | (refine evolves_snd_eq (by with_reducible assumption) ?_) | (refine evolves_fst_eq (by with_reducible assumption) ?_) | (refine evolves_trd_eq (by with_reducible assumption) ?_))

theorem evolves_isolateOne {o0 : State} (s : State) (t : Nat)  (hev : Evolves o0 s) :
    Evolves o0 (Sys2Proof.Machine.State.isolateOne s t) := by
  unfold Sys2Proof.Machine.State.isolateOne
  repeat' (first | intro _ | with_reducible assumption | with_reducible refine EvolvesSnd.out ?_ | with_reducible refine EvolvesFst.out ?_ | with_reducible refine EvolvesTrd.out ?_ | with_reducible apply evolves_isolateTile | with_reducible apply evolves_forEach | with_reducible apply evolves_foldl | with_reducible apply evolves_foldl_snd | with_reducible apply evolves_foldl_fst | with_reducible apply evolves_ite | with_reducible apply evolves_ite_snd | with_reducible apply evolves_ite_fst | with_reducible apply evolves_now | with_reducible refine evolves_getD (fun t ht => ?_) ?_ | (with_reducible refine evolves_id ?_; simp only [↓evolves_mk_iff]) | split | with_reducible apply evolvesSnd_mk | with_reducible apply evolvesFst_mk | with_reducible apply evolvesTrd_mk | (refine evolves_snd_eq (by with_reducible assumption) ?_) | (refine evolves_fst_eq (by with_reducible assumption) ?_) | (refine evolves_trd_eq (by with_reducible assumption) ?_))

theorem evolves_isolateUnit {o0 : State} (s : State) (u : FaultUnit)  (hev : Evolves o0 s) :
    Evolves o0 (Sys2Proof.Machine.State.isolateUnit s u) := by
  unfold Sys2Proof.Machine.State.isolateUnit
  repeat' (first | intro _ | with_reducible assumption | with_reducible refine EvolvesSnd.out ?_ | with_reducible refine EvolvesFst.out ?_ | with_reducible refine EvolvesTrd.out ?_ | with_reducible apply evolves_isolateTile | with_reducible apply evolves_isolateLane | with_reducible apply evolves_isolateOne | with_reducible apply evolves_forEach | with_reducible apply evolves_foldl | with_reducible apply evolves_foldl_snd | with_reducible apply evolves_foldl_fst | with_reducible apply evolves_ite | with_reducible apply evolves_ite_snd | with_reducible apply evolves_ite_fst | with_reducible apply evolves_now | with_reducible refine evolves_getD (fun t ht => ?_) ?_ | (with_reducible refine evolves_id ?_; simp only [↓evolves_mk_iff]) | split | with_reducible apply evolvesSnd_mk | with_reducible apply evolvesFst_mk | with_reducible apply evolvesTrd_mk | (refine evolves_snd_eq (by with_reducible assumption) ?_) | (refine evolves_fst_eq (by with_reducible assumption) ?_) | (refine evolves_trd_eq (by with_reducible assumption) ?_))

theorem evolves_isolateHalted {o0 : State} (s : State) (d : Nat)  (hev : Evolves o0 s) :
    Evolves o0 (Sys2Proof.Machine.State.isolateHalted s d) := by
  unfold Sys2Proof.Machine.State.isolateHalted
  repeat' (first | intro _ | with_reducible assumption | with_reducible refine EvolvesSnd.out ?_ | with_reducible refine EvolvesFst.out ?_ | with_reducible refine EvolvesTrd.out ?_ | with_reducible apply evolves_isolateTile | with_reducible apply evolves_forEach | with_reducible apply evolves_foldl | with_reducible apply evolves_foldl_snd | with_reducible apply evolves_foldl_fst | with_reducible apply evolves_ite | with_reducible apply evolves_ite_snd | with_reducible apply evolves_ite_fst | with_reducible apply evolves_now | with_reducible refine evolves_getD (fun t ht => ?_) ?_ | (with_reducible refine evolves_id ?_; simp only [↓evolves_mk_iff]) | split | with_reducible apply evolvesSnd_mk | with_reducible apply evolvesFst_mk | with_reducible apply evolvesTrd_mk | (refine evolves_snd_eq (by with_reducible assumption) ?_) | (refine evolves_fst_eq (by with_reducible assumption) ?_) | (refine evolves_trd_eq (by with_reducible assumption) ?_))

theorem evolves_quench {o0 : State} (s : State)  (hev : Evolves o0 s) :
    Evolves o0 (Sys2Proof.Machine.State.quench s) := by
  unfold Sys2Proof.Machine.State.quench
  repeat' (first | intro _ | with_reducible assumption | with_reducible refine EvolvesSnd.out ?_ | with_reducible refine EvolvesFst.out ?_ | with_reducible refine EvolvesTrd.out ?_ | with_reducible apply evolves_stopTile | with_reducible apply evolves_forEach | with_reducible apply evolves_foldl | with_reducible apply evolves_foldl_snd | with_reducible apply evolves_foldl_fst | with_reducible apply evolves_ite | with_reducible apply evolves_ite_snd | with_reducible apply evolves_ite_fst | with_reducible apply evolves_now | with_reducible refine evolves_getD (fun t ht => ?_) ?_ | (with_reducible refine evolves_id ?_; simp only [↓evolves_mk_iff]) | split | with_reducible apply evolvesSnd_mk | with_reducible apply evolvesFst_mk | with_reducible apply evolvesTrd_mk | (refine evolves_snd_eq (by with_reducible assumption) ?_) | (refine evolves_fst_eq (by with_reducible assumption) ?_) | (refine evolves_trd_eq (by with_reducible assumption) ?_))

theorem evolves_startRecovery {o0 : State} (s : State) (x : Suspect)  (hev : Evolves o0 s) :
    Evolves o0 (Sys2Proof.Machine.State.startRecovery s x) := by
  unfold Sys2Proof.Machine.State.startRecovery
  repeat' (first | intro _ | with_reducible assumption | with_reducible refine EvolvesSnd.out ?_ | with_reducible refine EvolvesFst.out ?_ | with_reducible refine EvolvesTrd.out ?_ | with_reducible apply evolves_setFld | with_reducible apply evolves_quench | with_reducible apply evolves_forEach | with_reducible apply evolves_foldl | with_reducible apply evolves_foldl_snd | with_reducible apply evolves_foldl_fst | with_reducible apply evolves_ite | with_reducible apply evolves_ite_snd | with_reducible apply evolves_ite_fst | with_reducible apply evolves_now | with_reducible refine evolves_getD (fun t ht => ?_) ?_ | (with_reducible refine evolves_id ?_; simp only [↓evolves_mk_iff]) | split | with_reducible apply evolvesSnd_mk | with_reducible apply evolvesFst_mk | with_reducible apply evolvesTrd_mk | (refine evolves_snd_eq (by with_reducible assumption) ?_) | (refine evolves_fst_eq (by with_reducible assumption) ?_) | (refine evolves_trd_eq (by with_reducible assumption) ?_))

theorem evolves_hwFault {o0 : State} (s : State) (x : Suspect)  (hev : Evolves o0 s) :
    Evolves o0 (Sys2Proof.Machine.State.hwFault s x) := by
  unfold Sys2Proof.Machine.State.hwFault
  repeat' (first | intro _ | with_reducible assumption | with_reducible refine EvolvesSnd.out ?_ | with_reducible refine EvolvesFst.out ?_ | with_reducible refine EvolvesTrd.out ?_ | with_reducible apply evolves_isolateUnit | with_reducible apply evolves_isolateHalted | with_reducible apply evolves_startRecovery | with_reducible apply evolves_forEach | with_reducible apply evolves_foldl | with_reducible apply evolves_foldl_snd | with_reducible apply evolves_foldl_fst | with_reducible apply evolves_ite | with_reducible apply evolves_ite_snd | with_reducible apply evolves_ite_fst | with_reducible apply evolves_now | with_reducible refine evolves_getD (fun t ht => ?_) ?_ | (with_reducible refine evolves_id ?_; simp only [↓evolves_mk_iff]) | split | with_reducible apply evolvesSnd_mk | with_reducible apply evolvesFst_mk | with_reducible apply evolvesTrd_mk | (refine evolves_snd_eq (by with_reducible assumption) ?_) | (refine evolves_fst_eq (by with_reducible assumption) ?_) | (refine evolves_trd_eq (by with_reducible assumption) ?_))

end Sys2Proof.Machine
end

