-- ==== Sys2Proof/Laws/EvolveServe.lean ====
section
/-! SUPPORT. What the operations of Machine/Serve.lean keep. -/

set_option Elab.async false
set_option linter.unusedSimpArgs false

namespace Sys2Proof.Machine

open Sys2Proof

theorem evolves_countPoison {o0 : State} (s : State) (ks : List Nat)  (hev : Evolves o0 s) :
    Evolves o0 (Sys2Proof.Machine.State.countPoison s ks) := by
  unfold Sys2Proof.Machine.State.countPoison
  repeat' (first | intro _ | with_reducible assumption | with_reducible refine EvolvesSnd.out ?_ | with_reducible refine EvolvesFst.out ?_ | with_reducible refine EvolvesTrd.out ?_ | with_reducible apply evolves_bump | with_reducible apply evolves_countErr | with_reducible apply evolves_forEach | with_reducible apply evolves_foldl | with_reducible apply evolves_foldl_snd | with_reducible apply evolves_foldl_fst | with_reducible apply evolves_ite | with_reducible apply evolves_ite_snd | with_reducible apply evolves_ite_fst | with_reducible apply evolves_now | with_reducible refine evolves_getD (fun t ht => ?_) ?_ | (with_reducible refine evolves_id ?_; simp only [↓evolves_mk_iff]) | split | with_reducible apply evolvesSnd_mk | with_reducible apply evolvesFst_mk | with_reducible apply evolvesTrd_mk | (refine evolves_snd_eq (by with_reducible assumption) ?_) | (refine evolves_fst_eq (by with_reducible assumption) ?_) | (refine evolves_trd_eq (by with_reducible assumption) ?_))

theorem evolves_writeHere {s0 : State} (s : State) (ks : List Nat) (bs : List Byte) (hev : Evolves s0 s) : Evolves s0 (s.writeHere ks bs) := by
  unfold State.writeHere
  refine evolves_mem (u := forEach _ s _) (evolves_forEach _ _ (fun v x h => evolves_countErr _ _ _ (evolves_bump _ _ _ h)) hev) ?_
  exact wf_foldl _ _ (fun m e h => by split; exact h; exact wf_memPut _ _ h)

theorem evolves_writeKeys {o0 : State} (s : State) (ks : List Nat) (bs : List Byte)  (hev : Evolves o0 s) :
    Evolves o0 (Sys2Proof.Machine.State.writeKeys s ks bs) := by
  unfold Sys2Proof.Machine.State.writeKeys
  repeat' (first | intro _ | with_reducible assumption | with_reducible refine EvolvesSnd.out ?_ | with_reducible refine EvolvesFst.out ?_ | with_reducible refine EvolvesTrd.out ?_ | with_reducible apply evolves_writeHere | with_reducible apply evolves_forEach | with_reducible apply evolves_foldl | with_reducible apply evolves_foldl_snd | with_reducible apply evolves_foldl_fst | with_reducible apply evolves_ite | with_reducible apply evolves_ite_snd | with_reducible apply evolves_ite_fst | with_reducible apply evolves_now | with_reducible refine evolves_getD (fun t ht => ?_) ?_ | (with_reducible refine evolves_id ?_; simp only [↓evolves_mk_iff]) | split | with_reducible apply evolvesSnd_mk | with_reducible apply evolvesFst_mk | with_reducible apply evolvesTrd_mk | (refine evolves_snd_eq (by with_reducible assumption) ?_) | (refine evolves_fst_eq (by with_reducible assumption) ?_) | (refine evolves_trd_eq (by with_reducible assumption) ?_))

theorem evolves_devWrite {o0 : State} (s : State) (a : Nat) (bs : List Byte)  (hev : Evolves o0 s) :
    Evolves o0 (Sys2Proof.Machine.State.devWrite s a bs) := by
  unfold Sys2Proof.Machine.State.devWrite
  repeat' (first | intro _ | with_reducible assumption | with_reducible refine EvolvesSnd.out ?_ | with_reducible refine EvolvesFst.out ?_ | with_reducible refine EvolvesTrd.out ?_ | with_reducible apply evolves_writeKeys | with_reducible apply evolves_forEach | with_reducible apply evolves_foldl | with_reducible apply evolves_foldl_snd | with_reducible apply evolves_foldl_fst | with_reducible apply evolves_ite | with_reducible apply evolves_ite_snd | with_reducible apply evolves_ite_fst | with_reducible apply evolves_now | with_reducible refine evolves_getD (fun t ht => ?_) ?_ | (with_reducible refine evolves_id ?_; simp only [↓evolves_mk_iff]) | split | with_reducible apply evolvesSnd_mk | with_reducible apply evolvesFst_mk | with_reducible apply evolvesTrd_mk | (refine evolves_snd_eq (by with_reducible assumption) ?_) | (refine evolves_fst_eq (by with_reducible assumption) ?_) | (refine evolves_trd_eq (by with_reducible assumption) ?_))

theorem evolves_invalidate {o0 : State} (s : State) (hit : Nat → Bool)  (hev : Evolves o0 s) :
    Evolves o0 (Sys2Proof.Machine.State.invalidate s hit) := by
  unfold Sys2Proof.Machine.State.invalidate
  repeat' (first | intro _ | with_reducible assumption | with_reducible refine EvolvesSnd.out ?_ | with_reducible refine EvolvesFst.out ?_ | with_reducible refine EvolvesTrd.out ?_ | with_reducible apply evolves_forEach | with_reducible apply evolves_foldl | with_reducible apply evolves_foldl_snd | with_reducible apply evolves_foldl_fst | with_reducible apply evolves_ite | with_reducible apply evolves_ite_snd | with_reducible apply evolves_ite_fst | with_reducible apply evolves_now | with_reducible refine evolves_getD (fun t ht => ?_) ?_ | (with_reducible refine evolves_id ?_; simp only [↓evolves_mk_iff]) | split | with_reducible apply evolvesSnd_mk | with_reducible apply evolvesFst_mk | with_reducible apply evolvesTrd_mk | (refine evolves_snd_eq (by with_reducible assumption) ?_) | (refine evolves_fst_eq (by with_reducible assumption) ?_) | (refine evolves_trd_eq (by with_reducible assumption) ?_))

theorem evolves_setEntry {o0 : State} (s : State) (p : Nat) (e : LedgerEntry)  (hev : Evolves o0 s) :
    Evolves o0 (Sys2Proof.Machine.State.setEntry s p e) := by
  unfold Sys2Proof.Machine.State.setEntry
  repeat' (first | intro _ | with_reducible assumption | with_reducible refine EvolvesSnd.out ?_ | with_reducible refine EvolvesFst.out ?_ | with_reducible refine EvolvesTrd.out ?_ | with_reducible apply evolves_invalidate | with_reducible apply evolves_forEach | with_reducible apply evolves_foldl | with_reducible apply evolves_foldl_snd | with_reducible apply evolves_foldl_fst | with_reducible apply evolves_ite | with_reducible apply evolves_ite_snd | with_reducible apply evolves_ite_fst | with_reducible apply evolves_now | with_reducible refine evolves_getD (fun t ht => ?_) ?_ | (with_reducible refine evolves_id ?_; simp only [↓evolves_mk_iff]) | split | with_reducible apply evolvesSnd_mk | with_reducible apply evolvesFst_mk | with_reducible apply evolvesTrd_mk | (refine evolves_snd_eq (by with_reducible assumption) ?_) | (refine evolves_fst_eq (by with_reducible assumption) ?_) | (refine evolves_trd_eq (by with_reducible assumption) ?_))

theorem evolves_setEntries {o0 : State} (s : State) (m : SMap LedgerEntry)  (hev : Evolves o0 s) :
    Evolves o0 (Sys2Proof.Machine.State.setEntries s m) := by
  unfold Sys2Proof.Machine.State.setEntries
  repeat' (first | intro _ | with_reducible assumption | with_reducible refine EvolvesSnd.out ?_ | with_reducible refine EvolvesFst.out ?_ | with_reducible refine EvolvesTrd.out ?_ | with_reducible apply evolves_invalidate | with_reducible apply evolves_forEach | with_reducible apply evolves_foldl | with_reducible apply evolves_foldl_snd | with_reducible apply evolves_foldl_fst | with_reducible apply evolves_ite | with_reducible apply evolves_ite_snd | with_reducible apply evolves_ite_fst | with_reducible apply evolves_now | with_reducible refine evolves_getD (fun t ht => ?_) ?_ | (with_reducible refine evolves_id ?_; simp only [↓evolves_mk_iff]) | split | with_reducible apply evolvesSnd_mk | with_reducible apply evolvesFst_mk | with_reducible apply evolvesTrd_mk | (refine evolves_snd_eq (by with_reducible assumption) ?_) | (refine evolves_fst_eq (by with_reducible assumption) ?_) | (refine evolves_trd_eq (by with_reducible assumption) ?_))

theorem evolves_setSeq {o0 : State} (s : State) (n : Nat) (q : Seq)  (hev : Evolves o0 s) :
    Evolves o0 (Sys2Proof.Machine.State.setSeq s n q) := by
  unfold Sys2Proof.Machine.State.setSeq
  repeat' (first | intro _ | with_reducible assumption | with_reducible refine EvolvesSnd.out ?_ | with_reducible refine EvolvesFst.out ?_ | with_reducible refine EvolvesTrd.out ?_ | with_reducible apply evolves_forEach | with_reducible apply evolves_foldl | with_reducible apply evolves_foldl_snd | with_reducible apply evolves_foldl_fst | with_reducible apply evolves_ite | with_reducible apply evolves_ite_snd | with_reducible apply evolves_ite_fst | with_reducible apply evolves_now | with_reducible refine evolves_getD (fun t ht => ?_) ?_ | (with_reducible refine evolves_id ?_; simp only [↓evolves_mk_iff]) | split | with_reducible apply evolvesSnd_mk | with_reducible apply evolvesFst_mk | with_reducible apply evolvesTrd_mk | (refine evolves_snd_eq (by with_reducible assumption) ?_) | (refine evolves_fst_eq (by with_reducible assumption) ?_) | (refine evolves_trd_eq (by with_reducible assumption) ?_))

theorem evolves_setOwner {o0 : State} (s : State) (p : Nat) (o : Owner)  (hev : Evolves o0 s) :
    Evolves o0 (Sys2Proof.Machine.State.setOwner s p o) := by
  unfold Sys2Proof.Machine.State.setOwner
  repeat' (first | intro _ | with_reducible assumption | with_reducible refine EvolvesSnd.out ?_ | with_reducible refine EvolvesFst.out ?_ | with_reducible refine EvolvesTrd.out ?_ | with_reducible apply evolves_forEach | with_reducible apply evolves_foldl | with_reducible apply evolves_foldl_snd | with_reducible apply evolves_foldl_fst | with_reducible apply evolves_ite | with_reducible apply evolves_ite_snd | with_reducible apply evolves_ite_fst | with_reducible apply evolves_now | with_reducible refine evolves_getD (fun t ht => ?_) ?_ | (with_reducible refine evolves_id ?_; simp only [↓evolves_mk_iff]) | split | with_reducible apply evolvesSnd_mk | with_reducible apply evolvesFst_mk | with_reducible apply evolvesTrd_mk | (refine evolves_snd_eq (by with_reducible assumption) ?_) | (refine evolves_fst_eq (by with_reducible assumption) ?_) | (refine evolves_trd_eq (by with_reducible assumption) ?_))

theorem evolves_freePage {o0 : State} (s : State) (ppn : Nat)  (hev : Evolves o0 s) :
    Evolves o0 (Sys2Proof.Machine.State.freePage s ppn) := by
  unfold Sys2Proof.Machine.State.freePage
  repeat' (first | intro _ | with_reducible assumption | with_reducible refine EvolvesSnd.out ?_ | with_reducible refine EvolvesFst.out ?_ | with_reducible refine EvolvesTrd.out ?_ | with_reducible apply evolves_forEach | with_reducible apply evolves_foldl | with_reducible apply evolves_foldl_snd | with_reducible apply evolves_foldl_fst | with_reducible apply evolves_ite | with_reducible apply evolves_ite_snd | with_reducible apply evolves_ite_fst | with_reducible apply evolves_now | with_reducible refine evolves_getD (fun t ht => ?_) ?_ | (with_reducible refine evolves_id ?_; simp only [↓evolves_mk_iff]) | split | with_reducible apply evolvesSnd_mk | with_reducible apply evolvesFst_mk | with_reducible apply evolvesTrd_mk | (refine evolves_snd_eq (by with_reducible assumption) ?_) | (refine evolves_fst_eq (by with_reducible assumption) ?_) | (refine evolves_trd_eq (by with_reducible assumption) ?_))

theorem evolves_releasePages {o0 : State} (s : State)  (hev : Evolves o0 s) :
    Evolves o0 (Sys2Proof.Machine.State.releasePages s) := by
  unfold Sys2Proof.Machine.State.releasePages
  repeat' (first | intro _ | with_reducible assumption | with_reducible refine EvolvesSnd.out ?_ | with_reducible refine EvolvesFst.out ?_ | with_reducible refine EvolvesTrd.out ?_ | with_reducible apply evolves_freePage | with_reducible apply evolves_forEach | with_reducible apply evolves_foldl | with_reducible apply evolves_foldl_snd | with_reducible apply evolves_foldl_fst | with_reducible apply evolves_ite | with_reducible apply evolves_ite_snd | with_reducible apply evolves_ite_fst | with_reducible apply evolves_now | with_reducible refine evolves_getD (fun t ht => ?_) ?_ | (with_reducible refine evolves_id ?_; simp only [↓evolves_mk_iff]) | split | with_reducible apply evolvesSnd_mk | with_reducible apply evolvesFst_mk | with_reducible apply evolvesTrd_mk | (refine evolves_snd_eq (by with_reducible assumption) ?_) | (refine evolves_fst_eq (by with_reducible assumption) ?_) | (refine evolves_trd_eq (by with_reducible assumption) ?_))

theorem evolves_givePage {o0 : State} (s : State) (ap : Nat) (ppn : Nat) (drop : Bool)  (hev : Evolves o0 s) :
    Evolves o0 (Sys2Proof.Machine.State.givePage s ap ppn drop) := by
  unfold Sys2Proof.Machine.State.givePage
  repeat' (first | intro _ | with_reducible assumption | with_reducible refine EvolvesSnd.out ?_ | with_reducible refine EvolvesFst.out ?_ | with_reducible refine EvolvesTrd.out ?_ | with_reducible apply evolves_forEach | with_reducible apply evolves_foldl | with_reducible apply evolves_foldl_snd | with_reducible apply evolves_foldl_fst | with_reducible apply evolves_ite | with_reducible apply evolves_ite_snd | with_reducible apply evolves_ite_fst | with_reducible apply evolves_now | with_reducible refine evolves_getD (fun t ht => ?_) ?_ | (with_reducible refine evolves_id ?_; simp only [↓evolves_mk_iff]) | split | with_reducible apply evolvesSnd_mk | with_reducible apply evolvesFst_mk | with_reducible apply evolvesTrd_mk | (refine evolves_snd_eq (by with_reducible assumption) ?_) | (refine evolves_fst_eq (by with_reducible assumption) ?_) | (refine evolves_trd_eq (by with_reducible assumption) ?_))

theorem evolves_rekeyPage {o0 : State} (s : State) (ppn : Nat) (gen : Bool)  (hev : Evolves o0 s) :
    Evolves o0 (Sys2Proof.Machine.State.rekeyPage s ppn gen) := by
  unfold Sys2Proof.Machine.State.rekeyPage
  repeat' (first | intro _ | with_reducible assumption | with_reducible refine EvolvesSnd.out ?_ | with_reducible refine EvolvesFst.out ?_ | with_reducible refine EvolvesTrd.out ?_ | with_reducible apply evolves_setEntry | with_reducible apply evolves_setOwner | with_reducible apply evolves_forEach | with_reducible apply evolves_foldl | with_reducible apply evolves_foldl_snd | with_reducible apply evolves_foldl_fst | with_reducible apply evolves_ite | with_reducible apply evolves_ite_snd | with_reducible apply evolves_ite_fst | with_reducible apply evolves_now | with_reducible refine evolves_getD (fun t ht => ?_) ?_ | (with_reducible refine evolves_id ?_; simp only [↓evolves_mk_iff]) | split | with_reducible apply evolvesSnd_mk | with_reducible apply evolvesFst_mk | with_reducible apply evolvesTrd_mk | (refine evolves_snd_eq (by with_reducible assumption) ?_) | (refine evolves_fst_eq (by with_reducible assumption) ?_) | (refine evolves_trd_eq (by with_reducible assumption) ?_))

theorem evolves_backOff {o0 : State} (s : State) (w : Sweep) (a : Nat)  (hev : Evolves o0 s) :
    Evolves o0 (Sys2Proof.Machine.State.backOff s w a) := by
  unfold Sys2Proof.Machine.State.backOff
  repeat' (first | intro _ | with_reducible assumption | with_reducible refine EvolvesSnd.out ?_ | with_reducible refine EvolvesFst.out ?_ | with_reducible refine EvolvesTrd.out ?_ | with_reducible apply evolves_bump | with_reducible apply evolves_setEntry | with_reducible apply evolves_forEach | with_reducible apply evolves_foldl | with_reducible apply evolves_foldl_snd | with_reducible apply evolves_foldl_fst | with_reducible apply evolves_ite | with_reducible apply evolves_ite_snd | with_reducible apply evolves_ite_fst | with_reducible apply evolves_now | with_reducible refine evolves_getD (fun t ht => ?_) ?_ | (with_reducible refine evolves_id ?_; simp only [↓evolves_mk_iff]) | split | with_reducible apply evolvesSnd_mk | with_reducible apply evolvesFst_mk | with_reducible apply evolvesTrd_mk | (refine evolves_snd_eq (by with_reducible assumption) ?_) | (refine evolves_fst_eq (by with_reducible assumption) ?_) | (refine evolves_trd_eq (by with_reducible assumption) ?_))

theorem evolves_rekeyLocked {o0 : State} (s : State) (w : Sweep)  (hev : Evolves o0 s) :
    Evolves o0 (Sys2Proof.Machine.State.rekeyLocked s w) := by
  unfold Sys2Proof.Machine.State.rekeyLocked
  repeat' (first | intro _ | with_reducible assumption | with_reducible refine EvolvesSnd.out ?_ | with_reducible refine EvolvesFst.out ?_ | with_reducible refine EvolvesTrd.out ?_ | with_reducible apply evolves_rekeyPage | with_reducible apply evolves_forEach | with_reducible apply evolves_foldl | with_reducible apply evolves_foldl_snd | with_reducible apply evolves_foldl_fst | with_reducible apply evolves_ite | with_reducible apply evolves_ite_snd | with_reducible apply evolves_ite_fst | with_reducible apply evolves_now | with_reducible refine evolves_getD (fun t ht => ?_) ?_ | (with_reducible refine evolves_id ?_; simp only [↓evolves_mk_iff]) | split | with_reducible apply evolvesSnd_mk | with_reducible apply evolvesFst_mk | with_reducible apply evolvesTrd_mk | (refine evolves_snd_eq (by with_reducible assumption) ?_) | (refine evolves_fst_eq (by with_reducible assumption) ?_) | (refine evolves_trd_eq (by with_reducible assumption) ?_))

theorem evolves_resolveLock {o0 : State} (s : State) (a : Nat)  (hev : Evolves o0 s) :
    Evolves o0 (Sys2Proof.Machine.State.resolveLock s a) := by
  unfold Sys2Proof.Machine.State.resolveLock
  repeat' (first | intro _ | with_reducible assumption | with_reducible refine EvolvesSnd.out ?_ | with_reducible refine EvolvesFst.out ?_ | with_reducible refine EvolvesTrd.out ?_ | with_reducible apply evolves_backOff | with_reducible apply evolves_rekeyLocked | with_reducible apply evolves_forEach | with_reducible apply evolves_foldl | with_reducible apply evolves_foldl_snd | with_reducible apply evolves_foldl_fst | with_reducible apply evolves_ite | with_reducible apply evolves_ite_snd | with_reducible apply evolves_ite_fst | with_reducible apply evolves_now | with_reducible refine evolves_getD (fun t ht => ?_) ?_ | (with_reducible refine evolves_id ?_; simp only [↓evolves_mk_iff]) | split | with_reducible apply evolvesSnd_mk | with_reducible apply evolvesFst_mk | with_reducible apply evolvesTrd_mk | (refine evolves_snd_eq (by with_reducible assumption) ?_) | (refine evolves_fst_eq (by with_reducible assumption) ?_) | (refine evolves_trd_eq (by with_reducible assumption) ?_))

theorem evolves_dropTail {o0 : State} (s0 : State) (n : Nat)  (hev : Evolves o0 s0) :
    Evolves o0 (Sys2Proof.Machine.State.dropTail s0 n) := by
  unfold Sys2Proof.Machine.State.dropTail
  repeat' (first | intro _ | with_reducible assumption | with_reducible refine EvolvesSnd.out ?_ | with_reducible refine EvolvesFst.out ?_ | with_reducible refine EvolvesTrd.out ?_ | with_reducible apply evolves_bump | with_reducible apply evolves_countEvent | with_reducible apply evolves_setEntry | with_reducible apply evolves_setSeq | with_reducible apply evolves_givePage | with_reducible apply evolves_resolveLock | with_reducible apply evolves_forEach | with_reducible apply evolves_foldl | with_reducible apply evolves_foldl_snd | with_reducible apply evolves_foldl_fst | with_reducible apply evolves_ite | with_reducible apply evolves_ite_snd | with_reducible apply evolves_ite_fst | with_reducible apply evolves_now | with_reducible refine evolves_getD (fun t ht => ?_) ?_ | (with_reducible refine evolves_id ?_; simp only [↓evolves_mk_iff]) | split | with_reducible apply evolvesSnd_mk | with_reducible apply evolvesFst_mk | with_reducible apply evolvesTrd_mk | (refine evolves_snd_eq (by with_reducible assumption) ?_) | (refine evolves_fst_eq (by with_reducible assumption) ?_) | (refine evolves_trd_eq (by with_reducible assumption) ?_))

theorem evolves_dropFrom {o0 : State} (s : State) (n : Nat) (sp : Nat)  (hev : Evolves o0 s) :
    Evolves o0 (Sys2Proof.Machine.State.dropFrom s n sp) := by
  unfold Sys2Proof.Machine.State.dropFrom
  repeat' (first | intro _ | with_reducible assumption | with_reducible refine EvolvesSnd.out ?_ | with_reducible refine EvolvesFst.out ?_ | with_reducible refine EvolvesTrd.out ?_ | with_reducible apply evolves_dropTail | with_reducible apply evolves_forEach | with_reducible apply evolves_foldl | with_reducible apply evolves_foldl_snd | with_reducible apply evolves_foldl_fst | with_reducible apply evolves_ite | with_reducible apply evolves_ite_snd | with_reducible apply evolves_ite_fst | with_reducible apply evolves_now | with_reducible refine evolves_getD (fun t ht => ?_) ?_ | (with_reducible refine evolves_id ?_; simp only [↓evolves_mk_iff]) | split | with_reducible apply evolvesSnd_mk | with_reducible apply evolvesFst_mk | with_reducible apply evolvesTrd_mk | (refine evolves_snd_eq (by with_reducible assumption) ?_) | (refine evolves_fst_eq (by with_reducible assumption) ?_) | (refine evolves_trd_eq (by with_reducible assumption) ?_))

theorem evolves_dropUntil {o0 : State} (target : Nat)  (z0 : Nat) (z1 : State) (hev : Evolves o0 z1) :
    Evolves o0 (Sys2Proof.Machine.State.dropUntil target z0 z1) := by
  induction z0 generalizing z1 target with
  | zero =>
    unfold Sys2Proof.Machine.State.dropUntil
    repeat' (first | intro _ | with_reducible assumption | with_reducible refine EvolvesSnd.out ?_ | with_reducible refine EvolvesFst.out ?_ | with_reducible refine EvolvesTrd.out ?_ | with_reducible apply evolves_dropTail | with_reducible apply evolves_forEach | with_reducible apply evolves_foldl | with_reducible apply evolves_foldl_snd | with_reducible apply evolves_foldl_fst | with_reducible apply evolves_ite | with_reducible apply evolves_ite_snd | with_reducible apply evolves_ite_fst | with_reducible apply evolves_now | with_reducible refine evolves_getD (fun t ht => ?_) ?_ | (with_reducible refine evolves_id ?_; simp only [↓evolves_mk_iff]) | split | with_reducible apply evolvesSnd_mk | with_reducible apply evolvesFst_mk | with_reducible apply evolvesTrd_mk | (refine evolves_snd_eq (by with_reducible assumption) ?_) | (refine evolves_fst_eq (by with_reducible assumption) ?_) | (refine evolves_trd_eq (by with_reducible assumption) ?_))
  | succ n ih =>
    unfold Sys2Proof.Machine.State.dropUntil
    repeat' (first | intro _ | with_reducible apply ih | with_reducible assumption | with_reducible refine EvolvesSnd.out ?_ | with_reducible refine EvolvesFst.out ?_ | with_reducible refine EvolvesTrd.out ?_ | with_reducible apply evolves_dropTail | with_reducible apply evolves_forEach | with_reducible apply evolves_foldl | with_reducible apply evolves_foldl_snd | with_reducible apply evolves_foldl_fst | with_reducible apply evolves_ite | with_reducible apply evolves_ite_snd | with_reducible apply evolves_ite_fst | with_reducible apply evolves_now | with_reducible refine evolves_getD (fun t ht => ?_) ?_ | (with_reducible refine evolves_id ?_; simp only [↓evolves_mk_iff]) | split | with_reducible apply evolvesSnd_mk | with_reducible apply evolvesFst_mk | with_reducible apply evolvesTrd_mk | (refine evolves_snd_eq (by with_reducible assumption) ?_) | (refine evolves_fst_eq (by with_reducible assumption) ?_) | (refine evolves_trd_eq (by with_reducible assumption) ?_))

theorem evolves_takePage {s0 s t : State} {n : Nat} (hev : Evolves s0 s) (h : s.takePage = some (n, t)) : Evolves s0 t := by
  unfold State.takePage at h
  obtain ⟨x, -, hx⟩ := Option.map_eq_some_iff.mp h
  cases hx
  exact evolves_mk hev

theorem evolves_zeroPage {o0 : State} (s : State) (ppn : Nat)  (hev : Evolves o0 s) :
    Evolves o0 (Sys2Proof.Machine.State.zeroPage s ppn) := by
  unfold Sys2Proof.Machine.State.zeroPage
  repeat' (first | intro _ | with_reducible assumption | with_reducible refine EvolvesSnd.out ?_ | with_reducible refine EvolvesFst.out ?_ | with_reducible refine EvolvesTrd.out ?_ | with_reducible apply evolves_zero | with_reducible apply evolves_forEach | with_reducible apply evolves_foldl | with_reducible apply evolves_foldl_snd | with_reducible apply evolves_foldl_fst | with_reducible apply evolves_ite | with_reducible apply evolves_ite_snd | with_reducible apply evolves_ite_fst | with_reducible apply evolves_now | with_reducible refine evolves_getD (fun t ht => ?_) ?_ | (with_reducible refine evolves_id ?_; simp only [↓evolves_mk_iff]) | split | with_reducible apply evolvesSnd_mk | with_reducible apply evolvesFst_mk | with_reducible apply evolvesTrd_mk | (refine evolves_snd_eq (by with_reducible assumption) ?_) | (refine evolves_fst_eq (by with_reducible assumption) ?_) | (refine evolves_trd_eq (by with_reducible assumption) ?_))

theorem evolves_mapPage {o0 : State} (s : State) (n : Nat) (p : Nat)  (hev : Evolves o0 s) :
    Evolves o0 (Sys2Proof.Machine.State.mapPage s n p) := by
  unfold Sys2Proof.Machine.State.mapPage
  repeat' (first | intro _ | with_reducible assumption | with_reducible refine EvolvesSnd.out ?_ | with_reducible refine EvolvesFst.out ?_ | with_reducible refine EvolvesTrd.out ?_ | with_reducible apply evolves_setEntry | with_reducible apply evolves_setOwner | with_reducible apply evolves_zeroPage | (refine evolves_takePage ?_ (by with_reducible assumption)) | with_reducible apply evolves_forEach | with_reducible apply evolves_foldl | with_reducible apply evolves_foldl_snd | with_reducible apply evolves_foldl_fst | with_reducible apply evolves_ite | with_reducible apply evolves_ite_snd | with_reducible apply evolves_ite_fst | with_reducible apply evolves_now | with_reducible refine evolves_getD (fun t ht => ?_) ?_ | (with_reducible refine evolves_id ?_; simp only [↓evolves_mk_iff]) | split | with_reducible apply evolvesSnd_mk | with_reducible apply evolvesFst_mk | with_reducible apply evolvesTrd_mk | (refine evolves_snd_eq (by with_reducible assumption) ?_) | (refine evolves_fst_eq (by with_reducible assumption) ?_) | (refine evolves_trd_eq (by with_reducible assumption) ?_))

theorem evolves_unpin {o0 : State} (s : State) (n : Nat)  (hev : Evolves o0 s) :
    Evolves o0 (Sys2Proof.Machine.State.unpin s n) := by
  unfold Sys2Proof.Machine.State.unpin
  repeat' (first | intro _ | with_reducible assumption | with_reducible refine EvolvesSnd.out ?_ | with_reducible refine EvolvesFst.out ?_ | with_reducible refine EvolvesTrd.out ?_ | with_reducible apply evolves_setEntries | with_reducible apply evolves_setSeq | with_reducible apply evolves_givePage | with_reducible apply evolves_forEach | with_reducible apply evolves_foldl | with_reducible apply evolves_foldl_snd | with_reducible apply evolves_foldl_fst | with_reducible apply evolves_ite | with_reducible apply evolves_ite_snd | with_reducible apply evolves_ite_fst | with_reducible apply evolves_now | with_reducible refine evolves_getD (fun t ht => ?_) ?_ | (with_reducible refine evolves_id ?_; simp only [↓evolves_mk_iff]) | split | with_reducible apply evolvesSnd_mk | with_reducible apply evolvesFst_mk | with_reducible apply evolvesTrd_mk | (refine evolves_snd_eq (by with_reducible assumption) ?_) | (refine evolves_fst_eq (by with_reducible assumption) ?_) | (refine evolves_trd_eq (by with_reducible assumption) ?_))

theorem evolves_applyRecord {o0 : State} (s : State) (a : Nat)  (hev : Evolves o0 s) :
    Evolves o0 (Sys2Proof.Machine.State.applyRecord s a) := by
  unfold Sys2Proof.Machine.State.applyRecord
  repeat' (first | intro _ | with_reducible assumption | with_reducible refine EvolvesSnd.out ?_ | with_reducible refine EvolvesFst.out ?_ | with_reducible refine EvolvesTrd.out ?_ | with_reducible apply evolves_devWrite | with_reducible apply evolves_setSeq | with_reducible apply evolves_forEach | with_reducible apply evolves_foldl | with_reducible apply evolves_foldl_snd | with_reducible apply evolves_foldl_fst | with_reducible apply evolves_ite | with_reducible apply evolves_ite_snd | with_reducible apply evolves_ite_fst | with_reducible apply evolves_now | with_reducible refine evolves_getD (fun t ht => ?_) ?_ | (with_reducible refine evolves_id ?_; simp only [↓evolves_mk_iff]) | split | with_reducible apply evolvesSnd_mk | with_reducible apply evolvesFst_mk | with_reducible apply evolvesTrd_mk | (refine evolves_snd_eq (by with_reducible assumption) ?_) | (refine evolves_fst_eq (by with_reducible assumption) ?_) | (refine evolves_trd_eq (by with_reducible assumption) ?_))

end Sys2Proof.Machine
end

