-- ==== Sys2Proof/Laws/EvolveIssue.lean ====
section
/-! SUPPORT. What the operations of Machine/Issue.lean keep. -/

set_option Elab.async false
set_option linter.unusedSimpArgs false

namespace Sys2Proof.Machine

open Sys2Proof

theorem evolves_movePoison {o0 : State} (s : State) (t : Nat) (deps : List (Nat × List Nat))  (hev : Evolves o0 s) :
    Evolves o0 (Sys2Proof.Machine.State.movePoison s t deps) := by
  unfold Sys2Proof.Machine.State.movePoison
  repeat' (first | intro _ | with_reducible assumption | with_reducible refine EvolvesSnd.out ?_ | with_reducible refine EvolvesFst.out ?_ | with_reducible refine EvolvesTrd.out ?_ | with_reducible apply evolves_updTile | with_reducible apply evolves_forEach | with_reducible apply evolves_foldl | with_reducible apply evolves_foldl_snd | with_reducible apply evolves_foldl_fst | with_reducible apply evolves_ite | with_reducible apply evolves_ite_snd | with_reducible apply evolves_ite_fst | with_reducible apply evolves_now | with_reducible refine evolves_getD (fun t ht => ?_) ?_ | (with_reducible refine evolves_id ?_; simp only [↓evolves_mk_iff]) | split | with_reducible apply evolvesSnd_mk | with_reducible apply evolvesFst_mk | with_reducible apply evolvesTrd_mk | (refine evolves_snd_eq (by with_reducible assumption) ?_) | (refine evolves_fst_eq (by with_reducible assumption) ?_) | (refine evolves_trd_eq (by with_reducible assumption) ?_))

theorem evolves_recordWeak {o0 : State} (s : State) (t : Nat) (row : Nat)  (hev : Evolves o0 s) :
    Evolves o0 (Sys2Proof.Machine.State.recordWeak s t row) := by
  unfold Sys2Proof.Machine.State.recordWeak
  repeat' (first | intro _ | with_reducible assumption | with_reducible refine EvolvesSnd.out ?_ | with_reducible refine EvolvesFst.out ?_ | with_reducible refine EvolvesTrd.out ?_ | with_reducible apply evolves_recordErr | with_reducible apply evolves_forEach | with_reducible apply evolves_foldl | with_reducible apply evolves_foldl_snd | with_reducible apply evolves_foldl_fst | with_reducible apply evolves_ite | with_reducible apply evolves_ite_snd | with_reducible apply evolves_ite_fst | with_reducible apply evolves_now | with_reducible refine evolves_getD (fun t ht => ?_) ?_ | (with_reducible refine evolves_id ?_; simp only [↓evolves_mk_iff]) | split | with_reducible apply evolvesSnd_mk | with_reducible apply evolvesFst_mk | with_reducible apply evolvesTrd_mk | (refine evolves_snd_eq (by with_reducible assumption) ?_) | (refine evolves_fst_eq (by with_reducible assumption) ?_) | (refine evolves_trd_eq (by with_reducible assumption) ?_))

theorem evolves_storeCorrected {o0 : State} (s : State) (t : Nat) (row : Nat)  (hev : Evolves o0 s) :
    Evolves o0 (Sys2Proof.Machine.State.storeCorrected s t row) := by
  unfold Sys2Proof.Machine.State.storeCorrected
  repeat' (first | intro _ | with_reducible assumption | with_reducible refine EvolvesSnd.out ?_ | with_reducible refine EvolvesFst.out ?_ | with_reducible refine EvolvesTrd.out ?_ | with_reducible apply evolves_bump | with_reducible apply evolves_setTile | with_reducible apply evolves_countErr | with_reducible apply evolves_countEvent | with_reducible apply evolves_recordWeak | with_reducible apply evolves_forEach | with_reducible apply evolves_foldl | with_reducible apply evolves_foldl_snd | with_reducible apply evolves_foldl_fst | with_reducible apply evolves_ite | with_reducible apply evolves_ite_snd | with_reducible apply evolves_ite_fst | with_reducible apply evolves_now | with_reducible refine evolves_getD (fun t ht => ?_) ?_ | (with_reducible refine evolves_id ?_; simp only [↓evolves_mk_iff]) | split | with_reducible apply evolvesSnd_mk | with_reducible apply evolvesFst_mk | with_reducible apply evolvesTrd_mk | (refine evolves_snd_eq (by with_reducible assumption) ?_) | (refine evolves_fst_eq (by with_reducible assumption) ?_) | (refine evolves_trd_eq (by with_reducible assumption) ?_))

theorem evolves_storeUncorrectable {o0 : State} (s : State) (t : Nat) (row : Nat)  (hev : Evolves o0 s) :
    Evolves o0 (Sys2Proof.Machine.State.storeUncorrectable s t row) := by
  unfold Sys2Proof.Machine.State.storeUncorrectable
  repeat' (first | intro _ | with_reducible assumption | with_reducible refine EvolvesSnd.out ?_ | with_reducible refine EvolvesFst.out ?_ | with_reducible refine EvolvesTrd.out ?_ | with_reducible apply evolves_updTile | with_reducible apply evolves_recordErr | with_reducible apply evolves_hwFault | with_reducible apply evolves_forEach | with_reducible apply evolves_foldl | with_reducible apply evolves_foldl_snd | with_reducible apply evolves_foldl_fst | with_reducible apply evolves_ite | with_reducible apply evolves_ite_snd | with_reducible apply evolves_ite_fst | with_reducible apply evolves_now | with_reducible refine evolves_getD (fun t ht => ?_) ?_ | (with_reducible refine evolves_id ?_; simp only [↓evolves_mk_iff]) | split | with_reducible apply evolvesSnd_mk | with_reducible apply evolvesFst_mk | with_reducible apply evolvesTrd_mk | (refine evolves_snd_eq (by with_reducible assumption) ?_) | (refine evolves_fst_eq (by with_reducible assumption) ?_) | (refine evolves_trd_eq (by with_reducible assumption) ?_))

theorem evolves_markEcc {o0 : State} (s : State) (t : Nat) (l : List (Nat × Bool))  (hev : Evolves o0 s) :
    Evolves o0 (Sys2Proof.Machine.State.markEcc s t l) := by
  unfold Sys2Proof.Machine.State.markEcc
  repeat' (first | intro _ | with_reducible assumption | with_reducible refine EvolvesSnd.out ?_ | with_reducible refine EvolvesFst.out ?_ | with_reducible refine EvolvesTrd.out ?_ | with_reducible apply evolves_updTile | with_reducible apply evolves_forEach | with_reducible apply evolves_foldl | with_reducible apply evolves_foldl_snd | with_reducible apply evolves_foldl_fst | with_reducible apply evolves_ite | with_reducible apply evolves_ite_snd | with_reducible apply evolves_ite_fst | with_reducible apply evolves_now | with_reducible refine evolves_getD (fun t ht => ?_) ?_ | (with_reducible refine evolves_id ?_; simp only [↓evolves_mk_iff]) | split | with_reducible apply evolvesSnd_mk | with_reducible apply evolvesFst_mk | with_reducible apply evolvesTrd_mk | (refine evolves_snd_eq (by with_reducible assumption) ?_) | (refine evolves_fst_eq (by with_reducible assumption) ?_) | (refine evolves_trd_eq (by with_reducible assumption) ?_))

theorem evolves_applyEcc {o0 : State} (s : State) (t : Nat) (l : List (Nat × Bool))  (hev : Evolves o0 s) :
    Evolves o0 (Sys2Proof.Machine.State.applyEcc s t l) := by
  unfold Sys2Proof.Machine.State.applyEcc
  repeat' (first | intro _ | with_reducible assumption | with_reducible refine EvolvesSnd.out ?_ | with_reducible refine EvolvesFst.out ?_ | with_reducible refine EvolvesTrd.out ?_ | with_reducible apply evolves_storeCorrected | with_reducible apply evolves_storeUncorrectable | with_reducible apply evolves_forEach | with_reducible apply evolves_foldl | with_reducible apply evolves_foldl_snd | with_reducible apply evolves_foldl_fst | with_reducible apply evolves_ite | with_reducible apply evolves_ite_snd | with_reducible apply evolves_ite_fst | with_reducible apply evolves_now | with_reducible refine evolves_getD (fun t ht => ?_) ?_ | (with_reducible refine evolves_id ?_; simp only [↓evolves_mk_iff]) | split | with_reducible apply evolvesSnd_mk | with_reducible apply evolvesFst_mk | with_reducible apply evolvesTrd_mk | (refine evolves_snd_eq (by with_reducible assumption) ?_) | (refine evolves_fst_eq (by with_reducible assumption) ?_) | (refine evolves_trd_eq (by with_reducible assumption) ?_))

theorem evolves_fetchAt {o0 : State} (s : State) (t : Nat) (pc : Int)  (hev : Evolves o0 s) :
    Evolves o0 (Sys2Proof.Machine.State.fetchAt s t pc) := by
  unfold Sys2Proof.Machine.State.fetchAt
  repeat' (first | intro _ | with_reducible assumption | with_reducible refine EvolvesSnd.out ?_ | with_reducible refine EvolvesFst.out ?_ | with_reducible refine EvolvesTrd.out ?_ | with_reducible apply evolves_updTile | with_reducible apply evolves_programError | with_reducible apply evolves_forEach | with_reducible apply evolves_foldl | with_reducible apply evolves_foldl_snd | with_reducible apply evolves_foldl_fst | with_reducible apply evolves_ite | with_reducible apply evolves_ite_snd | with_reducible apply evolves_ite_fst | with_reducible apply evolves_now | with_reducible refine evolves_getD (fun t ht => ?_) ?_ | (with_reducible refine evolves_id ?_; simp only [↓evolves_mk_iff]) | split | with_reducible apply evolvesSnd_mk | with_reducible apply evolvesFst_mk | with_reducible apply evolvesTrd_mk | (refine evolves_snd_eq (by with_reducible assumption) ?_) | (refine evolves_fst_eq (by with_reducible assumption) ?_) | (refine evolves_trd_eq (by with_reducible assumption) ?_))

theorem evolves_advance {o0 : State} (s : State) (t : Nat)  (hev : Evolves o0 s) :
    Evolves o0 (Sys2Proof.Machine.State.advance s t) := by
  unfold Sys2Proof.Machine.State.advance
  repeat' (first | intro _ | with_reducible assumption | with_reducible refine EvolvesSnd.out ?_ | with_reducible refine EvolvesFst.out ?_ | with_reducible refine EvolvesTrd.out ?_ | with_reducible apply evolves_fetchAt | with_reducible apply evolves_forEach | with_reducible apply evolves_foldl | with_reducible apply evolves_foldl_snd | with_reducible apply evolves_foldl_fst | with_reducible apply evolves_ite | with_reducible apply evolves_ite_snd | with_reducible apply evolves_ite_fst | with_reducible apply evolves_now | with_reducible refine evolves_getD (fun t ht => ?_) ?_ | (with_reducible refine evolves_id ?_; simp only [↓evolves_mk_iff]) | split | with_reducible apply evolvesSnd_mk | with_reducible apply evolvesFst_mk | with_reducible apply evolvesTrd_mk | (refine evolves_snd_eq (by with_reducible assumption) ?_) | (refine evolves_fst_eq (by with_reducible assumption) ?_) | (refine evolves_trd_eq (by with_reducible assumption) ?_))

/-- A slot's effect keeps this. -/
def SlotEvolves (x : Slot) : Prop := ∀ (o u : State) (t : Nat), Evolves o u → Evolves o (x.eff u t)

theorem evolves_forEach_mem {α : Type} {o u : State} (l : List α) (f : State → α → State) (hf : ∀ v, ∀ x ∈ l, Evolves o v → Evolves o (f v x))
    (h : Evolves o u) : Evolves o (forEach l u f) := by
  unfold forEach
  induction l generalizing u with
  | nil => exact h
  | cons x l ih => exact ih (fun v y hy => hf v y (List.mem_cons_of_mem _ hy)) (hf u x List.mem_cons_self h)

theorem mem_effectOrder {x : Slot} {slots : List Slot} (h : x ∈ State.effectOrder slots) : x ∈ slots := by
  unfold State.effectOrder at h
  rcases List.mem_append.mp h with h | h <;> exact (List.mem_filter.mp h).1

theorem evolves_runSlots {o0 : State} (s : State) (slots : List Slot) (ecc : List (Nat × Bool)) (t : Nat) (hs : ∀ x ∈ slots, SlotEvolves x)
    (hev : Evolves o0 s) : Evolves o0 (s.runSlots slots ecc t) :=
  evolves_forEach_mem _ _ (fun _ x hx h => hs x (mem_effectOrder hx) _ _ _ h)
    (evolves_updTile _ t (fun T => { T.snap with bundle := [] }) (evolves_markEcc _ t ecc hev))

theorem evolves_runNext {o0 : State} (s : State) (slots : List Slot) (ecc : List (Nat × Bool)) (t : Nat) (hs : ∀ x ∈ slots, SlotEvolves x)
    (hev : Evolves o0 s) : Evolves o0 (s.runNext slots ecc t) := by
  unfold State.runNext
  refine evolves_countEvent _ _ _ _ _ (evolves_applyEcc _ _ _ ?_)
  split
  · rename_i c hc
    exact hs c (List.mem_of_find?_eq_some hc) _ _ _ hev
  · exact evolves_advance _ _ hev

theorem evolves_runBundle {o0 : State} (s : State) (slots : List Slot) (ecc : List (Nat × Bool)) (t : Nat) (hs : ∀ x ∈ slots, SlotEvolves x)
    (hev : Evolves o0 s) : Evolves o0 (s.runBundle slots ecc t) := evolves_runNext _ _ _ _ hs (evolves_runSlots _ _ _ _ hs hev)

theorem evolves_runPair {o0 : State} (s : State) (slots : List Slot) (ecc eccF : List (Nat × Bool)) (t : Nat) (hs : ∀ x ∈ slots, SlotEvolves x)
    (hev : Evolves o0 s) : Evolves o0 (s.runPair slots ecc eccF t) := by
  have h1 := evolves_runNext _ slots ecc t hs (evolves_runSlots _ slots eccF (t + 1) hs (evolves_runSlots _ slots ecc t hs hev))
  exact evolves_ite h1 (evolves_runNext _ _ _ _ hs h1)

theorem evolves_issueSlots {o0 : State} (s0 s : State) (i : Issue) (slots : List Slot) (hs : ∀ x ∈ slots, SlotEvolves x) (h0 : Evolves o0 s0)
    (hev : Evolves o0 s) : Evolves o0 (s0.issueSlots s i slots) := by
  unfold State.issueSlots
  dsimp only
  refine evolves_ite h0 ?_
  split
  · exact evolves_programError _ _ _ _ (evolves_updTile _ _ _ hev)
  · exact evolves_ite h0 (evolves_ite (evolves_runPair _ _ _ _ _ hs hev) (evolves_runBundle _ _ _ _ hs hev))

end Sys2Proof.Machine
end

