-- ==== Sys2Proof/Laws/EvolveSecurity.lean ====
section
/-! SUPPORT. What the operations of Machine/Security.lean keep. -/

set_option Elab.async false
set_option linter.unusedSimpArgs false

namespace Sys2Proof.Machine

open Sys2Proof

theorem evolves_newChallenge {o0 : State} (s : State)  (hev : Evolves o0 s) :
    Evolves o0 (Sys2Proof.Machine.State.newChallenge s) := by
  unfold Sys2Proof.Machine.State.newChallenge
  repeat' (first | intro _ | with_reducible assumption | with_reducible refine EvolvesSnd.out ?_ | with_reducible refine EvolvesFst.out ?_ | with_reducible refine EvolvesTrd.out ?_ | with_reducible apply evolves_drbgBytes | with_reducible apply evolves_updSec | with_reducible apply evolves_forEach | with_reducible apply evolves_foldl | with_reducible apply evolves_foldl_snd | with_reducible apply evolves_foldl_fst | with_reducible apply evolves_ite | with_reducible apply evolves_ite_snd | with_reducible apply evolves_ite_fst | with_reducible apply evolves_now | with_reducible refine evolves_getD (fun t ht => ?_) ?_ | (with_reducible refine evolves_id ?_; simp only [↓evolves_mk_iff]) | split | with_reducible apply evolvesSnd_mk | with_reducible apply evolvesFst_mk | with_reducible apply evolvesTrd_mk | (refine evolves_snd_eq (by with_reducible assumption) ?_) | (refine evolves_fst_eq (by with_reducible assumption) ?_) | (refine evolves_trd_eq (by with_reducible assumption) ?_))

theorem evolves_ownerDone {o0 : State} (s : State) (res : Nat)  (hev : Evolves o0 s) :
    Evolves o0 (Sys2Proof.Machine.State.ownerDone s res) := by
  unfold Sys2Proof.Machine.State.ownerDone
  repeat' (first | intro _ | with_reducible assumption | with_reducible refine EvolvesSnd.out ?_ | with_reducible refine EvolvesFst.out ?_ | with_reducible refine EvolvesTrd.out ?_ | with_reducible apply evolves_setFld | with_reducible apply evolves_newChallenge | with_reducible apply evolves_forEach | with_reducible apply evolves_foldl | with_reducible apply evolves_foldl_snd | with_reducible apply evolves_foldl_fst | with_reducible apply evolves_ite | with_reducible apply evolves_ite_snd | with_reducible apply evolves_ite_fst | with_reducible apply evolves_now | with_reducible refine evolves_getD (fun t ht => ?_) ?_ | (with_reducible refine evolves_id ?_; simp only [↓evolves_mk_iff]) | split | with_reducible apply evolvesSnd_mk | with_reducible apply evolvesFst_mk | with_reducible apply evolvesTrd_mk | (refine evolves_snd_eq (by with_reducible assumption) ?_) | (refine evolves_fst_eq (by with_reducible assumption) ?_) | (refine evolves_trd_eq (by with_reducible assumption) ?_))

theorem evolves_writeSecCmd {o0 : State} (s : State) (w : Word)  (hev : Evolves o0 s) :
    Evolves o0 (Sys2Proof.Machine.State.writeSecCmd s w) := by
  unfold Sys2Proof.Machine.State.writeSecCmd
  repeat' (first | intro _ | with_reducible assumption | with_reducible refine EvolvesSnd.out ?_ | with_reducible refine EvolvesFst.out ?_ | with_reducible refine EvolvesTrd.out ?_ | with_reducible apply evolves_setFld | with_reducible apply evolves_regAccess | with_reducible apply evolves_ownerDone | with_reducible apply evolves_forEach | with_reducible apply evolves_foldl | with_reducible apply evolves_foldl_snd | with_reducible apply evolves_foldl_fst | with_reducible apply evolves_ite | with_reducible apply evolves_ite_snd | with_reducible apply evolves_ite_fst | with_reducible apply evolves_now | with_reducible refine evolves_getD (fun t ht => ?_) ?_ | (with_reducible refine evolves_id ?_; simp only [↓evolves_mk_iff]) | split | with_reducible apply evolvesSnd_mk | with_reducible apply evolvesFst_mk | with_reducible apply evolvesTrd_mk | (refine evolves_snd_eq (by with_reducible assumption) ?_) | (refine evolves_fst_eq (by with_reducible assumption) ?_) | (refine evolves_trd_eq (by with_reducible assumption) ?_))

theorem evolves_ownerCommand {s0 : State} (s : State) (cmd : Nat) (permitted signed : List Byte → Bool) (eff : State → List Byte → State)
    (heff : ∀ bs, permitted bs = true → Evolves s0 (eff s bs)) (hev : Evolves s0 s) : Evolves s0 (s.ownerCommand cmd permitted signed eff) := by
  unfold State.ownerCommand
  dsimp only
  split
  · exact hev
  split
  · exact evolves_ownerDone _ _ hev
  split
  · exact evolves_ownerDone _ _ hev
  rename_i hp
  split
  · exact evolves_ownerDone _ _ hev
  split
  · exact evolves_ownerDone _ _ hev
  · refine evolves_ownerDone _ _ (heff _ ?_)
    revert hp
    cases permitted s.ownerRecord <;> simp

theorem evolves_burn {s0 : State} (s : State) (f : Fuses → Fuses) (hb : Burns s.fuses (f s.fuses)) (hev : Evolves s0 s) :
    Evolves s0 (s.burn f) :=
  ⟨hev.pending, hev.now, hev.burns.trans hb, hev.mem, hev.errq⟩

theorem evolves_eraseStep {o0 : State} (s : State) (k : Nat) (hev : Evolves o0 s) : Evolves o0 (s.eraseStep k) := by
  have hr : ∀ {u : State} (x : Nat), Evolves o0 u →
      Evolves o0 (u.burn (fun f => { f with ownerRevoked := x :: f.ownerRevoked.filter (· ≠ x) })) := fun {u} x hu =>
    evolves_burn _ _ ⟨rfl, Nat.le_refl _, Nat.le_refl _, fun _ h => h, fun y _ h => by
      by_cases hk : y = x
      · exact hk ▸ List.mem_cons_self
      · exact List.mem_cons_of_mem _ (List.mem_filter.mpr ⟨h, decide_eq_true hk⟩)⟩ hu
  have h1 : Evolves o0 { s with start := { s.start with hold := .erasing (k + 1) } } := evolves_mk hev
  unfold State.eraseStep
  dsimp only
  split
  · exact evolves_mem hev (fun _ => rfl)
  · exact evolves_mk hev
  · exact hr _ h1
  · exact hr _ h1
  · exact hr _ h1
  · exact hr _ h1
  · exact evolves_burn _ _ ⟨rfl, Nat.le_refl _, Nat.le_refl _, fun _ h => h, fun _ _ h => h⟩ h1
  · exact evolves_mk (evolves_warmStop _ (evolves_assertBoth _ (evolves_burn _ _ ⟨rfl, Nat.le_max_left _ _, Nat.le_refl _, fun _ h => h, fun _ _ h => h⟩ hev)))

theorem evolves_execSetOwnerSlot (s : State) : EvolvesRes s (execSetOwnerSlot s) := by
  unfold execSetOwnerSlot
  refine evolvesRes_whenLive _ (fun v hv => evolves_ownerCommand _ _ _ _ _ (fun bs hp => ?_) hv)
  simp only [Bool.and_eq_true, Bool.or_eq_true, decide_eq_true_eq, State.ownerState] at hp
  exact evolves_burn _ _ ⟨rfl, Nat.le_refl _, Nat.le_refl _, fun k h => List.mem_cons_of_mem _ h, fun _ _ h => h⟩ hv

theorem evolves_execRevokeSlot (s : State) : EvolvesRes s (execRevokeSlot s) := by
  unfold execRevokeSlot
  refine evolvesRes_whenLive _ (fun v hv => evolves_ownerCommand _ _ _ _ _ (fun bs hp => ?_) hv)
  simp only [Bool.and_eq_true, Bool.or_eq_true, decide_eq_true_eq, State.ownerState] at hp
  refine evolves_burn _ _ ⟨rfl, Nat.le_refl _, Nat.le_refl _, fun _ h => h, fun k _ h => ?_⟩ hv
  by_cases hk : k = State.orArg bs
  · exact hk ▸ List.mem_cons_self
  · exact List.mem_cons_of_mem _ (List.mem_filter.mpr ⟨h, decide_eq_true hk⟩)

theorem evolves_execAdvanceRollback (s : State) : EvolvesRes s (execAdvanceRollback s) := by
  unfold execAdvanceRollback
  refine evolvesRes_whenLive _ (fun v hv => evolves_ownerCommand _ _ _ _ _ (fun bs hp => ?_) hv)
  simp only [Bool.and_eq_true, Bool.or_eq_true, decide_eq_true_eq, State.ownerState] at hp
  exact evolves_burn _ _ ⟨rfl, Nat.le_refl _, Nat.le_of_lt hp.1.2, fun _ h => h, fun _ _ h => h⟩ hv

theorem evolves_execToField (s : State) : EvolvesRes s (execToField s) := by
  unfold execToField
  refine evolvesRes_whenLive _ (fun v hv => evolves_ownerCommand _ _ _ _ _ (fun bs hp => ?_) hv)
  exact evolves_burn _ _ ⟨rfl, Nat.le_max_left _ _, Nat.le_refl _, fun _ h => h, fun _ _ h => h⟩ hv

theorem evolves_execToReturned (s : State) : EvolvesRes s (execToReturned s) := by
  unfold execToReturned
  exact evolvesRes_whenLive _ (fun v hv => evolves_ownerCommand _ _ _ _ _ (fun bs _ => evolves_mk hv) hv)

theorem evolves_execToScrapped (s : State) : EvolvesRes s (execToScrapped s) := by
  unfold execToScrapped
  refine evolvesRes_whenLive _ (fun v hv => evolves_ownerCommand _ _ _ _ _ (fun bs hp => ?_) hv)
  simp only [Bool.and_eq_true, Bool.or_eq_true, decide_eq_true_eq, State.ownerState] at hp
  refine evolves_burn _ _ ⟨rfl, ?_, Nat.le_refl _, fun _ h => h, fun _ _ h => h⟩ hv
  show v.fuses.lifecycle ≤ 5
  omega

theorem evolves_execDrbgReseed (s : State) : EvolvesRes s (Sys2Proof.Machine.execDrbgReseed s) := by
  unfold Sys2Proof.Machine.execDrbgReseed
  repeat' (first | with_reducible exact Evolves.refl _ | with_reducible apply evolvesRes_next | with_reducible apply evolvesRes_whenLive | intro _ | with_reducible assumption | with_reducible refine EvolvesSnd.out ?_ | with_reducible refine EvolvesFst.out ?_ | with_reducible refine EvolvesTrd.out ?_ | with_reducible apply evolves_updSec | with_reducible apply evolves_forEach | with_reducible apply evolves_foldl | with_reducible apply evolves_foldl_snd | with_reducible apply evolves_foldl_fst | with_reducible apply evolves_ite | with_reducible apply evolves_ite_snd | with_reducible apply evolves_ite_fst | with_reducible apply evolves_now | with_reducible refine evolves_getD (fun t ht => ?_) ?_ | (with_reducible refine evolves_id ?_; simp only [↓evolves_mk_iff]) | split | with_reducible apply evolvesSnd_mk | with_reducible apply evolvesFst_mk | with_reducible apply evolvesTrd_mk | (refine evolves_snd_eq (by with_reducible assumption) ?_) | (refine evolves_fst_eq (by with_reducible assumption) ?_) | (refine evolves_trd_eq (by with_reducible assumption) ?_))

theorem evolves_execTrngFail (hub : Side) (s : State) : EvolvesRes s (Sys2Proof.Machine.execTrngFail hub s) := by
  unfold Sys2Proof.Machine.execTrngFail
  repeat' (first | with_reducible exact Evolves.refl _ | with_reducible apply evolvesRes_next | with_reducible apply evolvesRes_whenLive | intro _ | with_reducible assumption | with_reducible refine EvolvesSnd.out ?_ | with_reducible refine EvolvesFst.out ?_ | with_reducible refine EvolvesTrd.out ?_ | with_reducible apply evolves_setFld | with_reducible apply evolves_bump | with_reducible apply evolves_recordErr | with_reducible apply evolves_forEach | with_reducible apply evolves_foldl | with_reducible apply evolves_foldl_snd | with_reducible apply evolves_foldl_fst | with_reducible apply evolves_ite | with_reducible apply evolves_ite_snd | with_reducible apply evolves_ite_fst | with_reducible apply evolves_now | with_reducible refine evolves_getD (fun t ht => ?_) ?_ | (with_reducible refine evolves_id ?_; simp only [↓evolves_mk_iff]) | split | with_reducible apply evolvesSnd_mk | with_reducible apply evolvesFst_mk | with_reducible apply evolvesTrd_mk | (refine evolves_snd_eq (by with_reducible assumption) ?_) | (refine evolves_fst_eq (by with_reducible assumption) ?_) | (refine evolves_trd_eq (by with_reducible assumption) ?_))

end Sys2Proof.Machine
end

