-- ==== Sys2Proof/Laws/EvolveTileVec.lean ====
section
/-! SUPPORT. What the operations of Machine/TileVec.lean keep. -/

set_option Elab.async false
set_option linter.unusedSimpArgs false

namespace Sys2Proof.Machine

open Sys2Proof

theorem evolves_vecWrite {o0 : State} (s : State) (t : Nat) (v : VecOp) (sh : VecShape) (src : Nat → List Nat) (rows : List VecRow)  (hev : Evolves o0 s) :
    Evolves o0 (Sys2Proof.Machine.State.vecWrite s t v sh src rows) := by
  unfold Sys2Proof.Machine.State.vecWrite
  repeat' (first | intro _ | with_reducible assumption | with_reducible refine EvolvesSnd.out ?_ | with_reducible refine EvolvesFst.out ?_ | with_reducible refine EvolvesTrd.out ?_ | with_reducible apply evolves_updTile | with_reducible apply evolves_countEvent | with_reducible apply evolves_writeRow | with_reducible apply evolves_movePoison | with_reducible apply evolves_forEach | with_reducible apply evolves_foldl | with_reducible apply evolves_foldl_snd | with_reducible apply evolves_foldl_fst | with_reducible apply evolves_ite | with_reducible apply evolves_ite_snd | with_reducible apply evolves_ite_fst | with_reducible apply evolves_now | with_reducible refine evolves_getD (fun t ht => ?_) ?_ | (with_reducible refine evolves_id ?_; simp only [↓evolves_mk_iff]) | split | with_reducible apply evolvesSnd_mk | with_reducible apply evolvesFst_mk | with_reducible apply evolvesTrd_mk | (refine evolves_snd_eq (by with_reducible assumption) ?_) | (refine evolves_fst_eq (by with_reducible assumption) ?_) | (refine evolves_trd_eq (by with_reducible assumption) ?_))

theorem evolves_laneEff {o0 : State} (v : VecOp) (sh : VecShape) (more : List Nat) (f : Tile → Nat → Nat → Nat → Conv) (s : State) (t : Nat)  (hev : Evolves o0 s) :
    Evolves o0 (Sys2Proof.Machine.laneEff v sh more f s t) := by
  unfold Sys2Proof.Machine.laneEff
  repeat' (first | intro _ | with_reducible assumption | with_reducible refine EvolvesSnd.out ?_ | with_reducible refine EvolvesFst.out ?_ | with_reducible refine EvolvesTrd.out ?_ | with_reducible apply evolves_vecWrite | with_reducible apply evolves_forEach | with_reducible apply evolves_foldl | with_reducible apply evolves_foldl_snd | with_reducible apply evolves_foldl_fst | with_reducible apply evolves_ite | with_reducible apply evolves_ite_snd | with_reducible apply evolves_ite_fst | with_reducible apply evolves_now | with_reducible refine evolves_getD (fun t ht => ?_) ?_ | (with_reducible refine evolves_id ?_; simp only [↓evolves_mk_iff]) | split | with_reducible apply evolvesSnd_mk | with_reducible apply evolvesFst_mk | with_reducible apply evolvesTrd_mk | (refine evolves_snd_eq (by with_reducible assumption) ?_) | (refine evolves_fst_eq (by with_reducible assumption) ?_) | (refine evolves_trd_eq (by with_reducible assumption) ?_))

theorem slotEvolves_laneSlot (v : VecOp) (sh : VecShape) (f : Tile → Nat → Nat → Nat → Conv) : SlotEvolves (Sys2Proof.Machine.laneSlot v sh f) := by
  intro o u t hev
  unfold Sys2Proof.Machine.laneSlot
  dsimp only [mkSlot]
  repeat' (first | intro _ | with_reducible assumption | with_reducible refine EvolvesSnd.out ?_ | with_reducible refine EvolvesFst.out ?_ | with_reducible refine EvolvesTrd.out ?_ | with_reducible apply evolves_laneEff | with_reducible apply evolves_forEach | with_reducible apply evolves_foldl | with_reducible apply evolves_foldl_snd | with_reducible apply evolves_foldl_fst | with_reducible apply evolves_ite | with_reducible apply evolves_ite_snd | with_reducible apply evolves_ite_fst | with_reducible apply evolves_now | with_reducible refine evolves_getD (fun t ht => ?_) ?_ | (with_reducible refine evolves_id ?_; simp only [↓evolves_mk_iff]) | split | with_reducible apply evolvesSnd_mk | with_reducible apply evolvesFst_mk | with_reducible apply evolvesTrd_mk | (refine evolves_snd_eq (by with_reducible assumption) ?_) | (refine evolves_fst_eq (by with_reducible assumption) ?_) | (refine evolves_trd_eq (by with_reducible assumption) ?_))

theorem slotEvolves_slotVopMov (v : VecOp) : SlotEvolves (Sys2Proof.Machine.slotVopMov v) := by
  intro o u t hev
  unfold Sys2Proof.Machine.slotVopMov
  first | exact slotEvolves_laneSlot _ _ _ _ _ _ hev

theorem slotEvolves_slotVopAdd (v : VecOp) : SlotEvolves (Sys2Proof.Machine.slotVopAdd v) := by
  intro o u t hev
  unfold Sys2Proof.Machine.slotVopAdd
  first | exact slotEvolves_laneSlot _ _ _ _ _ _ hev

theorem slotEvolves_slotVopSub (v : VecOp) : SlotEvolves (Sys2Proof.Machine.slotVopSub v) := by
  intro o u t hev
  unfold Sys2Proof.Machine.slotVopSub
  first | exact slotEvolves_laneSlot _ _ _ _ _ _ hev

theorem slotEvolves_slotVopMul (v : VecOp) : SlotEvolves (Sys2Proof.Machine.slotVopMul v) := by
  intro o u t hev
  unfold Sys2Proof.Machine.slotVopMul
  first | exact slotEvolves_laneSlot _ _ _ _ _ _ hev

theorem slotEvolves_slotVopMax (v : VecOp) : SlotEvolves (Sys2Proof.Machine.slotVopMax v) := by
  intro o u t hev
  unfold Sys2Proof.Machine.slotVopMax
  first | exact slotEvolves_laneSlot _ _ _ _ _ _ hev

theorem slotEvolves_slotVopMin (v : VecOp) : SlotEvolves (Sys2Proof.Machine.slotVopMin v) := by
  intro o u t hev
  unfold Sys2Proof.Machine.slotVopMin
  first | exact slotEvolves_laneSlot _ _ _ _ _ _ hev

theorem slotEvolves_slotVopAbs (v : VecOp) : SlotEvolves (Sys2Proof.Machine.slotVopAbs v) := by
  intro o u t hev
  unfold Sys2Proof.Machine.slotVopAbs
  first | exact slotEvolves_laneSlot _ _ _ _ _ _ hev

theorem slotEvolves_slotVopNeg (v : VecOp) : SlotEvolves (Sys2Proof.Machine.slotVopNeg v) := by
  intro o u t hev
  unfold Sys2Proof.Machine.slotVopNeg
  first | exact slotEvolves_laneSlot _ _ _ _ _ _ hev

theorem slotEvolves_slotVopRelu (v : VecOp) : SlotEvolves (Sys2Proof.Machine.slotVopRelu v) := by
  intro o u t hev
  unfold Sys2Proof.Machine.slotVopRelu
  first | exact slotEvolves_laneSlot _ _ _ _ _ _ hev

theorem slotEvolves_slotVopRcp (v : VecOp) : SlotEvolves (Sys2Proof.Machine.slotVopRcp v) := by
  intro o u t hev
  unfold Sys2Proof.Machine.slotVopRcp
  first | exact slotEvolves_laneSlot _ _ _ _ _ _ hev

theorem slotEvolves_slotVopRsqrt (v : VecOp) : SlotEvolves (Sys2Proof.Machine.slotVopRsqrt v) := by
  intro o u t hev
  unfold Sys2Proof.Machine.slotVopRsqrt
  first | exact slotEvolves_laneSlot _ _ _ _ _ _ hev

theorem slotEvolves_slotVopAnd (v : VecOp) : SlotEvolves (Sys2Proof.Machine.slotVopAnd v) := by
  intro o u t hev
  unfold Sys2Proof.Machine.slotVopAnd
  first | exact slotEvolves_laneSlot _ _ _ _ _ _ hev

theorem slotEvolves_slotVopOr (v : VecOp) : SlotEvolves (Sys2Proof.Machine.slotVopOr v) := by
  intro o u t hev
  unfold Sys2Proof.Machine.slotVopOr
  first | exact slotEvolves_laneSlot _ _ _ _ _ _ hev

theorem slotEvolves_slotVopXor (v : VecOp) : SlotEvolves (Sys2Proof.Machine.slotVopXor v) := by
  intro o u t hev
  unfold Sys2Proof.Machine.slotVopXor
  first | exact slotEvolves_laneSlot _ _ _ _ _ _ hev

theorem slotEvolves_slotVopShl (v : VecOp) : SlotEvolves (Sys2Proof.Machine.slotVopShl v) := by
  intro o u t hev
  unfold Sys2Proof.Machine.slotVopShl
  first | exact slotEvolves_laneSlot _ _ _ _ _ _ hev

theorem slotEvolves_slotVopShr (v : VecOp) : SlotEvolves (Sys2Proof.Machine.slotVopShr v) := by
  intro o u t hev
  unfold Sys2Proof.Machine.slotVopShr
  first | exact slotEvolves_laneSlot _ _ _ _ _ _ hev

theorem slotEvolves_slotVopZero (v : VecOp) : SlotEvolves (Sys2Proof.Machine.slotVopZero v) := by
  intro o u t hev
  unfold Sys2Proof.Machine.slotVopZero
  first | exact slotEvolves_laneSlot _ _ _ _ _ _ hev

theorem slotEvolves_slotVfma (v : VecOp) : SlotEvolves (Sys2Proof.Machine.slotVfma v) := by
  intro o u t hev
  unfold Sys2Proof.Machine.slotVfma
  first | exact slotEvolves_laneSlot _ _ _ _ _ _ hev

theorem slotEvolves_slotVsel (v : VecOp) : SlotEvolves (Sys2Proof.Machine.slotVsel v) := by
  intro o u t hev
  unfold Sys2Proof.Machine.slotVsel
  first | exact slotEvolves_laneSlot _ _ _ _ _ _ hev

theorem slotEvolves_slotVcmpEq (v : VecOp) : SlotEvolves (Sys2Proof.Machine.slotVcmpEq v) := by
  intro o u t hev
  unfold Sys2Proof.Machine.slotVcmpEq
  first | exact slotEvolves_laneSlot _ _ _ _ _ _ hev

theorem slotEvolves_slotVcmpNe (v : VecOp) : SlotEvolves (Sys2Proof.Machine.slotVcmpNe v) := by
  intro o u t hev
  unfold Sys2Proof.Machine.slotVcmpNe
  first | exact slotEvolves_laneSlot _ _ _ _ _ _ hev

theorem slotEvolves_slotVcmpLt (v : VecOp) : SlotEvolves (Sys2Proof.Machine.slotVcmpLt v) := by
  intro o u t hev
  unfold Sys2Proof.Machine.slotVcmpLt
  first | exact slotEvolves_laneSlot _ _ _ _ _ _ hev

theorem slotEvolves_slotVcmpLe (v : VecOp) : SlotEvolves (Sys2Proof.Machine.slotVcmpLe v) := by
  intro o u t hev
  unfold Sys2Proof.Machine.slotVcmpLe
  first | exact slotEvolves_laneSlot _ _ _ _ _ _ hev

theorem slotEvolves_slotVcmpGt (v : VecOp) : SlotEvolves (Sys2Proof.Machine.slotVcmpGt v) := by
  intro o u t hev
  unfold Sys2Proof.Machine.slotVcmpGt
  first | exact slotEvolves_laneSlot _ _ _ _ _ _ hev

theorem slotEvolves_slotVcmpGe (v : VecOp) : SlotEvolves (Sys2Proof.Machine.slotVcmpGe v) := by
  intro o u t hev
  unfold Sys2Proof.Machine.slotVcmpGe
  first | exact slotEvolves_laneSlot _ _ _ _ _ _ hev

theorem slotEvolves_slotVexp2 (v : VecOp) : SlotEvolves (Sys2Proof.Machine.slotVexp2 v) := by
  intro o u t hev
  unfold Sys2Proof.Machine.slotVexp2
  first | exact slotEvolves_laneSlot _ _ _ _ _ _ hev

theorem slotEvolves_slotVtabEval (v : VecOp) : SlotEvolves (Sys2Proof.Machine.slotVtabEval v) := by
  intro o u t hev
  unfold Sys2Proof.Machine.slotVtabEval
  dsimp only [mkSlot]
  repeat' (first | intro _ | with_reducible assumption | with_reducible refine EvolvesSnd.out ?_ | with_reducible refine EvolvesFst.out ?_ | with_reducible refine EvolvesTrd.out ?_ | with_reducible apply evolves_laneEff | with_reducible apply evolves_forEach | with_reducible apply evolves_foldl | with_reducible apply evolves_foldl_snd | with_reducible apply evolves_foldl_fst | with_reducible apply evolves_ite | with_reducible apply evolves_ite_snd | with_reducible apply evolves_ite_fst | with_reducible apply evolves_now | with_reducible refine evolves_getD (fun t ht => ?_) ?_ | (with_reducible refine evolves_id ?_; simp only [↓evolves_mk_iff]) | split | with_reducible apply evolvesSnd_mk | with_reducible apply evolvesFst_mk | with_reducible apply evolvesTrd_mk | (refine evolves_snd_eq (by with_reducible assumption) ?_) | (refine evolves_fst_eq (by with_reducible assumption) ?_) | (refine evolves_trd_eq (by with_reducible assumption) ?_))

theorem slotEvolves_slotVtabLoad (v : VecOp) : SlotEvolves (Sys2Proof.Machine.slotVtabLoad v) := by
  intro o u t hev
  unfold Sys2Proof.Machine.slotVtabLoad
  dsimp only [mkSlot]
  repeat' (first | intro _ | with_reducible assumption | with_reducible refine EvolvesSnd.out ?_ | with_reducible refine EvolvesFst.out ?_ | with_reducible refine EvolvesTrd.out ?_ | with_reducible apply evolves_updTile | with_reducible apply evolves_countEvent | with_reducible apply evolves_movePoison | with_reducible apply evolves_forEach | with_reducible apply evolves_foldl | with_reducible apply evolves_foldl_snd | with_reducible apply evolves_foldl_fst | with_reducible apply evolves_ite | with_reducible apply evolves_ite_snd | with_reducible apply evolves_ite_fst | with_reducible apply evolves_now | with_reducible refine evolves_getD (fun t ht => ?_) ?_ | (with_reducible refine evolves_id ?_; simp only [↓evolves_mk_iff]) | split | with_reducible apply evolvesSnd_mk | with_reducible apply evolvesFst_mk | with_reducible apply evolvesTrd_mk | (refine evolves_snd_eq (by with_reducible assumption) ?_) | (refine evolves_fst_eq (by with_reducible assumption) ?_) | (refine evolves_trd_eq (by with_reducible assumption) ?_))

theorem evolves_vredEff {o0 : State} (v : VecOp) (lanes : Bool) (red : List Nat → Conv) (s : State) (t : Nat)  (hev : Evolves o0 s) :
    Evolves o0 (Sys2Proof.Machine.vredEff v lanes red s t) := by
  unfold Sys2Proof.Machine.vredEff
  repeat' (first | intro _ | with_reducible assumption | with_reducible refine EvolvesSnd.out ?_ | with_reducible refine EvolvesFst.out ?_ | with_reducible refine EvolvesTrd.out ?_ | with_reducible apply evolves_vecWrite | with_reducible apply evolves_forEach | with_reducible apply evolves_foldl | with_reducible apply evolves_foldl_snd | with_reducible apply evolves_foldl_fst | with_reducible apply evolves_ite | with_reducible apply evolves_ite_snd | with_reducible apply evolves_ite_fst | with_reducible apply evolves_now | with_reducible refine evolves_getD (fun t ht => ?_) ?_ | (with_reducible refine evolves_id ?_; simp only [↓evolves_mk_iff]) | split | with_reducible apply evolvesSnd_mk | with_reducible apply evolvesFst_mk | with_reducible apply evolvesTrd_mk | (refine evolves_snd_eq (by with_reducible assumption) ?_) | (refine evolves_fst_eq (by with_reducible assumption) ?_) | (refine evolves_trd_eq (by with_reducible assumption) ?_))

theorem slotEvolves_slotVredSum (v : VecOp) (lanes : Bool) : SlotEvolves (Sys2Proof.Machine.slotVredSum v lanes) := by
  intro o u t hev
  unfold Sys2Proof.Machine.slotVredSum
  dsimp only [mkSlot]
  repeat' (first | intro _ | with_reducible assumption | with_reducible refine EvolvesSnd.out ?_ | with_reducible refine EvolvesFst.out ?_ | with_reducible refine EvolvesTrd.out ?_ | with_reducible apply evolves_vredEff | with_reducible apply evolves_forEach | with_reducible apply evolves_foldl | with_reducible apply evolves_foldl_snd | with_reducible apply evolves_foldl_fst | with_reducible apply evolves_ite | with_reducible apply evolves_ite_snd | with_reducible apply evolves_ite_fst | with_reducible apply evolves_now | with_reducible refine evolves_getD (fun t ht => ?_) ?_ | (with_reducible refine evolves_id ?_; simp only [↓evolves_mk_iff]) | split | with_reducible apply evolvesSnd_mk | with_reducible apply evolvesFst_mk | with_reducible apply evolvesTrd_mk | (refine evolves_snd_eq (by with_reducible assumption) ?_) | (refine evolves_fst_eq (by with_reducible assumption) ?_) | (refine evolves_trd_eq (by with_reducible assumption) ?_))

theorem slotEvolves_slotVredMax (v : VecOp) (lanes : Bool) : SlotEvolves (Sys2Proof.Machine.slotVredMax v lanes) := by
  intro o u t hev
  unfold Sys2Proof.Machine.slotVredMax
  dsimp only [mkSlot]
  repeat' (first | intro _ | with_reducible assumption | with_reducible refine EvolvesSnd.out ?_ | with_reducible refine EvolvesFst.out ?_ | with_reducible refine EvolvesTrd.out ?_ | with_reducible apply evolves_vredEff | with_reducible apply evolves_forEach | with_reducible apply evolves_foldl | with_reducible apply evolves_foldl_snd | with_reducible apply evolves_foldl_fst | with_reducible apply evolves_ite | with_reducible apply evolves_ite_snd | with_reducible apply evolves_ite_fst | with_reducible apply evolves_now | with_reducible refine evolves_getD (fun t ht => ?_) ?_ | (with_reducible refine evolves_id ?_; simp only [↓evolves_mk_iff]) | split | with_reducible apply evolvesSnd_mk | with_reducible apply evolvesFst_mk | with_reducible apply evolvesTrd_mk | (refine evolves_snd_eq (by with_reducible assumption) ?_) | (refine evolves_fst_eq (by with_reducible assumption) ?_) | (refine evolves_trd_eq (by with_reducible assumption) ?_))

theorem slotEvolves_slotVredMin (v : VecOp) (lanes : Bool) : SlotEvolves (Sys2Proof.Machine.slotVredMin v lanes) := by
  intro o u t hev
  unfold Sys2Proof.Machine.slotVredMin
  dsimp only [mkSlot]
  repeat' (first | intro _ | with_reducible assumption | with_reducible refine EvolvesSnd.out ?_ | with_reducible refine EvolvesFst.out ?_ | with_reducible refine EvolvesTrd.out ?_ | with_reducible apply evolves_vredEff | with_reducible apply evolves_forEach | with_reducible apply evolves_foldl | with_reducible apply evolves_foldl_snd | with_reducible apply evolves_foldl_fst | with_reducible apply evolves_ite | with_reducible apply evolves_ite_snd | with_reducible apply evolves_ite_fst | with_reducible apply evolves_now | with_reducible refine evolves_getD (fun t ht => ?_) ?_ | (with_reducible refine evolves_id ?_; simp only [↓evolves_mk_iff]) | split | with_reducible apply evolvesSnd_mk | with_reducible apply evolvesFst_mk | with_reducible apply evolvesTrd_mk | (refine evolves_snd_eq (by with_reducible assumption) ?_) | (refine evolves_fst_eq (by with_reducible assumption) ?_) | (refine evolves_trd_eq (by with_reducible assumption) ?_))

theorem evolves_vcvtEff {o0 : State} (v : VecOp) (src : BitVec 4) (dst : BitVec 4) (s : State) (t : Nat)  (hev : Evolves o0 s) :
    Evolves o0 (Sys2Proof.Machine.vcvtEff v src dst s t) := by
  unfold Sys2Proof.Machine.vcvtEff
  repeat' (first | intro _ | with_reducible assumption | with_reducible refine EvolvesSnd.out ?_ | with_reducible refine EvolvesFst.out ?_ | with_reducible refine EvolvesTrd.out ?_ | with_reducible apply evolves_vecWrite | with_reducible apply evolves_forEach | with_reducible apply evolves_foldl | with_reducible apply evolves_foldl_snd | with_reducible apply evolves_foldl_fst | with_reducible apply evolves_ite | with_reducible apply evolves_ite_snd | with_reducible apply evolves_ite_fst | with_reducible apply evolves_now | with_reducible refine evolves_getD (fun t ht => ?_) ?_ | (with_reducible refine evolves_id ?_; simp only [↓evolves_mk_iff]) | split | with_reducible apply evolvesSnd_mk | with_reducible apply evolvesFst_mk | with_reducible apply evolvesTrd_mk | (refine evolves_snd_eq (by with_reducible assumption) ?_) | (refine evolves_fst_eq (by with_reducible assumption) ?_) | (refine evolves_trd_eq (by with_reducible assumption) ?_))

theorem slotEvolves_slotVcvt (v : VecOp) (src : BitVec 4) (dst : BitVec 4) : SlotEvolves (Sys2Proof.Machine.slotVcvt v src dst) := by
  intro o u t hev
  unfold Sys2Proof.Machine.slotVcvt
  dsimp only [mkSlot]
  repeat' (first | intro _ | with_reducible assumption | with_reducible refine EvolvesSnd.out ?_ | with_reducible refine EvolvesFst.out ?_ | with_reducible refine EvolvesTrd.out ?_ | with_reducible apply evolves_vcvtEff | with_reducible apply evolves_forEach | with_reducible apply evolves_foldl | with_reducible apply evolves_foldl_snd | with_reducible apply evolves_foldl_fst | with_reducible apply evolves_ite | with_reducible apply evolves_ite_snd | with_reducible apply evolves_ite_fst | with_reducible apply evolves_now | with_reducible refine evolves_getD (fun t ht => ?_) ?_ | (with_reducible refine evolves_id ?_; simp only [↓evolves_mk_iff]) | split | with_reducible apply evolvesSnd_mk | with_reducible apply evolvesFst_mk | with_reducible apply evolvesTrd_mk | (refine evolves_snd_eq (by with_reducible assumption) ?_) | (refine evolves_fst_eq (by with_reducible assumption) ?_) | (refine evolves_trd_eq (by with_reducible assumption) ?_))

theorem evolves_vxposeEff {o0 : State} (v : VecOp) (s : State) (t : Nat)  (hev : Evolves o0 s) :
    Evolves o0 (Sys2Proof.Machine.vxposeEff v s t) := by
  unfold Sys2Proof.Machine.vxposeEff
  repeat' (first | intro _ | with_reducible assumption | with_reducible refine EvolvesSnd.out ?_ | with_reducible refine EvolvesFst.out ?_ | with_reducible refine EvolvesTrd.out ?_ | with_reducible apply evolves_vecWrite | with_reducible apply evolves_forEach | with_reducible apply evolves_foldl | with_reducible apply evolves_foldl_snd | with_reducible apply evolves_foldl_fst | with_reducible apply evolves_ite | with_reducible apply evolves_ite_snd | with_reducible apply evolves_ite_fst | with_reducible apply evolves_now | with_reducible refine evolves_getD (fun t ht => ?_) ?_ | (with_reducible refine evolves_id ?_; simp only [↓evolves_mk_iff]) | split | with_reducible apply evolvesSnd_mk | with_reducible apply evolvesFst_mk | with_reducible apply evolvesTrd_mk | (refine evolves_snd_eq (by with_reducible assumption) ?_) | (refine evolves_fst_eq (by with_reducible assumption) ?_) | (refine evolves_trd_eq (by with_reducible assumption) ?_))

theorem slotEvolves_slotVxpose (v : VecOp) : SlotEvolves (Sys2Proof.Machine.slotVxpose v) := by
  intro o u t hev
  unfold Sys2Proof.Machine.slotVxpose
  dsimp only [mkSlot]
  repeat' (first | intro _ | with_reducible assumption | with_reducible refine EvolvesSnd.out ?_ | with_reducible refine EvolvesFst.out ?_ | with_reducible refine EvolvesTrd.out ?_ | with_reducible apply evolves_vxposeEff | with_reducible apply evolves_forEach | with_reducible apply evolves_foldl | with_reducible apply evolves_foldl_snd | with_reducible apply evolves_foldl_fst | with_reducible apply evolves_ite | with_reducible apply evolves_ite_snd | with_reducible apply evolves_ite_fst | with_reducible apply evolves_now | with_reducible refine evolves_getD (fun t ht => ?_) ?_ | (with_reducible refine evolves_id ?_; simp only [↓evolves_mk_iff]) | split | with_reducible apply evolvesSnd_mk | with_reducible apply evolvesFst_mk | with_reducible apply evolvesTrd_mk | (refine evolves_snd_eq (by with_reducible assumption) ?_) | (refine evolves_fst_eq (by with_reducible assumption) ?_) | (refine evolves_trd_eq (by with_reducible assumption) ?_))

theorem evolves_vmergeEff {o0 : State} (v : VecOp) (init : Bool) (final : Bool) (s : State) (t : Nat)  (hev : Evolves o0 s) :
    Evolves o0 (Sys2Proof.Machine.vmergeEff v init final s t) := by
  unfold Sys2Proof.Machine.vmergeEff
  repeat' (first | intro _ | with_reducible assumption | with_reducible refine EvolvesSnd.out ?_ | with_reducible refine EvolvesFst.out ?_ | with_reducible refine EvolvesTrd.out ?_ | with_reducible apply evolves_updTile | with_reducible apply evolves_movePoison | with_reducible apply evolves_forEach | with_reducible apply evolves_foldl | with_reducible apply evolves_foldl_snd | with_reducible apply evolves_foldl_fst | with_reducible apply evolves_ite | with_reducible apply evolves_ite_snd | with_reducible apply evolves_ite_fst | with_reducible apply evolves_now | with_reducible refine evolves_getD (fun t ht => ?_) ?_ | (with_reducible refine evolves_id ?_; simp only [↓evolves_mk_iff]) | split | with_reducible apply evolvesSnd_mk | with_reducible apply evolvesFst_mk | with_reducible apply evolvesTrd_mk | (refine evolves_snd_eq (by with_reducible assumption) ?_) | (refine evolves_fst_eq (by with_reducible assumption) ?_) | (refine evolves_trd_eq (by with_reducible assumption) ?_))

theorem slotEvolves_slotVmerge (v : VecOp) (init : Bool) (final : Bool) : SlotEvolves (Sys2Proof.Machine.slotVmerge v init final) := by
  intro o u t hev
  unfold Sys2Proof.Machine.slotVmerge
  dsimp only [mkSlot]
  repeat' (first | intro _ | with_reducible assumption | with_reducible refine EvolvesSnd.out ?_ | with_reducible refine EvolvesFst.out ?_ | with_reducible refine EvolvesTrd.out ?_ | with_reducible apply evolves_vmergeEff | with_reducible apply evolves_forEach | with_reducible apply evolves_foldl | with_reducible apply evolves_foldl_snd | with_reducible apply evolves_foldl_fst | with_reducible apply evolves_ite | with_reducible apply evolves_ite_snd | with_reducible apply evolves_ite_fst | with_reducible apply evolves_now | with_reducible refine evolves_getD (fun t ht => ?_) ?_ | (with_reducible refine evolves_id ?_; simp only [↓evolves_mk_iff]) | split | with_reducible apply evolvesSnd_mk | with_reducible apply evolvesFst_mk | with_reducible apply evolvesTrd_mk | (refine evolves_snd_eq (by with_reducible assumption) ?_) | (refine evolves_fst_eq (by with_reducible assumption) ?_) | (refine evolves_trd_eq (by with_reducible assumption) ?_))

theorem evolves_vpoolEff {o0 : State} (v : VecOp) (avg : Bool) (countPad : Bool) (s : State) (t : Nat)  (hev : Evolves o0 s) :
    Evolves o0 (Sys2Proof.Machine.vpoolEff v avg countPad s t) := by
  unfold Sys2Proof.Machine.vpoolEff
  repeat' (first | intro _ | with_reducible assumption | with_reducible refine EvolvesSnd.out ?_ | with_reducible refine EvolvesFst.out ?_ | with_reducible refine EvolvesTrd.out ?_ | with_reducible apply evolves_updTile | with_reducible apply evolves_countEvent | with_reducible apply evolves_writeRow | with_reducible apply evolves_movePoison | with_reducible apply evolves_forEach | with_reducible apply evolves_foldl | with_reducible apply evolves_foldl_snd | with_reducible apply evolves_foldl_fst | with_reducible apply evolves_ite | with_reducible apply evolves_ite_snd | with_reducible apply evolves_ite_fst | with_reducible apply evolves_now | with_reducible refine evolves_getD (fun t ht => ?_) ?_ | (with_reducible refine evolves_id ?_; simp only [↓evolves_mk_iff]) | split | with_reducible apply evolvesSnd_mk | with_reducible apply evolvesFst_mk | with_reducible apply evolvesTrd_mk | (refine evolves_snd_eq (by with_reducible assumption) ?_) | (refine evolves_fst_eq (by with_reducible assumption) ?_) | (refine evolves_trd_eq (by with_reducible assumption) ?_))

theorem slotEvolves_slotVpoolMax (v : VecOp) (countPad : Bool) : SlotEvolves (Sys2Proof.Machine.slotVpoolMax v countPad) := by
  intro o u t hev
  unfold Sys2Proof.Machine.slotVpoolMax
  dsimp only [mkSlot]
  repeat' (first | intro _ | with_reducible assumption | with_reducible refine EvolvesSnd.out ?_ | with_reducible refine EvolvesFst.out ?_ | with_reducible refine EvolvesTrd.out ?_ | with_reducible apply evolves_vpoolEff | with_reducible apply evolves_forEach | with_reducible apply evolves_foldl | with_reducible apply evolves_foldl_snd | with_reducible apply evolves_foldl_fst | with_reducible apply evolves_ite | with_reducible apply evolves_ite_snd | with_reducible apply evolves_ite_fst | with_reducible apply evolves_now | with_reducible refine evolves_getD (fun t ht => ?_) ?_ | (with_reducible refine evolves_id ?_; simp only [↓evolves_mk_iff]) | split | with_reducible apply evolvesSnd_mk | with_reducible apply evolvesFst_mk | with_reducible apply evolvesTrd_mk | (refine evolves_snd_eq (by with_reducible assumption) ?_) | (refine evolves_fst_eq (by with_reducible assumption) ?_) | (refine evolves_trd_eq (by with_reducible assumption) ?_))

theorem slotEvolves_slotVpoolAvg (v : VecOp) (countPad : Bool) : SlotEvolves (Sys2Proof.Machine.slotVpoolAvg v countPad) := by
  intro o u t hev
  unfold Sys2Proof.Machine.slotVpoolAvg
  dsimp only [mkSlot]
  repeat' (first | intro _ | with_reducible assumption | with_reducible refine EvolvesSnd.out ?_ | with_reducible refine EvolvesFst.out ?_ | with_reducible refine EvolvesTrd.out ?_ | with_reducible apply evolves_vpoolEff | with_reducible apply evolves_forEach | with_reducible apply evolves_foldl | with_reducible apply evolves_foldl_snd | with_reducible apply evolves_foldl_fst | with_reducible apply evolves_ite | with_reducible apply evolves_ite_snd | with_reducible apply evolves_ite_fst | with_reducible apply evolves_now | with_reducible refine evolves_getD (fun t ht => ?_) ?_ | (with_reducible refine evolves_id ?_; simp only [↓evolves_mk_iff]) | split | with_reducible apply evolvesSnd_mk | with_reducible apply evolvesFst_mk | with_reducible apply evolvesTrd_mk | (refine evolves_snd_eq (by with_reducible assumption) ?_) | (refine evolves_fst_eq (by with_reducible assumption) ?_) | (refine evolves_trd_eq (by with_reducible assumption) ?_))

end Sys2Proof.Machine
end

