-- ==== Sys2Proof/Laws/EvolveClock.lean ====
section
/-! SUPPORT. What the operations of Machine/Clock.lean keep. -/

set_option Elab.async false
set_option linter.unusedSimpArgs false

namespace Sys2Proof.Machine

open Sys2Proof

theorem evolves_countCycle {o0 : State} (s : State)  (hev : Evolves o0 s) :
    Evolves o0 (Sys2Proof.Machine.State.countCycle s) := by
  unfold Sys2Proof.Machine.State.countCycle
  repeat' (first | intro _ | with_reducible assumption | with_reducible refine EvolvesSnd.out ?_ | with_reducible refine EvolvesFst.out ?_ | with_reducible refine EvolvesTrd.out ?_ | with_reducible apply evolves_countOne | with_reducible apply evolves_forEach | with_reducible apply evolves_foldl | with_reducible apply evolves_foldl_snd | with_reducible apply evolves_foldl_fst | with_reducible apply evolves_ite | with_reducible apply evolves_ite_snd | with_reducible apply evolves_ite_fst | with_reducible apply evolves_now | with_reducible refine evolves_getD (fun t ht => ?_) ?_ | (with_reducible refine evolves_id ?_; simp only [↓evolves_mk_iff]) | split | with_reducible apply evolvesSnd_mk | with_reducible apply evolvesFst_mk | with_reducible apply evolvesTrd_mk | (refine evolves_snd_eq (by with_reducible assumption) ?_) | (refine evolves_fst_eq (by with_reducible assumption) ?_) | (refine evolves_trd_eq (by with_reducible assumption) ?_))

theorem evolves_idleTick {s0 : State} (s : State) (hev : Evolves s0 s) : Evolves s0 (idleTick s) := by
  unfold idleTick
  split
  · exact hev
  · dsimp only
    refine evolves_now (u := match s.start.hold with
      | .erasing k => s.eraseStep k
      | _ => if s.live then s.countCycle else s) ?_
    split
    · exact evolves_eraseStep _ _ hev
    · exact evolves_ite (evolves_countCycle _ hev) hev

end Sys2Proof.Machine
end

