-- ==== Sys2Proof/Laws/State.lean ====
section
/-! SUPPORT. One lemma per field per update of `State`, each true by definition, so that no proof unfolds a record update. -/

set_option Elab.async false

namespace Sys2Proof.Machine.State

open Sys2Proof Sys2Proof.Machine

@[simp] theorem setReg_pending (s : State) (a : Nat) (w : Word) : (s.setReg a w).pending = s.pending := rfl
@[simp] theorem setReg_clk (s : State) (a : Nat) (w : Word) : (s.setReg a w).clk = s.clk := rfl
@[simp] theorem setReg_now (s : State) (a : Nat) (w : Word) : (s.setReg a w).now = s.now := rfl
@[simp] theorem setReg_free (s : State) (a : Nat) (w : Word) : (s.setReg a w).free = s.free := rfl
@[simp] theorem setReg_fuses (s : State) (a : Nat) (w : Word) : (s.setReg a w).fuses = s.fuses := rfl
@[simp] theorem setReg_flash (s : State) (a : Nat) (w : Word) : (s.setReg a w).flash = s.flash := rfl
@[simp] theorem setReg_errq (s : State) (a : Nat) (w : Word) : (s.setReg a w).errq = s.errq := rfl
@[simp] theorem setReg_errOvf (s : State) (a : Nat) (w : Word) : (s.setReg a w).errOvf = s.errOvf := rfl
@[simp] theorem setReg_cnt (s : State) (a : Nat) (w : Word) : (s.setReg a w).cnt = s.cnt := rfl
@[simp] theorem setReg_cntHeld (s : State) (a : Nat) (w : Word) : (s.setReg a w).cntHeld = s.cntHeld := rfl
@[simp] theorem setReg_cntReload (s : State) (a : Nat) (w : Word) : (s.setReg a w).cntReload = s.cntReload := rfl
@[simp] theorem setReg_cntCapture (s : State) (a : Nat) (w : Word) : (s.setReg a w).cntCapture = s.cntCapture := rfl
@[simp] theorem setReg_cntLevel (s : State) (a : Nat) (w : Word) : (s.setReg a w).cntLevel = s.cntLevel := rfl
@[simp] theorem setReg_evs (s : State) (a : Nat) (w : Word) : (s.setReg a w).evs = s.evs := rfl
@[simp] theorem setReg_mem (s : State) (a : Nat) (w : Word) : (s.setReg a w).mem = s.mem := rfl
@[simp] theorem setReg_start (s : State) (a : Nat) (w : Word) : (s.setReg a w).start = s.start := rfl
@[simp] theorem setReg_svc (s : State) (a : Nat) (w : Word) : (s.setReg a w).svc = s.svc := rfl
@[simp] theorem setReg_tiles (s : State) (a : Nat) (w : Word) : (s.setReg a w).tiles = s.tiles := rfl
@[simp] theorem setReg_disp (s : State) (a : Nat) (w : Word) : (s.setReg a w).disp = s.disp := rfl
@[simp] theorem setReg_ledger (s : State) (a : Nat) (w : Word) : (s.setReg a w).ledger = s.ledger := rfl
@[simp] theorem setReg_ilk (s : State) (a : Nat) (w : Word) : (s.setReg a w).ilk = s.ilk := rfl
@[simp] theorem setReg_dram (s : State) (a : Nat) (w : Word) : (s.setReg a w).dram = s.dram := rfl
@[simp] theorem setReg_safety (s : State) (a : Nat) (w : Word) : (s.setReg a w).safety = s.safety := rfl
@[simp] theorem setReg_ports (s : State) (a : Nat) (w : Word) : (s.setReg a w).ports = s.ports := rfl
@[simp] theorem setReg_convoy (s : State) (a : Nat) (w : Word) : (s.setReg a w).convoy = s.convoy := rfl
@[simp] theorem setReg_sec (s : State) (a : Nat) (w : Word) : (s.setReg a w).sec = s.sec := rfl
@[simp] theorem setReg_power (s : State) (a : Nat) (w : Word) : (s.setReg a w).power = s.power := rfl
@[simp] theorem setReg_links (s : State) (a : Nat) (w : Word) : (s.setReg a w).links = s.links := rfl
@[simp] theorem setReg_signals (s : State) (a : Nat) (w : Word) : (s.setReg a w).signals = s.signals := rfl
@[simp] theorem setReg_arbs (s : State) (a : Nat) (w : Word) : (s.setReg a w).arbs = s.arbs := rfl
@[simp] theorem setReg_mon (s : State) (a : Nat) (w : Word) : (s.setReg a w).mon = s.mon := rfl
@[simp] theorem setReg_pins (s : State) (a : Nat) (w : Word) : (s.setReg a w).pins = s.pins := rfl

@[simp] theorem setFld_pending (s : State) (a : Nat) (hi : Nat) (lo : Nat) (v : Nat) : (s.setFld a hi lo v).pending = s.pending := rfl
@[simp] theorem setFld_clk (s : State) (a : Nat) (hi : Nat) (lo : Nat) (v : Nat) : (s.setFld a hi lo v).clk = s.clk := rfl
@[simp] theorem setFld_now (s : State) (a : Nat) (hi : Nat) (lo : Nat) (v : Nat) : (s.setFld a hi lo v).now = s.now := rfl
@[simp] theorem setFld_free (s : State) (a : Nat) (hi : Nat) (lo : Nat) (v : Nat) : (s.setFld a hi lo v).free = s.free := rfl
@[simp] theorem setFld_fuses (s : State) (a : Nat) (hi : Nat) (lo : Nat) (v : Nat) : (s.setFld a hi lo v).fuses = s.fuses := rfl
@[simp] theorem setFld_flash (s : State) (a : Nat) (hi : Nat) (lo : Nat) (v : Nat) : (s.setFld a hi lo v).flash = s.flash := rfl
@[simp] theorem setFld_errq (s : State) (a : Nat) (hi : Nat) (lo : Nat) (v : Nat) : (s.setFld a hi lo v).errq = s.errq := rfl
@[simp] theorem setFld_errOvf (s : State) (a : Nat) (hi : Nat) (lo : Nat) (v : Nat) : (s.setFld a hi lo v).errOvf = s.errOvf := rfl
@[simp] theorem setFld_cnt (s : State) (a : Nat) (hi : Nat) (lo : Nat) (v : Nat) : (s.setFld a hi lo v).cnt = s.cnt := rfl
@[simp] theorem setFld_cntHeld (s : State) (a : Nat) (hi : Nat) (lo : Nat) (v : Nat) : (s.setFld a hi lo v).cntHeld = s.cntHeld := rfl
@[simp] theorem setFld_cntReload (s : State) (a : Nat) (hi : Nat) (lo : Nat) (v : Nat) : (s.setFld a hi lo v).cntReload = s.cntReload := rfl
@[simp] theorem setFld_cntCapture (s : State) (a : Nat) (hi : Nat) (lo : Nat) (v : Nat) : (s.setFld a hi lo v).cntCapture = s.cntCapture := rfl
@[simp] theorem setFld_cntLevel (s : State) (a : Nat) (hi : Nat) (lo : Nat) (v : Nat) : (s.setFld a hi lo v).cntLevel = s.cntLevel := rfl
@[simp] theorem setFld_evs (s : State) (a : Nat) (hi : Nat) (lo : Nat) (v : Nat) : (s.setFld a hi lo v).evs = s.evs := rfl
@[simp] theorem setFld_mem (s : State) (a : Nat) (hi : Nat) (lo : Nat) (v : Nat) : (s.setFld a hi lo v).mem = s.mem := rfl
@[simp] theorem setFld_start (s : State) (a : Nat) (hi : Nat) (lo : Nat) (v : Nat) : (s.setFld a hi lo v).start = s.start := rfl
@[simp] theorem setFld_svc (s : State) (a : Nat) (hi : Nat) (lo : Nat) (v : Nat) : (s.setFld a hi lo v).svc = s.svc := rfl
@[simp] theorem setFld_tiles (s : State) (a : Nat) (hi : Nat) (lo : Nat) (v : Nat) : (s.setFld a hi lo v).tiles = s.tiles := rfl
@[simp] theorem setFld_disp (s : State) (a : Nat) (hi : Nat) (lo : Nat) (v : Nat) : (s.setFld a hi lo v).disp = s.disp := rfl
@[simp] theorem setFld_ledger (s : State) (a : Nat) (hi : Nat) (lo : Nat) (v : Nat) : (s.setFld a hi lo v).ledger = s.ledger := rfl
@[simp] theorem setFld_ilk (s : State) (a : Nat) (hi : Nat) (lo : Nat) (v : Nat) : (s.setFld a hi lo v).ilk = s.ilk := rfl
@[simp] theorem setFld_dram (s : State) (a : Nat) (hi : Nat) (lo : Nat) (v : Nat) : (s.setFld a hi lo v).dram = s.dram := rfl
@[simp] theorem setFld_safety (s : State) (a : Nat) (hi : Nat) (lo : Nat) (v : Nat) : (s.setFld a hi lo v).safety = s.safety := rfl
@[simp] theorem setFld_ports (s : State) (a : Nat) (hi : Nat) (lo : Nat) (v : Nat) : (s.setFld a hi lo v).ports = s.ports := rfl
@[simp] theorem setFld_convoy (s : State) (a : Nat) (hi : Nat) (lo : Nat) (v : Nat) : (s.setFld a hi lo v).convoy = s.convoy := rfl
@[simp] theorem setFld_sec (s : State) (a : Nat) (hi : Nat) (lo : Nat) (v : Nat) : (s.setFld a hi lo v).sec = s.sec := rfl
@[simp] theorem setFld_power (s : State) (a : Nat) (hi : Nat) (lo : Nat) (v : Nat) : (s.setFld a hi lo v).power = s.power := rfl
@[simp] theorem setFld_links (s : State) (a : Nat) (hi : Nat) (lo : Nat) (v : Nat) : (s.setFld a hi lo v).links = s.links := rfl
@[simp] theorem setFld_signals (s : State) (a : Nat) (hi : Nat) (lo : Nat) (v : Nat) : (s.setFld a hi lo v).signals = s.signals := rfl
@[simp] theorem setFld_arbs (s : State) (a : Nat) (hi : Nat) (lo : Nat) (v : Nat) : (s.setFld a hi lo v).arbs = s.arbs := rfl
@[simp] theorem setFld_mon (s : State) (a : Nat) (hi : Nat) (lo : Nat) (v : Nat) : (s.setFld a hi lo v).mon = s.mon := rfl
@[simp] theorem setFld_pins (s : State) (a : Nat) (hi : Nat) (lo : Nat) (v : Nat) : (s.setFld a hi lo v).pins = s.pins := rfl

@[simp] theorem bump_pending (s : State) (a : Nat) (n : Nat) : (s.bump a n).pending = s.pending := rfl
@[simp] theorem bump_clk (s : State) (a : Nat) (n : Nat) : (s.bump a n).clk = s.clk := rfl
@[simp] theorem bump_now (s : State) (a : Nat) (n : Nat) : (s.bump a n).now = s.now := rfl
@[simp] theorem bump_free (s : State) (a : Nat) (n : Nat) : (s.bump a n).free = s.free := rfl
@[simp] theorem bump_fuses (s : State) (a : Nat) (n : Nat) : (s.bump a n).fuses = s.fuses := rfl
@[simp] theorem bump_flash (s : State) (a : Nat) (n : Nat) : (s.bump a n).flash = s.flash := rfl
@[simp] theorem bump_errq (s : State) (a : Nat) (n : Nat) : (s.bump a n).errq = s.errq := rfl
@[simp] theorem bump_errOvf (s : State) (a : Nat) (n : Nat) : (s.bump a n).errOvf = s.errOvf := rfl
@[simp] theorem bump_cnt (s : State) (a : Nat) (n : Nat) : (s.bump a n).cnt = s.cnt := rfl
@[simp] theorem bump_cntHeld (s : State) (a : Nat) (n : Nat) : (s.bump a n).cntHeld = s.cntHeld := rfl
@[simp] theorem bump_cntReload (s : State) (a : Nat) (n : Nat) : (s.bump a n).cntReload = s.cntReload := rfl
@[simp] theorem bump_cntCapture (s : State) (a : Nat) (n : Nat) : (s.bump a n).cntCapture = s.cntCapture := rfl
@[simp] theorem bump_cntLevel (s : State) (a : Nat) (n : Nat) : (s.bump a n).cntLevel = s.cntLevel := rfl
@[simp] theorem bump_evs (s : State) (a : Nat) (n : Nat) : (s.bump a n).evs = s.evs := rfl
@[simp] theorem bump_mem (s : State) (a : Nat) (n : Nat) : (s.bump a n).mem = s.mem := rfl
@[simp] theorem bump_start (s : State) (a : Nat) (n : Nat) : (s.bump a n).start = s.start := rfl
@[simp] theorem bump_svc (s : State) (a : Nat) (n : Nat) : (s.bump a n).svc = s.svc := rfl
@[simp] theorem bump_tiles (s : State) (a : Nat) (n : Nat) : (s.bump a n).tiles = s.tiles := rfl
@[simp] theorem bump_disp (s : State) (a : Nat) (n : Nat) : (s.bump a n).disp = s.disp := rfl
@[simp] theorem bump_ledger (s : State) (a : Nat) (n : Nat) : (s.bump a n).ledger = s.ledger := rfl
@[simp] theorem bump_ilk (s : State) (a : Nat) (n : Nat) : (s.bump a n).ilk = s.ilk := rfl
@[simp] theorem bump_dram (s : State) (a : Nat) (n : Nat) : (s.bump a n).dram = s.dram := rfl
@[simp] theorem bump_safety (s : State) (a : Nat) (n : Nat) : (s.bump a n).safety = s.safety := rfl
@[simp] theorem bump_ports (s : State) (a : Nat) (n : Nat) : (s.bump a n).ports = s.ports := rfl
@[simp] theorem bump_convoy (s : State) (a : Nat) (n : Nat) : (s.bump a n).convoy = s.convoy := rfl
@[simp] theorem bump_sec (s : State) (a : Nat) (n : Nat) : (s.bump a n).sec = s.sec := rfl
@[simp] theorem bump_power (s : State) (a : Nat) (n : Nat) : (s.bump a n).power = s.power := rfl
@[simp] theorem bump_links (s : State) (a : Nat) (n : Nat) : (s.bump a n).links = s.links := rfl
@[simp] theorem bump_signals (s : State) (a : Nat) (n : Nat) : (s.bump a n).signals = s.signals := rfl
@[simp] theorem bump_arbs (s : State) (a : Nat) (n : Nat) : (s.bump a n).arbs = s.arbs := rfl
@[simp] theorem bump_mon (s : State) (a : Nat) (n : Nat) : (s.bump a n).mon = s.mon := rfl
@[simp] theorem bump_pins (s : State) (a : Nat) (n : Nat) : (s.bump a n).pins = s.pins := rfl

@[simp] theorem write_pending (s : State) (a : Nat) (bs : List Byte) : (s.write a bs).pending = s.pending := rfl
@[simp] theorem write_clk (s : State) (a : Nat) (bs : List Byte) : (s.write a bs).clk = s.clk := rfl
@[simp] theorem write_now (s : State) (a : Nat) (bs : List Byte) : (s.write a bs).now = s.now := rfl
@[simp] theorem write_free (s : State) (a : Nat) (bs : List Byte) : (s.write a bs).free = s.free := rfl
@[simp] theorem write_fuses (s : State) (a : Nat) (bs : List Byte) : (s.write a bs).fuses = s.fuses := rfl
@[simp] theorem write_flash (s : State) (a : Nat) (bs : List Byte) : (s.write a bs).flash = s.flash := rfl
@[simp] theorem write_regs (s : State) (a : Nat) (bs : List Byte) : (s.write a bs).regs = s.regs := rfl
@[simp] theorem write_errq (s : State) (a : Nat) (bs : List Byte) : (s.write a bs).errq = s.errq := rfl
@[simp] theorem write_errOvf (s : State) (a : Nat) (bs : List Byte) : (s.write a bs).errOvf = s.errOvf := rfl
@[simp] theorem write_cnt (s : State) (a : Nat) (bs : List Byte) : (s.write a bs).cnt = s.cnt := rfl
@[simp] theorem write_cntHeld (s : State) (a : Nat) (bs : List Byte) : (s.write a bs).cntHeld = s.cntHeld := rfl
@[simp] theorem write_cntReload (s : State) (a : Nat) (bs : List Byte) : (s.write a bs).cntReload = s.cntReload := rfl
@[simp] theorem write_cntCapture (s : State) (a : Nat) (bs : List Byte) : (s.write a bs).cntCapture = s.cntCapture := rfl
@[simp] theorem write_cntLevel (s : State) (a : Nat) (bs : List Byte) : (s.write a bs).cntLevel = s.cntLevel := rfl
@[simp] theorem write_evs (s : State) (a : Nat) (bs : List Byte) : (s.write a bs).evs = s.evs := rfl
@[simp] theorem write_start (s : State) (a : Nat) (bs : List Byte) : (s.write a bs).start = s.start := rfl
@[simp] theorem write_svc (s : State) (a : Nat) (bs : List Byte) : (s.write a bs).svc = s.svc := rfl
@[simp] theorem write_tiles (s : State) (a : Nat) (bs : List Byte) : (s.write a bs).tiles = s.tiles := rfl
@[simp] theorem write_disp (s : State) (a : Nat) (bs : List Byte) : (s.write a bs).disp = s.disp := rfl
@[simp] theorem write_ledger (s : State) (a : Nat) (bs : List Byte) : (s.write a bs).ledger = s.ledger := rfl
@[simp] theorem write_ilk (s : State) (a : Nat) (bs : List Byte) : (s.write a bs).ilk = s.ilk := rfl
@[simp] theorem write_dram (s : State) (a : Nat) (bs : List Byte) : (s.write a bs).dram = s.dram := rfl
@[simp] theorem write_safety (s : State) (a : Nat) (bs : List Byte) : (s.write a bs).safety = s.safety := rfl
@[simp] theorem write_ports (s : State) (a : Nat) (bs : List Byte) : (s.write a bs).ports = s.ports := rfl
@[simp] theorem write_convoy (s : State) (a : Nat) (bs : List Byte) : (s.write a bs).convoy = s.convoy := rfl
@[simp] theorem write_sec (s : State) (a : Nat) (bs : List Byte) : (s.write a bs).sec = s.sec := rfl
@[simp] theorem write_power (s : State) (a : Nat) (bs : List Byte) : (s.write a bs).power = s.power := rfl
@[simp] theorem write_links (s : State) (a : Nat) (bs : List Byte) : (s.write a bs).links = s.links := rfl
@[simp] theorem write_signals (s : State) (a : Nat) (bs : List Byte) : (s.write a bs).signals = s.signals := rfl
@[simp] theorem write_arbs (s : State) (a : Nat) (bs : List Byte) : (s.write a bs).arbs = s.arbs := rfl
@[simp] theorem write_mon (s : State) (a : Nat) (bs : List Byte) : (s.write a bs).mon = s.mon := rfl
@[simp] theorem write_pins (s : State) (a : Nat) (bs : List Byte) : (s.write a bs).pins = s.pins := rfl

@[simp] theorem writeNat_pending (s : State) (a : Nat) (n : Nat) (v : Nat) : (s.writeNat a n v).pending = s.pending := rfl
@[simp] theorem writeNat_clk (s : State) (a : Nat) (n : Nat) (v : Nat) : (s.writeNat a n v).clk = s.clk := rfl
@[simp] theorem writeNat_now (s : State) (a : Nat) (n : Nat) (v : Nat) : (s.writeNat a n v).now = s.now := rfl
@[simp] theorem writeNat_free (s : State) (a : Nat) (n : Nat) (v : Nat) : (s.writeNat a n v).free = s.free := rfl
@[simp] theorem writeNat_fuses (s : State) (a : Nat) (n : Nat) (v : Nat) : (s.writeNat a n v).fuses = s.fuses := rfl
@[simp] theorem writeNat_flash (s : State) (a : Nat) (n : Nat) (v : Nat) : (s.writeNat a n v).flash = s.flash := rfl
@[simp] theorem writeNat_regs (s : State) (a : Nat) (n : Nat) (v : Nat) : (s.writeNat a n v).regs = s.regs := rfl
@[simp] theorem writeNat_errq (s : State) (a : Nat) (n : Nat) (v : Nat) : (s.writeNat a n v).errq = s.errq := rfl
@[simp] theorem writeNat_errOvf (s : State) (a : Nat) (n : Nat) (v : Nat) : (s.writeNat a n v).errOvf = s.errOvf := rfl
@[simp] theorem writeNat_cnt (s : State) (a : Nat) (n : Nat) (v : Nat) : (s.writeNat a n v).cnt = s.cnt := rfl
@[simp] theorem writeNat_cntHeld (s : State) (a : Nat) (n : Nat) (v : Nat) : (s.writeNat a n v).cntHeld = s.cntHeld := rfl
@[simp] theorem writeNat_cntReload (s : State) (a : Nat) (n : Nat) (v : Nat) : (s.writeNat a n v).cntReload = s.cntReload := rfl
@[simp] theorem writeNat_cntCapture (s : State) (a : Nat) (n : Nat) (v : Nat) : (s.writeNat a n v).cntCapture = s.cntCapture := rfl
@[simp] theorem writeNat_cntLevel (s : State) (a : Nat) (n : Nat) (v : Nat) : (s.writeNat a n v).cntLevel = s.cntLevel := rfl
@[simp] theorem writeNat_evs (s : State) (a : Nat) (n : Nat) (v : Nat) : (s.writeNat a n v).evs = s.evs := rfl
@[simp] theorem writeNat_start (s : State) (a : Nat) (n : Nat) (v : Nat) : (s.writeNat a n v).start = s.start := rfl
@[simp] theorem writeNat_svc (s : State) (a : Nat) (n : Nat) (v : Nat) : (s.writeNat a n v).svc = s.svc := rfl
@[simp] theorem writeNat_tiles (s : State) (a : Nat) (n : Nat) (v : Nat) : (s.writeNat a n v).tiles = s.tiles := rfl
@[simp] theorem writeNat_disp (s : State) (a : Nat) (n : Nat) (v : Nat) : (s.writeNat a n v).disp = s.disp := rfl
@[simp] theorem writeNat_ledger (s : State) (a : Nat) (n : Nat) (v : Nat) : (s.writeNat a n v).ledger = s.ledger := rfl
@[simp] theorem writeNat_ilk (s : State) (a : Nat) (n : Nat) (v : Nat) : (s.writeNat a n v).ilk = s.ilk := rfl
@[simp] theorem writeNat_dram (s : State) (a : Nat) (n : Nat) (v : Nat) : (s.writeNat a n v).dram = s.dram := rfl
@[simp] theorem writeNat_safety (s : State) (a : Nat) (n : Nat) (v : Nat) : (s.writeNat a n v).safety = s.safety := rfl
@[simp] theorem writeNat_ports (s : State) (a : Nat) (n : Nat) (v : Nat) : (s.writeNat a n v).ports = s.ports := rfl
@[simp] theorem writeNat_convoy (s : State) (a : Nat) (n : Nat) (v : Nat) : (s.writeNat a n v).convoy = s.convoy := rfl
@[simp] theorem writeNat_sec (s : State) (a : Nat) (n : Nat) (v : Nat) : (s.writeNat a n v).sec = s.sec := rfl
@[simp] theorem writeNat_power (s : State) (a : Nat) (n : Nat) (v : Nat) : (s.writeNat a n v).power = s.power := rfl
@[simp] theorem writeNat_links (s : State) (a : Nat) (n : Nat) (v : Nat) : (s.writeNat a n v).links = s.links := rfl
@[simp] theorem writeNat_signals (s : State) (a : Nat) (n : Nat) (v : Nat) : (s.writeNat a n v).signals = s.signals := rfl
@[simp] theorem writeNat_arbs (s : State) (a : Nat) (n : Nat) (v : Nat) : (s.writeNat a n v).arbs = s.arbs := rfl
@[simp] theorem writeNat_mon (s : State) (a : Nat) (n : Nat) (v : Nat) : (s.writeNat a n v).mon = s.mon := rfl
@[simp] theorem writeNat_pins (s : State) (a : Nat) (n : Nat) (v : Nat) : (s.writeNat a n v).pins = s.pins := rfl

@[simp] theorem zero_pending (s : State) (a : Nat) (n : Nat) : (s.zero a n).pending = s.pending := rfl
@[simp] theorem zero_clk (s : State) (a : Nat) (n : Nat) : (s.zero a n).clk = s.clk := rfl
@[simp] theorem zero_now (s : State) (a : Nat) (n : Nat) : (s.zero a n).now = s.now := rfl
@[simp] theorem zero_free (s : State) (a : Nat) (n : Nat) : (s.zero a n).free = s.free := rfl
@[simp] theorem zero_fuses (s : State) (a : Nat) (n : Nat) : (s.zero a n).fuses = s.fuses := rfl
@[simp] theorem zero_flash (s : State) (a : Nat) (n : Nat) : (s.zero a n).flash = s.flash := rfl
@[simp] theorem zero_regs (s : State) (a : Nat) (n : Nat) : (s.zero a n).regs = s.regs := rfl
@[simp] theorem zero_errq (s : State) (a : Nat) (n : Nat) : (s.zero a n).errq = s.errq := rfl
@[simp] theorem zero_errOvf (s : State) (a : Nat) (n : Nat) : (s.zero a n).errOvf = s.errOvf := rfl
@[simp] theorem zero_cnt (s : State) (a : Nat) (n : Nat) : (s.zero a n).cnt = s.cnt := rfl
@[simp] theorem zero_cntHeld (s : State) (a : Nat) (n : Nat) : (s.zero a n).cntHeld = s.cntHeld := rfl
@[simp] theorem zero_cntReload (s : State) (a : Nat) (n : Nat) : (s.zero a n).cntReload = s.cntReload := rfl
@[simp] theorem zero_cntCapture (s : State) (a : Nat) (n : Nat) : (s.zero a n).cntCapture = s.cntCapture := rfl
@[simp] theorem zero_cntLevel (s : State) (a : Nat) (n : Nat) : (s.zero a n).cntLevel = s.cntLevel := rfl
@[simp] theorem zero_evs (s : State) (a : Nat) (n : Nat) : (s.zero a n).evs = s.evs := rfl
@[simp] theorem zero_start (s : State) (a : Nat) (n : Nat) : (s.zero a n).start = s.start := rfl
@[simp] theorem zero_svc (s : State) (a : Nat) (n : Nat) : (s.zero a n).svc = s.svc := rfl
@[simp] theorem zero_tiles (s : State) (a : Nat) (n : Nat) : (s.zero a n).tiles = s.tiles := rfl
@[simp] theorem zero_disp (s : State) (a : Nat) (n : Nat) : (s.zero a n).disp = s.disp := rfl
@[simp] theorem zero_ledger (s : State) (a : Nat) (n : Nat) : (s.zero a n).ledger = s.ledger := rfl
@[simp] theorem zero_ilk (s : State) (a : Nat) (n : Nat) : (s.zero a n).ilk = s.ilk := rfl
@[simp] theorem zero_dram (s : State) (a : Nat) (n : Nat) : (s.zero a n).dram = s.dram := rfl
@[simp] theorem zero_safety (s : State) (a : Nat) (n : Nat) : (s.zero a n).safety = s.safety := rfl
@[simp] theorem zero_ports (s : State) (a : Nat) (n : Nat) : (s.zero a n).ports = s.ports := rfl
@[simp] theorem zero_convoy (s : State) (a : Nat) (n : Nat) : (s.zero a n).convoy = s.convoy := rfl
@[simp] theorem zero_sec (s : State) (a : Nat) (n : Nat) : (s.zero a n).sec = s.sec := rfl
@[simp] theorem zero_power (s : State) (a : Nat) (n : Nat) : (s.zero a n).power = s.power := rfl
@[simp] theorem zero_links (s : State) (a : Nat) (n : Nat) : (s.zero a n).links = s.links := rfl
@[simp] theorem zero_signals (s : State) (a : Nat) (n : Nat) : (s.zero a n).signals = s.signals := rfl
@[simp] theorem zero_arbs (s : State) (a : Nat) (n : Nat) : (s.zero a n).arbs = s.arbs := rfl
@[simp] theorem zero_mon (s : State) (a : Nat) (n : Nat) : (s.zero a n).mon = s.mon := rfl
@[simp] theorem zero_pins (s : State) (a : Nat) (n : Nat) : (s.zero a n).pins = s.pins := rfl

@[simp] theorem setTile_pending (s : State) (t : Nat) (T : Tile) : (s.setTile t T).pending = s.pending := rfl
@[simp] theorem setTile_clk (s : State) (t : Nat) (T : Tile) : (s.setTile t T).clk = s.clk := rfl
@[simp] theorem setTile_now (s : State) (t : Nat) (T : Tile) : (s.setTile t T).now = s.now := rfl
@[simp] theorem setTile_free (s : State) (t : Nat) (T : Tile) : (s.setTile t T).free = s.free := rfl
@[simp] theorem setTile_fuses (s : State) (t : Nat) (T : Tile) : (s.setTile t T).fuses = s.fuses := rfl
@[simp] theorem setTile_flash (s : State) (t : Nat) (T : Tile) : (s.setTile t T).flash = s.flash := rfl
@[simp] theorem setTile_regs (s : State) (t : Nat) (T : Tile) : (s.setTile t T).regs = s.regs := rfl
@[simp] theorem setTile_errq (s : State) (t : Nat) (T : Tile) : (s.setTile t T).errq = s.errq := rfl
@[simp] theorem setTile_errOvf (s : State) (t : Nat) (T : Tile) : (s.setTile t T).errOvf = s.errOvf := rfl
@[simp] theorem setTile_cnt (s : State) (t : Nat) (T : Tile) : (s.setTile t T).cnt = s.cnt := rfl
@[simp] theorem setTile_cntHeld (s : State) (t : Nat) (T : Tile) : (s.setTile t T).cntHeld = s.cntHeld := rfl
@[simp] theorem setTile_cntReload (s : State) (t : Nat) (T : Tile) : (s.setTile t T).cntReload = s.cntReload := rfl
@[simp] theorem setTile_cntCapture (s : State) (t : Nat) (T : Tile) : (s.setTile t T).cntCapture = s.cntCapture := rfl
@[simp] theorem setTile_cntLevel (s : State) (t : Nat) (T : Tile) : (s.setTile t T).cntLevel = s.cntLevel := rfl
@[simp] theorem setTile_evs (s : State) (t : Nat) (T : Tile) : (s.setTile t T).evs = s.evs := rfl
@[simp] theorem setTile_mem (s : State) (t : Nat) (T : Tile) : (s.setTile t T).mem = s.mem := rfl
@[simp] theorem setTile_start (s : State) (t : Nat) (T : Tile) : (s.setTile t T).start = s.start := rfl
@[simp] theorem setTile_svc (s : State) (t : Nat) (T : Tile) : (s.setTile t T).svc = s.svc := rfl
@[simp] theorem setTile_disp (s : State) (t : Nat) (T : Tile) : (s.setTile t T).disp = s.disp := rfl
@[simp] theorem setTile_ledger (s : State) (t : Nat) (T : Tile) : (s.setTile t T).ledger = s.ledger := rfl
@[simp] theorem setTile_ilk (s : State) (t : Nat) (T : Tile) : (s.setTile t T).ilk = s.ilk := rfl
@[simp] theorem setTile_dram (s : State) (t : Nat) (T : Tile) : (s.setTile t T).dram = s.dram := rfl
@[simp] theorem setTile_safety (s : State) (t : Nat) (T : Tile) : (s.setTile t T).safety = s.safety := rfl
@[simp] theorem setTile_ports (s : State) (t : Nat) (T : Tile) : (s.setTile t T).ports = s.ports := rfl
@[simp] theorem setTile_convoy (s : State) (t : Nat) (T : Tile) : (s.setTile t T).convoy = s.convoy := rfl
@[simp] theorem setTile_sec (s : State) (t : Nat) (T : Tile) : (s.setTile t T).sec = s.sec := rfl
@[simp] theorem setTile_power (s : State) (t : Nat) (T : Tile) : (s.setTile t T).power = s.power := rfl
@[simp] theorem setTile_links (s : State) (t : Nat) (T : Tile) : (s.setTile t T).links = s.links := rfl
@[simp] theorem setTile_signals (s : State) (t : Nat) (T : Tile) : (s.setTile t T).signals = s.signals := rfl
@[simp] theorem setTile_arbs (s : State) (t : Nat) (T : Tile) : (s.setTile t T).arbs = s.arbs := rfl
@[simp] theorem setTile_mon (s : State) (t : Nat) (T : Tile) : (s.setTile t T).mon = s.mon := rfl
@[simp] theorem setTile_pins (s : State) (t : Nat) (T : Tile) : (s.setTile t T).pins = s.pins := rfl

@[simp] theorem updTile_pending (s : State) (t : Nat) (f : Tile → Tile) : (s.updTile t f).pending = s.pending := rfl
@[simp] theorem updTile_clk (s : State) (t : Nat) (f : Tile → Tile) : (s.updTile t f).clk = s.clk := rfl
@[simp] theorem updTile_now (s : State) (t : Nat) (f : Tile → Tile) : (s.updTile t f).now = s.now := rfl
@[simp] theorem updTile_free (s : State) (t : Nat) (f : Tile → Tile) : (s.updTile t f).free = s.free := rfl
@[simp] theorem updTile_fuses (s : State) (t : Nat) (f : Tile → Tile) : (s.updTile t f).fuses = s.fuses := rfl
@[simp] theorem updTile_flash (s : State) (t : Nat) (f : Tile → Tile) : (s.updTile t f).flash = s.flash := rfl
@[simp] theorem updTile_regs (s : State) (t : Nat) (f : Tile → Tile) : (s.updTile t f).regs = s.regs := rfl
@[simp] theorem updTile_errq (s : State) (t : Nat) (f : Tile → Tile) : (s.updTile t f).errq = s.errq := rfl
@[simp] theorem updTile_errOvf (s : State) (t : Nat) (f : Tile → Tile) : (s.updTile t f).errOvf = s.errOvf := rfl
@[simp] theorem updTile_cnt (s : State) (t : Nat) (f : Tile → Tile) : (s.updTile t f).cnt = s.cnt := rfl
@[simp] theorem updTile_cntHeld (s : State) (t : Nat) (f : Tile → Tile) : (s.updTile t f).cntHeld = s.cntHeld := rfl
@[simp] theorem updTile_cntReload (s : State) (t : Nat) (f : Tile → Tile) : (s.updTile t f).cntReload = s.cntReload := rfl
@[simp] theorem updTile_cntCapture (s : State) (t : Nat) (f : Tile → Tile) : (s.updTile t f).cntCapture = s.cntCapture := rfl
@[simp] theorem updTile_cntLevel (s : State) (t : Nat) (f : Tile → Tile) : (s.updTile t f).cntLevel = s.cntLevel := rfl
@[simp] theorem updTile_evs (s : State) (t : Nat) (f : Tile → Tile) : (s.updTile t f).evs = s.evs := rfl
@[simp] theorem updTile_mem (s : State) (t : Nat) (f : Tile → Tile) : (s.updTile t f).mem = s.mem := rfl
@[simp] theorem updTile_start (s : State) (t : Nat) (f : Tile → Tile) : (s.updTile t f).start = s.start := rfl
@[simp] theorem updTile_svc (s : State) (t : Nat) (f : Tile → Tile) : (s.updTile t f).svc = s.svc := rfl
@[simp] theorem updTile_disp (s : State) (t : Nat) (f : Tile → Tile) : (s.updTile t f).disp = s.disp := rfl
@[simp] theorem updTile_ledger (s : State) (t : Nat) (f : Tile → Tile) : (s.updTile t f).ledger = s.ledger := rfl
@[simp] theorem updTile_ilk (s : State) (t : Nat) (f : Tile → Tile) : (s.updTile t f).ilk = s.ilk := rfl
@[simp] theorem updTile_dram (s : State) (t : Nat) (f : Tile → Tile) : (s.updTile t f).dram = s.dram := rfl
@[simp] theorem updTile_safety (s : State) (t : Nat) (f : Tile → Tile) : (s.updTile t f).safety = s.safety := rfl
@[simp] theorem updTile_ports (s : State) (t : Nat) (f : Tile → Tile) : (s.updTile t f).ports = s.ports := rfl
@[simp] theorem updTile_convoy (s : State) (t : Nat) (f : Tile → Tile) : (s.updTile t f).convoy = s.convoy := rfl
@[simp] theorem updTile_sec (s : State) (t : Nat) (f : Tile → Tile) : (s.updTile t f).sec = s.sec := rfl
@[simp] theorem updTile_power (s : State) (t : Nat) (f : Tile → Tile) : (s.updTile t f).power = s.power := rfl
@[simp] theorem updTile_links (s : State) (t : Nat) (f : Tile → Tile) : (s.updTile t f).links = s.links := rfl
@[simp] theorem updTile_signals (s : State) (t : Nat) (f : Tile → Tile) : (s.updTile t f).signals = s.signals := rfl
@[simp] theorem updTile_arbs (s : State) (t : Nat) (f : Tile → Tile) : (s.updTile t f).arbs = s.arbs := rfl
@[simp] theorem updTile_mon (s : State) (t : Nat) (f : Tile → Tile) : (s.updTile t f).mon = s.mon := rfl
@[simp] theorem updTile_pins (s : State) (t : Nat) (f : Tile → Tile) : (s.updTile t f).pins = s.pins := rfl

@[simp] theorem updDisp_pending (s : State) (f : Dispatcher → Dispatcher) : (s.updDisp f).pending = s.pending := rfl
@[simp] theorem updDisp_clk (s : State) (f : Dispatcher → Dispatcher) : (s.updDisp f).clk = s.clk := rfl
@[simp] theorem updDisp_now (s : State) (f : Dispatcher → Dispatcher) : (s.updDisp f).now = s.now := rfl
@[simp] theorem updDisp_free (s : State) (f : Dispatcher → Dispatcher) : (s.updDisp f).free = s.free := rfl
@[simp] theorem updDisp_fuses (s : State) (f : Dispatcher → Dispatcher) : (s.updDisp f).fuses = s.fuses := rfl
@[simp] theorem updDisp_flash (s : State) (f : Dispatcher → Dispatcher) : (s.updDisp f).flash = s.flash := rfl
@[simp] theorem updDisp_regs (s : State) (f : Dispatcher → Dispatcher) : (s.updDisp f).regs = s.regs := rfl
@[simp] theorem updDisp_errq (s : State) (f : Dispatcher → Dispatcher) : (s.updDisp f).errq = s.errq := rfl
@[simp] theorem updDisp_errOvf (s : State) (f : Dispatcher → Dispatcher) : (s.updDisp f).errOvf = s.errOvf := rfl
@[simp] theorem updDisp_cnt (s : State) (f : Dispatcher → Dispatcher) : (s.updDisp f).cnt = s.cnt := rfl
@[simp] theorem updDisp_cntHeld (s : State) (f : Dispatcher → Dispatcher) : (s.updDisp f).cntHeld = s.cntHeld := rfl
@[simp] theorem updDisp_cntReload (s : State) (f : Dispatcher → Dispatcher) : (s.updDisp f).cntReload = s.cntReload := rfl
@[simp] theorem updDisp_cntCapture (s : State) (f : Dispatcher → Dispatcher) : (s.updDisp f).cntCapture = s.cntCapture := rfl
@[simp] theorem updDisp_cntLevel (s : State) (f : Dispatcher → Dispatcher) : (s.updDisp f).cntLevel = s.cntLevel := rfl
@[simp] theorem updDisp_evs (s : State) (f : Dispatcher → Dispatcher) : (s.updDisp f).evs = s.evs := rfl
@[simp] theorem updDisp_mem (s : State) (f : Dispatcher → Dispatcher) : (s.updDisp f).mem = s.mem := rfl
@[simp] theorem updDisp_start (s : State) (f : Dispatcher → Dispatcher) : (s.updDisp f).start = s.start := rfl
@[simp] theorem updDisp_svc (s : State) (f : Dispatcher → Dispatcher) : (s.updDisp f).svc = s.svc := rfl
@[simp] theorem updDisp_tiles (s : State) (f : Dispatcher → Dispatcher) : (s.updDisp f).tiles = s.tiles := rfl
@[simp] theorem updDisp_ledger (s : State) (f : Dispatcher → Dispatcher) : (s.updDisp f).ledger = s.ledger := rfl
@[simp] theorem updDisp_ilk (s : State) (f : Dispatcher → Dispatcher) : (s.updDisp f).ilk = s.ilk := rfl
@[simp] theorem updDisp_dram (s : State) (f : Dispatcher → Dispatcher) : (s.updDisp f).dram = s.dram := rfl
@[simp] theorem updDisp_safety (s : State) (f : Dispatcher → Dispatcher) : (s.updDisp f).safety = s.safety := rfl
@[simp] theorem updDisp_ports (s : State) (f : Dispatcher → Dispatcher) : (s.updDisp f).ports = s.ports := rfl
@[simp] theorem updDisp_convoy (s : State) (f : Dispatcher → Dispatcher) : (s.updDisp f).convoy = s.convoy := rfl
@[simp] theorem updDisp_sec (s : State) (f : Dispatcher → Dispatcher) : (s.updDisp f).sec = s.sec := rfl
@[simp] theorem updDisp_power (s : State) (f : Dispatcher → Dispatcher) : (s.updDisp f).power = s.power := rfl
@[simp] theorem updDisp_links (s : State) (f : Dispatcher → Dispatcher) : (s.updDisp f).links = s.links := rfl
@[simp] theorem updDisp_signals (s : State) (f : Dispatcher → Dispatcher) : (s.updDisp f).signals = s.signals := rfl
@[simp] theorem updDisp_arbs (s : State) (f : Dispatcher → Dispatcher) : (s.updDisp f).arbs = s.arbs := rfl
@[simp] theorem updDisp_mon (s : State) (f : Dispatcher → Dispatcher) : (s.updDisp f).mon = s.mon := rfl
@[simp] theorem updDisp_pins (s : State) (f : Dispatcher → Dispatcher) : (s.updDisp f).pins = s.pins := rfl

@[simp] theorem setPort_pending (s : State) (p : Nat) (P : Port) : (s.setPort p P).pending = s.pending := rfl
@[simp] theorem setPort_clk (s : State) (p : Nat) (P : Port) : (s.setPort p P).clk = s.clk := rfl
@[simp] theorem setPort_now (s : State) (p : Nat) (P : Port) : (s.setPort p P).now = s.now := rfl
@[simp] theorem setPort_free (s : State) (p : Nat) (P : Port) : (s.setPort p P).free = s.free := rfl
@[simp] theorem setPort_fuses (s : State) (p : Nat) (P : Port) : (s.setPort p P).fuses = s.fuses := rfl
@[simp] theorem setPort_flash (s : State) (p : Nat) (P : Port) : (s.setPort p P).flash = s.flash := rfl
@[simp] theorem setPort_regs (s : State) (p : Nat) (P : Port) : (s.setPort p P).regs = s.regs := rfl
@[simp] theorem setPort_errq (s : State) (p : Nat) (P : Port) : (s.setPort p P).errq = s.errq := rfl
@[simp] theorem setPort_errOvf (s : State) (p : Nat) (P : Port) : (s.setPort p P).errOvf = s.errOvf := rfl
@[simp] theorem setPort_cnt (s : State) (p : Nat) (P : Port) : (s.setPort p P).cnt = s.cnt := rfl
@[simp] theorem setPort_cntHeld (s : State) (p : Nat) (P : Port) : (s.setPort p P).cntHeld = s.cntHeld := rfl
@[simp] theorem setPort_cntReload (s : State) (p : Nat) (P : Port) : (s.setPort p P).cntReload = s.cntReload := rfl
@[simp] theorem setPort_cntCapture (s : State) (p : Nat) (P : Port) : (s.setPort p P).cntCapture = s.cntCapture := rfl
@[simp] theorem setPort_cntLevel (s : State) (p : Nat) (P : Port) : (s.setPort p P).cntLevel = s.cntLevel := rfl
@[simp] theorem setPort_evs (s : State) (p : Nat) (P : Port) : (s.setPort p P).evs = s.evs := rfl
@[simp] theorem setPort_mem (s : State) (p : Nat) (P : Port) : (s.setPort p P).mem = s.mem := rfl
@[simp] theorem setPort_start (s : State) (p : Nat) (P : Port) : (s.setPort p P).start = s.start := rfl
@[simp] theorem setPort_svc (s : State) (p : Nat) (P : Port) : (s.setPort p P).svc = s.svc := rfl
@[simp] theorem setPort_tiles (s : State) (p : Nat) (P : Port) : (s.setPort p P).tiles = s.tiles := rfl
@[simp] theorem setPort_disp (s : State) (p : Nat) (P : Port) : (s.setPort p P).disp = s.disp := rfl
@[simp] theorem setPort_ledger (s : State) (p : Nat) (P : Port) : (s.setPort p P).ledger = s.ledger := rfl
@[simp] theorem setPort_ilk (s : State) (p : Nat) (P : Port) : (s.setPort p P).ilk = s.ilk := rfl
@[simp] theorem setPort_dram (s : State) (p : Nat) (P : Port) : (s.setPort p P).dram = s.dram := rfl
@[simp] theorem setPort_safety (s : State) (p : Nat) (P : Port) : (s.setPort p P).safety = s.safety := rfl
@[simp] theorem setPort_convoy (s : State) (p : Nat) (P : Port) : (s.setPort p P).convoy = s.convoy := rfl
@[simp] theorem setPort_sec (s : State) (p : Nat) (P : Port) : (s.setPort p P).sec = s.sec := rfl
@[simp] theorem setPort_power (s : State) (p : Nat) (P : Port) : (s.setPort p P).power = s.power := rfl
@[simp] theorem setPort_links (s : State) (p : Nat) (P : Port) : (s.setPort p P).links = s.links := rfl
@[simp] theorem setPort_signals (s : State) (p : Nat) (P : Port) : (s.setPort p P).signals = s.signals := rfl
@[simp] theorem setPort_arbs (s : State) (p : Nat) (P : Port) : (s.setPort p P).arbs = s.arbs := rfl
@[simp] theorem setPort_mon (s : State) (p : Nat) (P : Port) : (s.setPort p P).mon = s.mon := rfl
@[simp] theorem setPort_pins (s : State) (p : Nat) (P : Port) : (s.setPort p P).pins = s.pins := rfl

@[simp] theorem updPort_pending (s : State) (p : Nat) (f : Port → Port) : (s.updPort p f).pending = s.pending := rfl
@[simp] theorem updPort_clk (s : State) (p : Nat) (f : Port → Port) : (s.updPort p f).clk = s.clk := rfl
@[simp] theorem updPort_now (s : State) (p : Nat) (f : Port → Port) : (s.updPort p f).now = s.now := rfl
@[simp] theorem updPort_free (s : State) (p : Nat) (f : Port → Port) : (s.updPort p f).free = s.free := rfl
@[simp] theorem updPort_fuses (s : State) (p : Nat) (f : Port → Port) : (s.updPort p f).fuses = s.fuses := rfl
@[simp] theorem updPort_flash (s : State) (p : Nat) (f : Port → Port) : (s.updPort p f).flash = s.flash := rfl
@[simp] theorem updPort_regs (s : State) (p : Nat) (f : Port → Port) : (s.updPort p f).regs = s.regs := rfl
@[simp] theorem updPort_errq (s : State) (p : Nat) (f : Port → Port) : (s.updPort p f).errq = s.errq := rfl
@[simp] theorem updPort_errOvf (s : State) (p : Nat) (f : Port → Port) : (s.updPort p f).errOvf = s.errOvf := rfl
@[simp] theorem updPort_cnt (s : State) (p : Nat) (f : Port → Port) : (s.updPort p f).cnt = s.cnt := rfl
@[simp] theorem updPort_cntHeld (s : State) (p : Nat) (f : Port → Port) : (s.updPort p f).cntHeld = s.cntHeld := rfl
@[simp] theorem updPort_cntReload (s : State) (p : Nat) (f : Port → Port) : (s.updPort p f).cntReload = s.cntReload := rfl
@[simp] theorem updPort_cntCapture (s : State) (p : Nat) (f : Port → Port) : (s.updPort p f).cntCapture = s.cntCapture := rfl
@[simp] theorem updPort_cntLevel (s : State) (p : Nat) (f : Port → Port) : (s.updPort p f).cntLevel = s.cntLevel := rfl
@[simp] theorem updPort_evs (s : State) (p : Nat) (f : Port → Port) : (s.updPort p f).evs = s.evs := rfl
@[simp] theorem updPort_mem (s : State) (p : Nat) (f : Port → Port) : (s.updPort p f).mem = s.mem := rfl
@[simp] theorem updPort_start (s : State) (p : Nat) (f : Port → Port) : (s.updPort p f).start = s.start := rfl
@[simp] theorem updPort_svc (s : State) (p : Nat) (f : Port → Port) : (s.updPort p f).svc = s.svc := rfl
@[simp] theorem updPort_tiles (s : State) (p : Nat) (f : Port → Port) : (s.updPort p f).tiles = s.tiles := rfl
@[simp] theorem updPort_disp (s : State) (p : Nat) (f : Port → Port) : (s.updPort p f).disp = s.disp := rfl
@[simp] theorem updPort_ledger (s : State) (p : Nat) (f : Port → Port) : (s.updPort p f).ledger = s.ledger := rfl
@[simp] theorem updPort_ilk (s : State) (p : Nat) (f : Port → Port) : (s.updPort p f).ilk = s.ilk := rfl
@[simp] theorem updPort_dram (s : State) (p : Nat) (f : Port → Port) : (s.updPort p f).dram = s.dram := rfl
@[simp] theorem updPort_safety (s : State) (p : Nat) (f : Port → Port) : (s.updPort p f).safety = s.safety := rfl
@[simp] theorem updPort_convoy (s : State) (p : Nat) (f : Port → Port) : (s.updPort p f).convoy = s.convoy := rfl
@[simp] theorem updPort_sec (s : State) (p : Nat) (f : Port → Port) : (s.updPort p f).sec = s.sec := rfl
@[simp] theorem updPort_power (s : State) (p : Nat) (f : Port → Port) : (s.updPort p f).power = s.power := rfl
@[simp] theorem updPort_links (s : State) (p : Nat) (f : Port → Port) : (s.updPort p f).links = s.links := rfl
@[simp] theorem updPort_signals (s : State) (p : Nat) (f : Port → Port) : (s.updPort p f).signals = s.signals := rfl
@[simp] theorem updPort_arbs (s : State) (p : Nat) (f : Port → Port) : (s.updPort p f).arbs = s.arbs := rfl
@[simp] theorem updPort_mon (s : State) (p : Nat) (f : Port → Port) : (s.updPort p f).mon = s.mon := rfl
@[simp] theorem updPort_pins (s : State) (p : Nat) (f : Port → Port) : (s.updPort p f).pins = s.pins := rfl

@[simp] theorem updSec_pending (s : State) (f : Security → Security) : (s.updSec f).pending = s.pending := rfl
@[simp] theorem updSec_clk (s : State) (f : Security → Security) : (s.updSec f).clk = s.clk := rfl
@[simp] theorem updSec_now (s : State) (f : Security → Security) : (s.updSec f).now = s.now := rfl
@[simp] theorem updSec_free (s : State) (f : Security → Security) : (s.updSec f).free = s.free := rfl
@[simp] theorem updSec_fuses (s : State) (f : Security → Security) : (s.updSec f).fuses = s.fuses := rfl
@[simp] theorem updSec_flash (s : State) (f : Security → Security) : (s.updSec f).flash = s.flash := rfl
@[simp] theorem updSec_regs (s : State) (f : Security → Security) : (s.updSec f).regs = s.regs := rfl
@[simp] theorem updSec_errq (s : State) (f : Security → Security) : (s.updSec f).errq = s.errq := rfl
@[simp] theorem updSec_errOvf (s : State) (f : Security → Security) : (s.updSec f).errOvf = s.errOvf := rfl
@[simp] theorem updSec_cnt (s : State) (f : Security → Security) : (s.updSec f).cnt = s.cnt := rfl
@[simp] theorem updSec_cntHeld (s : State) (f : Security → Security) : (s.updSec f).cntHeld = s.cntHeld := rfl
@[simp] theorem updSec_cntReload (s : State) (f : Security → Security) : (s.updSec f).cntReload = s.cntReload := rfl
@[simp] theorem updSec_cntCapture (s : State) (f : Security → Security) : (s.updSec f).cntCapture = s.cntCapture := rfl
@[simp] theorem updSec_cntLevel (s : State) (f : Security → Security) : (s.updSec f).cntLevel = s.cntLevel := rfl
@[simp] theorem updSec_evs (s : State) (f : Security → Security) : (s.updSec f).evs = s.evs := rfl
@[simp] theorem updSec_mem (s : State) (f : Security → Security) : (s.updSec f).mem = s.mem := rfl
@[simp] theorem updSec_start (s : State) (f : Security → Security) : (s.updSec f).start = s.start := rfl
@[simp] theorem updSec_svc (s : State) (f : Security → Security) : (s.updSec f).svc = s.svc := rfl
@[simp] theorem updSec_tiles (s : State) (f : Security → Security) : (s.updSec f).tiles = s.tiles := rfl
@[simp] theorem updSec_disp (s : State) (f : Security → Security) : (s.updSec f).disp = s.disp := rfl
@[simp] theorem updSec_ledger (s : State) (f : Security → Security) : (s.updSec f).ledger = s.ledger := rfl
@[simp] theorem updSec_ilk (s : State) (f : Security → Security) : (s.updSec f).ilk = s.ilk := rfl
@[simp] theorem updSec_dram (s : State) (f : Security → Security) : (s.updSec f).dram = s.dram := rfl
@[simp] theorem updSec_safety (s : State) (f : Security → Security) : (s.updSec f).safety = s.safety := rfl
@[simp] theorem updSec_ports (s : State) (f : Security → Security) : (s.updSec f).ports = s.ports := rfl
@[simp] theorem updSec_convoy (s : State) (f : Security → Security) : (s.updSec f).convoy = s.convoy := rfl
@[simp] theorem updSec_power (s : State) (f : Security → Security) : (s.updSec f).power = s.power := rfl
@[simp] theorem updSec_links (s : State) (f : Security → Security) : (s.updSec f).links = s.links := rfl
@[simp] theorem updSec_signals (s : State) (f : Security → Security) : (s.updSec f).signals = s.signals := rfl
@[simp] theorem updSec_arbs (s : State) (f : Security → Security) : (s.updSec f).arbs = s.arbs := rfl
@[simp] theorem updSec_mon (s : State) (f : Security → Security) : (s.updSec f).mon = s.mon := rfl
@[simp] theorem updSec_pins (s : State) (f : Security → Security) : (s.updSec f).pins = s.pins := rfl

@[simp] theorem updIlk_pending (s : State) (f : Ilk → Ilk) : (s.updIlk f).pending = s.pending := rfl
@[simp] theorem updIlk_clk (s : State) (f : Ilk → Ilk) : (s.updIlk f).clk = s.clk := rfl
@[simp] theorem updIlk_now (s : State) (f : Ilk → Ilk) : (s.updIlk f).now = s.now := rfl
@[simp] theorem updIlk_free (s : State) (f : Ilk → Ilk) : (s.updIlk f).free = s.free := rfl
@[simp] theorem updIlk_fuses (s : State) (f : Ilk → Ilk) : (s.updIlk f).fuses = s.fuses := rfl
@[simp] theorem updIlk_flash (s : State) (f : Ilk → Ilk) : (s.updIlk f).flash = s.flash := rfl
@[simp] theorem updIlk_regs (s : State) (f : Ilk → Ilk) : (s.updIlk f).regs = s.regs := rfl
@[simp] theorem updIlk_errq (s : State) (f : Ilk → Ilk) : (s.updIlk f).errq = s.errq := rfl
@[simp] theorem updIlk_errOvf (s : State) (f : Ilk → Ilk) : (s.updIlk f).errOvf = s.errOvf := rfl
@[simp] theorem updIlk_cnt (s : State) (f : Ilk → Ilk) : (s.updIlk f).cnt = s.cnt := rfl
@[simp] theorem updIlk_cntHeld (s : State) (f : Ilk → Ilk) : (s.updIlk f).cntHeld = s.cntHeld := rfl
@[simp] theorem updIlk_cntReload (s : State) (f : Ilk → Ilk) : (s.updIlk f).cntReload = s.cntReload := rfl
@[simp] theorem updIlk_cntCapture (s : State) (f : Ilk → Ilk) : (s.updIlk f).cntCapture = s.cntCapture := rfl
@[simp] theorem updIlk_cntLevel (s : State) (f : Ilk → Ilk) : (s.updIlk f).cntLevel = s.cntLevel := rfl
@[simp] theorem updIlk_evs (s : State) (f : Ilk → Ilk) : (s.updIlk f).evs = s.evs := rfl
@[simp] theorem updIlk_mem (s : State) (f : Ilk → Ilk) : (s.updIlk f).mem = s.mem := rfl
@[simp] theorem updIlk_start (s : State) (f : Ilk → Ilk) : (s.updIlk f).start = s.start := rfl
@[simp] theorem updIlk_svc (s : State) (f : Ilk → Ilk) : (s.updIlk f).svc = s.svc := rfl
@[simp] theorem updIlk_tiles (s : State) (f : Ilk → Ilk) : (s.updIlk f).tiles = s.tiles := rfl
@[simp] theorem updIlk_disp (s : State) (f : Ilk → Ilk) : (s.updIlk f).disp = s.disp := rfl
@[simp] theorem updIlk_ledger (s : State) (f : Ilk → Ilk) : (s.updIlk f).ledger = s.ledger := rfl
@[simp] theorem updIlk_dram (s : State) (f : Ilk → Ilk) : (s.updIlk f).dram = s.dram := rfl
@[simp] theorem updIlk_safety (s : State) (f : Ilk → Ilk) : (s.updIlk f).safety = s.safety := rfl
@[simp] theorem updIlk_ports (s : State) (f : Ilk → Ilk) : (s.updIlk f).ports = s.ports := rfl
@[simp] theorem updIlk_convoy (s : State) (f : Ilk → Ilk) : (s.updIlk f).convoy = s.convoy := rfl
@[simp] theorem updIlk_sec (s : State) (f : Ilk → Ilk) : (s.updIlk f).sec = s.sec := rfl
@[simp] theorem updIlk_power (s : State) (f : Ilk → Ilk) : (s.updIlk f).power = s.power := rfl
@[simp] theorem updIlk_links (s : State) (f : Ilk → Ilk) : (s.updIlk f).links = s.links := rfl
@[simp] theorem updIlk_signals (s : State) (f : Ilk → Ilk) : (s.updIlk f).signals = s.signals := rfl
@[simp] theorem updIlk_arbs (s : State) (f : Ilk → Ilk) : (s.updIlk f).arbs = s.arbs := rfl
@[simp] theorem updIlk_mon (s : State) (f : Ilk → Ilk) : (s.updIlk f).mon = s.mon := rfl
@[simp] theorem updIlk_pins (s : State) (f : Ilk → Ilk) : (s.updIlk f).pins = s.pins := rfl

@[simp] theorem updMon_pending (s : State) (f : Monitor → Monitor) : (s.updMon f).pending = s.pending := rfl
@[simp] theorem updMon_clk (s : State) (f : Monitor → Monitor) : (s.updMon f).clk = s.clk := rfl
@[simp] theorem updMon_now (s : State) (f : Monitor → Monitor) : (s.updMon f).now = s.now := rfl
@[simp] theorem updMon_free (s : State) (f : Monitor → Monitor) : (s.updMon f).free = s.free := rfl
@[simp] theorem updMon_fuses (s : State) (f : Monitor → Monitor) : (s.updMon f).fuses = s.fuses := rfl
@[simp] theorem updMon_flash (s : State) (f : Monitor → Monitor) : (s.updMon f).flash = s.flash := rfl
@[simp] theorem updMon_regs (s : State) (f : Monitor → Monitor) : (s.updMon f).regs = s.regs := rfl
@[simp] theorem updMon_errq (s : State) (f : Monitor → Monitor) : (s.updMon f).errq = s.errq := rfl
@[simp] theorem updMon_errOvf (s : State) (f : Monitor → Monitor) : (s.updMon f).errOvf = s.errOvf := rfl
@[simp] theorem updMon_cnt (s : State) (f : Monitor → Monitor) : (s.updMon f).cnt = s.cnt := rfl
@[simp] theorem updMon_cntHeld (s : State) (f : Monitor → Monitor) : (s.updMon f).cntHeld = s.cntHeld := rfl
@[simp] theorem updMon_cntReload (s : State) (f : Monitor → Monitor) : (s.updMon f).cntReload = s.cntReload := rfl
@[simp] theorem updMon_cntCapture (s : State) (f : Monitor → Monitor) : (s.updMon f).cntCapture = s.cntCapture := rfl
@[simp] theorem updMon_cntLevel (s : State) (f : Monitor → Monitor) : (s.updMon f).cntLevel = s.cntLevel := rfl
@[simp] theorem updMon_evs (s : State) (f : Monitor → Monitor) : (s.updMon f).evs = s.evs := rfl
@[simp] theorem updMon_mem (s : State) (f : Monitor → Monitor) : (s.updMon f).mem = s.mem := rfl
@[simp] theorem updMon_start (s : State) (f : Monitor → Monitor) : (s.updMon f).start = s.start := rfl
@[simp] theorem updMon_svc (s : State) (f : Monitor → Monitor) : (s.updMon f).svc = s.svc := rfl
@[simp] theorem updMon_tiles (s : State) (f : Monitor → Monitor) : (s.updMon f).tiles = s.tiles := rfl
@[simp] theorem updMon_disp (s : State) (f : Monitor → Monitor) : (s.updMon f).disp = s.disp := rfl
@[simp] theorem updMon_ledger (s : State) (f : Monitor → Monitor) : (s.updMon f).ledger = s.ledger := rfl
@[simp] theorem updMon_ilk (s : State) (f : Monitor → Monitor) : (s.updMon f).ilk = s.ilk := rfl
@[simp] theorem updMon_dram (s : State) (f : Monitor → Monitor) : (s.updMon f).dram = s.dram := rfl
@[simp] theorem updMon_safety (s : State) (f : Monitor → Monitor) : (s.updMon f).safety = s.safety := rfl
@[simp] theorem updMon_ports (s : State) (f : Monitor → Monitor) : (s.updMon f).ports = s.ports := rfl
@[simp] theorem updMon_convoy (s : State) (f : Monitor → Monitor) : (s.updMon f).convoy = s.convoy := rfl
@[simp] theorem updMon_sec (s : State) (f : Monitor → Monitor) : (s.updMon f).sec = s.sec := rfl
@[simp] theorem updMon_power (s : State) (f : Monitor → Monitor) : (s.updMon f).power = s.power := rfl
@[simp] theorem updMon_links (s : State) (f : Monitor → Monitor) : (s.updMon f).links = s.links := rfl
@[simp] theorem updMon_signals (s : State) (f : Monitor → Monitor) : (s.updMon f).signals = s.signals := rfl
@[simp] theorem updMon_arbs (s : State) (f : Monitor → Monitor) : (s.updMon f).arbs = s.arbs := rfl
@[simp] theorem updMon_pins (s : State) (f : Monitor → Monitor) : (s.updMon f).pins = s.pins := rfl

@[simp] theorem updConvoy_pending (s : State) (f : Convoy → Convoy) : (s.updConvoy f).pending = s.pending := rfl
@[simp] theorem updConvoy_clk (s : State) (f : Convoy → Convoy) : (s.updConvoy f).clk = s.clk := rfl
@[simp] theorem updConvoy_now (s : State) (f : Convoy → Convoy) : (s.updConvoy f).now = s.now := rfl
@[simp] theorem updConvoy_free (s : State) (f : Convoy → Convoy) : (s.updConvoy f).free = s.free := rfl
@[simp] theorem updConvoy_fuses (s : State) (f : Convoy → Convoy) : (s.updConvoy f).fuses = s.fuses := rfl
@[simp] theorem updConvoy_flash (s : State) (f : Convoy → Convoy) : (s.updConvoy f).flash = s.flash := rfl
@[simp] theorem updConvoy_regs (s : State) (f : Convoy → Convoy) : (s.updConvoy f).regs = s.regs := rfl
@[simp] theorem updConvoy_errq (s : State) (f : Convoy → Convoy) : (s.updConvoy f).errq = s.errq := rfl
@[simp] theorem updConvoy_errOvf (s : State) (f : Convoy → Convoy) : (s.updConvoy f).errOvf = s.errOvf := rfl
@[simp] theorem updConvoy_cnt (s : State) (f : Convoy → Convoy) : (s.updConvoy f).cnt = s.cnt := rfl
@[simp] theorem updConvoy_cntHeld (s : State) (f : Convoy → Convoy) : (s.updConvoy f).cntHeld = s.cntHeld := rfl
@[simp] theorem updConvoy_cntReload (s : State) (f : Convoy → Convoy) : (s.updConvoy f).cntReload = s.cntReload := rfl
@[simp] theorem updConvoy_cntCapture (s : State) (f : Convoy → Convoy) : (s.updConvoy f).cntCapture = s.cntCapture := rfl
@[simp] theorem updConvoy_cntLevel (s : State) (f : Convoy → Convoy) : (s.updConvoy f).cntLevel = s.cntLevel := rfl
@[simp] theorem updConvoy_evs (s : State) (f : Convoy → Convoy) : (s.updConvoy f).evs = s.evs := rfl
@[simp] theorem updConvoy_mem (s : State) (f : Convoy → Convoy) : (s.updConvoy f).mem = s.mem := rfl
@[simp] theorem updConvoy_start (s : State) (f : Convoy → Convoy) : (s.updConvoy f).start = s.start := rfl
@[simp] theorem updConvoy_svc (s : State) (f : Convoy → Convoy) : (s.updConvoy f).svc = s.svc := rfl
@[simp] theorem updConvoy_tiles (s : State) (f : Convoy → Convoy) : (s.updConvoy f).tiles = s.tiles := rfl
@[simp] theorem updConvoy_disp (s : State) (f : Convoy → Convoy) : (s.updConvoy f).disp = s.disp := rfl
@[simp] theorem updConvoy_ledger (s : State) (f : Convoy → Convoy) : (s.updConvoy f).ledger = s.ledger := rfl
@[simp] theorem updConvoy_ilk (s : State) (f : Convoy → Convoy) : (s.updConvoy f).ilk = s.ilk := rfl
@[simp] theorem updConvoy_dram (s : State) (f : Convoy → Convoy) : (s.updConvoy f).dram = s.dram := rfl
@[simp] theorem updConvoy_safety (s : State) (f : Convoy → Convoy) : (s.updConvoy f).safety = s.safety := rfl
@[simp] theorem updConvoy_ports (s : State) (f : Convoy → Convoy) : (s.updConvoy f).ports = s.ports := rfl
@[simp] theorem updConvoy_sec (s : State) (f : Convoy → Convoy) : (s.updConvoy f).sec = s.sec := rfl
@[simp] theorem updConvoy_power (s : State) (f : Convoy → Convoy) : (s.updConvoy f).power = s.power := rfl
@[simp] theorem updConvoy_links (s : State) (f : Convoy → Convoy) : (s.updConvoy f).links = s.links := rfl
@[simp] theorem updConvoy_signals (s : State) (f : Convoy → Convoy) : (s.updConvoy f).signals = s.signals := rfl
@[simp] theorem updConvoy_arbs (s : State) (f : Convoy → Convoy) : (s.updConvoy f).arbs = s.arbs := rfl
@[simp] theorem updConvoy_mon (s : State) (f : Convoy → Convoy) : (s.updConvoy f).mon = s.mon := rfl
@[simp] theorem updConvoy_pins (s : State) (f : Convoy → Convoy) : (s.updConvoy f).pins = s.pins := rfl

@[simp] theorem setPeer_pending (s : State) (seat : Nat) (p : Peer) : (s.setPeer seat p).pending = s.pending := rfl
@[simp] theorem setPeer_clk (s : State) (seat : Nat) (p : Peer) : (s.setPeer seat p).clk = s.clk := rfl
@[simp] theorem setPeer_now (s : State) (seat : Nat) (p : Peer) : (s.setPeer seat p).now = s.now := rfl
@[simp] theorem setPeer_free (s : State) (seat : Nat) (p : Peer) : (s.setPeer seat p).free = s.free := rfl
@[simp] theorem setPeer_fuses (s : State) (seat : Nat) (p : Peer) : (s.setPeer seat p).fuses = s.fuses := rfl
@[simp] theorem setPeer_flash (s : State) (seat : Nat) (p : Peer) : (s.setPeer seat p).flash = s.flash := rfl
@[simp] theorem setPeer_regs (s : State) (seat : Nat) (p : Peer) : (s.setPeer seat p).regs = s.regs := rfl
@[simp] theorem setPeer_errq (s : State) (seat : Nat) (p : Peer) : (s.setPeer seat p).errq = s.errq := rfl
@[simp] theorem setPeer_errOvf (s : State) (seat : Nat) (p : Peer) : (s.setPeer seat p).errOvf = s.errOvf := rfl
@[simp] theorem setPeer_cnt (s : State) (seat : Nat) (p : Peer) : (s.setPeer seat p).cnt = s.cnt := rfl
@[simp] theorem setPeer_cntHeld (s : State) (seat : Nat) (p : Peer) : (s.setPeer seat p).cntHeld = s.cntHeld := rfl
@[simp] theorem setPeer_cntReload (s : State) (seat : Nat) (p : Peer) : (s.setPeer seat p).cntReload = s.cntReload := rfl
@[simp] theorem setPeer_cntCapture (s : State) (seat : Nat) (p : Peer) : (s.setPeer seat p).cntCapture = s.cntCapture := rfl
@[simp] theorem setPeer_cntLevel (s : State) (seat : Nat) (p : Peer) : (s.setPeer seat p).cntLevel = s.cntLevel := rfl
@[simp] theorem setPeer_evs (s : State) (seat : Nat) (p : Peer) : (s.setPeer seat p).evs = s.evs := rfl
@[simp] theorem setPeer_mem (s : State) (seat : Nat) (p : Peer) : (s.setPeer seat p).mem = s.mem := rfl
@[simp] theorem setPeer_start (s : State) (seat : Nat) (p : Peer) : (s.setPeer seat p).start = s.start := rfl
@[simp] theorem setPeer_svc (s : State) (seat : Nat) (p : Peer) : (s.setPeer seat p).svc = s.svc := rfl
@[simp] theorem setPeer_tiles (s : State) (seat : Nat) (p : Peer) : (s.setPeer seat p).tiles = s.tiles := rfl
@[simp] theorem setPeer_disp (s : State) (seat : Nat) (p : Peer) : (s.setPeer seat p).disp = s.disp := rfl
@[simp] theorem setPeer_ledger (s : State) (seat : Nat) (p : Peer) : (s.setPeer seat p).ledger = s.ledger := rfl
@[simp] theorem setPeer_ilk (s : State) (seat : Nat) (p : Peer) : (s.setPeer seat p).ilk = s.ilk := rfl
@[simp] theorem setPeer_dram (s : State) (seat : Nat) (p : Peer) : (s.setPeer seat p).dram = s.dram := rfl
@[simp] theorem setPeer_safety (s : State) (seat : Nat) (p : Peer) : (s.setPeer seat p).safety = s.safety := rfl
@[simp] theorem setPeer_ports (s : State) (seat : Nat) (p : Peer) : (s.setPeer seat p).ports = s.ports := rfl
@[simp] theorem setPeer_sec (s : State) (seat : Nat) (p : Peer) : (s.setPeer seat p).sec = s.sec := rfl
@[simp] theorem setPeer_power (s : State) (seat : Nat) (p : Peer) : (s.setPeer seat p).power = s.power := rfl
@[simp] theorem setPeer_links (s : State) (seat : Nat) (p : Peer) : (s.setPeer seat p).links = s.links := rfl
@[simp] theorem setPeer_signals (s : State) (seat : Nat) (p : Peer) : (s.setPeer seat p).signals = s.signals := rfl
@[simp] theorem setPeer_arbs (s : State) (seat : Nat) (p : Peer) : (s.setPeer seat p).arbs = s.arbs := rfl
@[simp] theorem setPeer_mon (s : State) (seat : Nat) (p : Peer) : (s.setPeer seat p).mon = s.mon := rfl
@[simp] theorem setPeer_pins (s : State) (seat : Nat) (p : Peer) : (s.setPeer seat p).pins = s.pins := rfl

@[simp] theorem say_pending (s : State) (m : Sent) : (s.say m).pending = s.pending := rfl
@[simp] theorem say_clk (s : State) (m : Sent) : (s.say m).clk = s.clk := rfl
@[simp] theorem say_now (s : State) (m : Sent) : (s.say m).now = s.now := rfl
@[simp] theorem say_free (s : State) (m : Sent) : (s.say m).free = s.free := rfl
@[simp] theorem say_fuses (s : State) (m : Sent) : (s.say m).fuses = s.fuses := rfl
@[simp] theorem say_flash (s : State) (m : Sent) : (s.say m).flash = s.flash := rfl
@[simp] theorem say_regs (s : State) (m : Sent) : (s.say m).regs = s.regs := rfl
@[simp] theorem say_errq (s : State) (m : Sent) : (s.say m).errq = s.errq := rfl
@[simp] theorem say_errOvf (s : State) (m : Sent) : (s.say m).errOvf = s.errOvf := rfl
@[simp] theorem say_cnt (s : State) (m : Sent) : (s.say m).cnt = s.cnt := rfl
@[simp] theorem say_cntHeld (s : State) (m : Sent) : (s.say m).cntHeld = s.cntHeld := rfl
@[simp] theorem say_cntReload (s : State) (m : Sent) : (s.say m).cntReload = s.cntReload := rfl
@[simp] theorem say_cntCapture (s : State) (m : Sent) : (s.say m).cntCapture = s.cntCapture := rfl
@[simp] theorem say_cntLevel (s : State) (m : Sent) : (s.say m).cntLevel = s.cntLevel := rfl
@[simp] theorem say_evs (s : State) (m : Sent) : (s.say m).evs = s.evs := rfl
@[simp] theorem say_mem (s : State) (m : Sent) : (s.say m).mem = s.mem := rfl
@[simp] theorem say_start (s : State) (m : Sent) : (s.say m).start = s.start := rfl
@[simp] theorem say_svc (s : State) (m : Sent) : (s.say m).svc = s.svc := rfl
@[simp] theorem say_tiles (s : State) (m : Sent) : (s.say m).tiles = s.tiles := rfl
@[simp] theorem say_disp (s : State) (m : Sent) : (s.say m).disp = s.disp := rfl
@[simp] theorem say_ledger (s : State) (m : Sent) : (s.say m).ledger = s.ledger := rfl
@[simp] theorem say_ilk (s : State) (m : Sent) : (s.say m).ilk = s.ilk := rfl
@[simp] theorem say_dram (s : State) (m : Sent) : (s.say m).dram = s.dram := rfl
@[simp] theorem say_safety (s : State) (m : Sent) : (s.say m).safety = s.safety := rfl
@[simp] theorem say_ports (s : State) (m : Sent) : (s.say m).ports = s.ports := rfl
@[simp] theorem say_sec (s : State) (m : Sent) : (s.say m).sec = s.sec := rfl
@[simp] theorem say_power (s : State) (m : Sent) : (s.say m).power = s.power := rfl
@[simp] theorem say_links (s : State) (m : Sent) : (s.say m).links = s.links := rfl
@[simp] theorem say_signals (s : State) (m : Sent) : (s.say m).signals = s.signals := rfl
@[simp] theorem say_arbs (s : State) (m : Sent) : (s.say m).arbs = s.arbs := rfl
@[simp] theorem say_mon (s : State) (m : Sent) : (s.say m).mon = s.mon := rfl
@[simp] theorem say_pins (s : State) (m : Sent) : (s.say m).pins = s.pins := rfl

@[simp] theorem setRing_pending (s : State) (r : Nat) (R : Ring) : (s.setRing r R).pending = s.pending := rfl
@[simp] theorem setRing_clk (s : State) (r : Nat) (R : Ring) : (s.setRing r R).clk = s.clk := rfl
@[simp] theorem setRing_now (s : State) (r : Nat) (R : Ring) : (s.setRing r R).now = s.now := rfl
@[simp] theorem setRing_free (s : State) (r : Nat) (R : Ring) : (s.setRing r R).free = s.free := rfl
@[simp] theorem setRing_fuses (s : State) (r : Nat) (R : Ring) : (s.setRing r R).fuses = s.fuses := rfl
@[simp] theorem setRing_flash (s : State) (r : Nat) (R : Ring) : (s.setRing r R).flash = s.flash := rfl
@[simp] theorem setRing_regs (s : State) (r : Nat) (R : Ring) : (s.setRing r R).regs = s.regs := rfl
@[simp] theorem setRing_errq (s : State) (r : Nat) (R : Ring) : (s.setRing r R).errq = s.errq := rfl
@[simp] theorem setRing_errOvf (s : State) (r : Nat) (R : Ring) : (s.setRing r R).errOvf = s.errOvf := rfl
@[simp] theorem setRing_cnt (s : State) (r : Nat) (R : Ring) : (s.setRing r R).cnt = s.cnt := rfl
@[simp] theorem setRing_cntHeld (s : State) (r : Nat) (R : Ring) : (s.setRing r R).cntHeld = s.cntHeld := rfl
@[simp] theorem setRing_cntReload (s : State) (r : Nat) (R : Ring) : (s.setRing r R).cntReload = s.cntReload := rfl
@[simp] theorem setRing_cntCapture (s : State) (r : Nat) (R : Ring) : (s.setRing r R).cntCapture = s.cntCapture := rfl
@[simp] theorem setRing_cntLevel (s : State) (r : Nat) (R : Ring) : (s.setRing r R).cntLevel = s.cntLevel := rfl
@[simp] theorem setRing_evs (s : State) (r : Nat) (R : Ring) : (s.setRing r R).evs = s.evs := rfl
@[simp] theorem setRing_mem (s : State) (r : Nat) (R : Ring) : (s.setRing r R).mem = s.mem := rfl
@[simp] theorem setRing_start (s : State) (r : Nat) (R : Ring) : (s.setRing r R).start = s.start := rfl
@[simp] theorem setRing_svc (s : State) (r : Nat) (R : Ring) : (s.setRing r R).svc = s.svc := rfl
@[simp] theorem setRing_tiles (s : State) (r : Nat) (R : Ring) : (s.setRing r R).tiles = s.tiles := rfl
@[simp] theorem setRing_ledger (s : State) (r : Nat) (R : Ring) : (s.setRing r R).ledger = s.ledger := rfl
@[simp] theorem setRing_ilk (s : State) (r : Nat) (R : Ring) : (s.setRing r R).ilk = s.ilk := rfl
@[simp] theorem setRing_dram (s : State) (r : Nat) (R : Ring) : (s.setRing r R).dram = s.dram := rfl
@[simp] theorem setRing_safety (s : State) (r : Nat) (R : Ring) : (s.setRing r R).safety = s.safety := rfl
@[simp] theorem setRing_ports (s : State) (r : Nat) (R : Ring) : (s.setRing r R).ports = s.ports := rfl
@[simp] theorem setRing_convoy (s : State) (r : Nat) (R : Ring) : (s.setRing r R).convoy = s.convoy := rfl
@[simp] theorem setRing_sec (s : State) (r : Nat) (R : Ring) : (s.setRing r R).sec = s.sec := rfl
@[simp] theorem setRing_power (s : State) (r : Nat) (R : Ring) : (s.setRing r R).power = s.power := rfl
@[simp] theorem setRing_links (s : State) (r : Nat) (R : Ring) : (s.setRing r R).links = s.links := rfl
@[simp] theorem setRing_signals (s : State) (r : Nat) (R : Ring) : (s.setRing r R).signals = s.signals := rfl
@[simp] theorem setRing_arbs (s : State) (r : Nat) (R : Ring) : (s.setRing r R).arbs = s.arbs := rfl
@[simp] theorem setRing_mon (s : State) (r : Nat) (R : Ring) : (s.setRing r R).mon = s.mon := rfl
@[simp] theorem setRing_pins (s : State) (r : Nat) (R : Ring) : (s.setRing r R).pins = s.pins := rfl

@[simp] theorem burn_pending (s : State) (f : Fuses → Fuses) : (s.burn f).pending = s.pending := rfl
@[simp] theorem burn_clk (s : State) (f : Fuses → Fuses) : (s.burn f).clk = s.clk := rfl
@[simp] theorem burn_now (s : State) (f : Fuses → Fuses) : (s.burn f).now = s.now := rfl
@[simp] theorem burn_free (s : State) (f : Fuses → Fuses) : (s.burn f).free = s.free := rfl
@[simp] theorem burn_flash (s : State) (f : Fuses → Fuses) : (s.burn f).flash = s.flash := rfl
@[simp] theorem burn_regs (s : State) (f : Fuses → Fuses) : (s.burn f).regs = s.regs := rfl
@[simp] theorem burn_errq (s : State) (f : Fuses → Fuses) : (s.burn f).errq = s.errq := rfl
@[simp] theorem burn_errOvf (s : State) (f : Fuses → Fuses) : (s.burn f).errOvf = s.errOvf := rfl
@[simp] theorem burn_cnt (s : State) (f : Fuses → Fuses) : (s.burn f).cnt = s.cnt := rfl
@[simp] theorem burn_cntHeld (s : State) (f : Fuses → Fuses) : (s.burn f).cntHeld = s.cntHeld := rfl
@[simp] theorem burn_cntReload (s : State) (f : Fuses → Fuses) : (s.burn f).cntReload = s.cntReload := rfl
@[simp] theorem burn_cntCapture (s : State) (f : Fuses → Fuses) : (s.burn f).cntCapture = s.cntCapture := rfl
@[simp] theorem burn_cntLevel (s : State) (f : Fuses → Fuses) : (s.burn f).cntLevel = s.cntLevel := rfl
@[simp] theorem burn_evs (s : State) (f : Fuses → Fuses) : (s.burn f).evs = s.evs := rfl
@[simp] theorem burn_mem (s : State) (f : Fuses → Fuses) : (s.burn f).mem = s.mem := rfl
@[simp] theorem burn_start (s : State) (f : Fuses → Fuses) : (s.burn f).start = s.start := rfl
@[simp] theorem burn_svc (s : State) (f : Fuses → Fuses) : (s.burn f).svc = s.svc := rfl
@[simp] theorem burn_tiles (s : State) (f : Fuses → Fuses) : (s.burn f).tiles = s.tiles := rfl
@[simp] theorem burn_disp (s : State) (f : Fuses → Fuses) : (s.burn f).disp = s.disp := rfl
@[simp] theorem burn_ledger (s : State) (f : Fuses → Fuses) : (s.burn f).ledger = s.ledger := rfl
@[simp] theorem burn_ilk (s : State) (f : Fuses → Fuses) : (s.burn f).ilk = s.ilk := rfl
@[simp] theorem burn_dram (s : State) (f : Fuses → Fuses) : (s.burn f).dram = s.dram := rfl
@[simp] theorem burn_safety (s : State) (f : Fuses → Fuses) : (s.burn f).safety = s.safety := rfl
@[simp] theorem burn_ports (s : State) (f : Fuses → Fuses) : (s.burn f).ports = s.ports := rfl
@[simp] theorem burn_convoy (s : State) (f : Fuses → Fuses) : (s.burn f).convoy = s.convoy := rfl
@[simp] theorem burn_sec (s : State) (f : Fuses → Fuses) : (s.burn f).sec = s.sec := rfl
@[simp] theorem burn_power (s : State) (f : Fuses → Fuses) : (s.burn f).power = s.power := rfl
@[simp] theorem burn_links (s : State) (f : Fuses → Fuses) : (s.burn f).links = s.links := rfl
@[simp] theorem burn_signals (s : State) (f : Fuses → Fuses) : (s.burn f).signals = s.signals := rfl
@[simp] theorem burn_arbs (s : State) (f : Fuses → Fuses) : (s.burn f).arbs = s.arbs := rfl
@[simp] theorem burn_mon (s : State) (f : Fuses → Fuses) : (s.burn f).mon = s.mon := rfl
@[simp] theorem burn_pins (s : State) (f : Fuses → Fuses) : (s.burn f).pins = s.pins := rfl

@[simp] theorem setPhase_pending (s : State) (p : Phase) : (s.setPhase p).pending = s.pending := rfl
@[simp] theorem setPhase_clk (s : State) (p : Phase) : (s.setPhase p).clk = s.clk := rfl
@[simp] theorem setPhase_now (s : State) (p : Phase) : (s.setPhase p).now = s.now := rfl
@[simp] theorem setPhase_free (s : State) (p : Phase) : (s.setPhase p).free = s.free := rfl
@[simp] theorem setPhase_fuses (s : State) (p : Phase) : (s.setPhase p).fuses = s.fuses := rfl
@[simp] theorem setPhase_flash (s : State) (p : Phase) : (s.setPhase p).flash = s.flash := rfl
@[simp] theorem setPhase_regs (s : State) (p : Phase) : (s.setPhase p).regs = s.regs := rfl
@[simp] theorem setPhase_errq (s : State) (p : Phase) : (s.setPhase p).errq = s.errq := rfl
@[simp] theorem setPhase_errOvf (s : State) (p : Phase) : (s.setPhase p).errOvf = s.errOvf := rfl
@[simp] theorem setPhase_cnt (s : State) (p : Phase) : (s.setPhase p).cnt = s.cnt := rfl
@[simp] theorem setPhase_cntHeld (s : State) (p : Phase) : (s.setPhase p).cntHeld = s.cntHeld := rfl
@[simp] theorem setPhase_cntReload (s : State) (p : Phase) : (s.setPhase p).cntReload = s.cntReload := rfl
@[simp] theorem setPhase_cntCapture (s : State) (p : Phase) : (s.setPhase p).cntCapture = s.cntCapture := rfl
@[simp] theorem setPhase_cntLevel (s : State) (p : Phase) : (s.setPhase p).cntLevel = s.cntLevel := rfl
@[simp] theorem setPhase_evs (s : State) (p : Phase) : (s.setPhase p).evs = s.evs := rfl
@[simp] theorem setPhase_mem (s : State) (p : Phase) : (s.setPhase p).mem = s.mem := rfl
@[simp] theorem setPhase_start (s : State) (p : Phase) : (s.setPhase p).start = s.start := rfl
@[simp] theorem setPhase_svc (s : State) (p : Phase) : (s.setPhase p).svc = s.svc := rfl
@[simp] theorem setPhase_tiles (s : State) (p : Phase) : (s.setPhase p).tiles = s.tiles := rfl
@[simp] theorem setPhase_disp (s : State) (p : Phase) : (s.setPhase p).disp = s.disp := rfl
@[simp] theorem setPhase_ledger (s : State) (p : Phase) : (s.setPhase p).ledger = s.ledger := rfl
@[simp] theorem setPhase_ilk (s : State) (p : Phase) : (s.setPhase p).ilk = s.ilk := rfl
@[simp] theorem setPhase_dram (s : State) (p : Phase) : (s.setPhase p).dram = s.dram := rfl
@[simp] theorem setPhase_ports (s : State) (p : Phase) : (s.setPhase p).ports = s.ports := rfl
@[simp] theorem setPhase_convoy (s : State) (p : Phase) : (s.setPhase p).convoy = s.convoy := rfl
@[simp] theorem setPhase_sec (s : State) (p : Phase) : (s.setPhase p).sec = s.sec := rfl
@[simp] theorem setPhase_power (s : State) (p : Phase) : (s.setPhase p).power = s.power := rfl
@[simp] theorem setPhase_links (s : State) (p : Phase) : (s.setPhase p).links = s.links := rfl
@[simp] theorem setPhase_signals (s : State) (p : Phase) : (s.setPhase p).signals = s.signals := rfl
@[simp] theorem setPhase_arbs (s : State) (p : Phase) : (s.setPhase p).arbs = s.arbs := rfl
@[simp] theorem setPhase_mon (s : State) (p : Phase) : (s.setPhase p).mon = s.mon := rfl
@[simp] theorem setPhase_pins (s : State) (p : Phase) : (s.setPhase p).pins = s.pins := rfl

@[simp] theorem nextStart_pending (s : State) : (s.nextStart ).pending = s.pending := rfl
@[simp] theorem nextStart_clk (s : State) : (s.nextStart ).clk = s.clk := rfl
@[simp] theorem nextStart_now (s : State) : (s.nextStart ).now = s.now := rfl
@[simp] theorem nextStart_free (s : State) : (s.nextStart ).free = s.free := rfl
@[simp] theorem nextStart_fuses (s : State) : (s.nextStart ).fuses = s.fuses := rfl
@[simp] theorem nextStart_flash (s : State) : (s.nextStart ).flash = s.flash := rfl
@[simp] theorem nextStart_regs (s : State) : (s.nextStart ).regs = s.regs := rfl
@[simp] theorem nextStart_errq (s : State) : (s.nextStart ).errq = s.errq := rfl
@[simp] theorem nextStart_errOvf (s : State) : (s.nextStart ).errOvf = s.errOvf := rfl
@[simp] theorem nextStart_cnt (s : State) : (s.nextStart ).cnt = s.cnt := rfl
@[simp] theorem nextStart_cntHeld (s : State) : (s.nextStart ).cntHeld = s.cntHeld := rfl
@[simp] theorem nextStart_cntReload (s : State) : (s.nextStart ).cntReload = s.cntReload := rfl
@[simp] theorem nextStart_cntCapture (s : State) : (s.nextStart ).cntCapture = s.cntCapture := rfl
@[simp] theorem nextStart_cntLevel (s : State) : (s.nextStart ).cntLevel = s.cntLevel := rfl
@[simp] theorem nextStart_evs (s : State) : (s.nextStart ).evs = s.evs := rfl
@[simp] theorem nextStart_mem (s : State) : (s.nextStart ).mem = s.mem := rfl
@[simp] theorem nextStart_svc (s : State) : (s.nextStart ).svc = s.svc := rfl
@[simp] theorem nextStart_tiles (s : State) : (s.nextStart ).tiles = s.tiles := rfl
@[simp] theorem nextStart_disp (s : State) : (s.nextStart ).disp = s.disp := rfl
@[simp] theorem nextStart_ledger (s : State) : (s.nextStart ).ledger = s.ledger := rfl
@[simp] theorem nextStart_ilk (s : State) : (s.nextStart ).ilk = s.ilk := rfl
@[simp] theorem nextStart_dram (s : State) : (s.nextStart ).dram = s.dram := rfl
@[simp] theorem nextStart_safety (s : State) : (s.nextStart ).safety = s.safety := rfl
@[simp] theorem nextStart_ports (s : State) : (s.nextStart ).ports = s.ports := rfl
@[simp] theorem nextStart_convoy (s : State) : (s.nextStart ).convoy = s.convoy := rfl
@[simp] theorem nextStart_sec (s : State) : (s.nextStart ).sec = s.sec := rfl
@[simp] theorem nextStart_power (s : State) : (s.nextStart ).power = s.power := rfl
@[simp] theorem nextStart_links (s : State) : (s.nextStart ).links = s.links := rfl
@[simp] theorem nextStart_signals (s : State) : (s.nextStart ).signals = s.signals := rfl
@[simp] theorem nextStart_arbs (s : State) : (s.nextStart ).arbs = s.arbs := rfl
@[simp] theorem nextStart_mon (s : State) : (s.nextStart ).mon = s.mon := rfl
@[simp] theorem nextStart_pins (s : State) : (s.nextStart ).pins = s.pins := rfl

@[simp] theorem stopStart_pending (s : State) : (s.stopStart ).pending = s.pending := rfl
@[simp] theorem stopStart_clk (s : State) : (s.stopStart ).clk = s.clk := rfl
@[simp] theorem stopStart_now (s : State) : (s.stopStart ).now = s.now := rfl
@[simp] theorem stopStart_free (s : State) : (s.stopStart ).free = s.free := rfl
@[simp] theorem stopStart_fuses (s : State) : (s.stopStart ).fuses = s.fuses := rfl
@[simp] theorem stopStart_flash (s : State) : (s.stopStart ).flash = s.flash := rfl
@[simp] theorem stopStart_regs (s : State) : (s.stopStart ).regs = s.regs := rfl
@[simp] theorem stopStart_errq (s : State) : (s.stopStart ).errq = s.errq := rfl
@[simp] theorem stopStart_errOvf (s : State) : (s.stopStart ).errOvf = s.errOvf := rfl
@[simp] theorem stopStart_cnt (s : State) : (s.stopStart ).cnt = s.cnt := rfl
@[simp] theorem stopStart_cntHeld (s : State) : (s.stopStart ).cntHeld = s.cntHeld := rfl
@[simp] theorem stopStart_cntReload (s : State) : (s.stopStart ).cntReload = s.cntReload := rfl
@[simp] theorem stopStart_cntCapture (s : State) : (s.stopStart ).cntCapture = s.cntCapture := rfl
@[simp] theorem stopStart_cntLevel (s : State) : (s.stopStart ).cntLevel = s.cntLevel := rfl
@[simp] theorem stopStart_evs (s : State) : (s.stopStart ).evs = s.evs := rfl
@[simp] theorem stopStart_mem (s : State) : (s.stopStart ).mem = s.mem := rfl
@[simp] theorem stopStart_svc (s : State) : (s.stopStart ).svc = s.svc := rfl
@[simp] theorem stopStart_tiles (s : State) : (s.stopStart ).tiles = s.tiles := rfl
@[simp] theorem stopStart_disp (s : State) : (s.stopStart ).disp = s.disp := rfl
@[simp] theorem stopStart_ledger (s : State) : (s.stopStart ).ledger = s.ledger := rfl
@[simp] theorem stopStart_ilk (s : State) : (s.stopStart ).ilk = s.ilk := rfl
@[simp] theorem stopStart_dram (s : State) : (s.stopStart ).dram = s.dram := rfl
@[simp] theorem stopStart_safety (s : State) : (s.stopStart ).safety = s.safety := rfl
@[simp] theorem stopStart_ports (s : State) : (s.stopStart ).ports = s.ports := rfl
@[simp] theorem stopStart_convoy (s : State) : (s.stopStart ).convoy = s.convoy := rfl
@[simp] theorem stopStart_sec (s : State) : (s.stopStart ).sec = s.sec := rfl
@[simp] theorem stopStart_power (s : State) : (s.stopStart ).power = s.power := rfl
@[simp] theorem stopStart_links (s : State) : (s.stopStart ).links = s.links := rfl
@[simp] theorem stopStart_signals (s : State) : (s.stopStart ).signals = s.signals := rfl
@[simp] theorem stopStart_arbs (s : State) : (s.stopStart ).arbs = s.arbs := rfl
@[simp] theorem stopStart_mon (s : State) : (s.stopStart ).mon = s.mon := rfl
@[simp] theorem stopStart_pins (s : State) : (s.stopStart ).pins = s.pins := rfl

@[simp] theorem setSeq_pending (s : State) (n : Nat) (q : Seq) : (s.setSeq n q).pending = s.pending := rfl
@[simp] theorem setSeq_clk (s : State) (n : Nat) (q : Seq) : (s.setSeq n q).clk = s.clk := rfl
@[simp] theorem setSeq_now (s : State) (n : Nat) (q : Seq) : (s.setSeq n q).now = s.now := rfl
@[simp] theorem setSeq_free (s : State) (n : Nat) (q : Seq) : (s.setSeq n q).free = s.free := rfl
@[simp] theorem setSeq_fuses (s : State) (n : Nat) (q : Seq) : (s.setSeq n q).fuses = s.fuses := rfl
@[simp] theorem setSeq_flash (s : State) (n : Nat) (q : Seq) : (s.setSeq n q).flash = s.flash := rfl
@[simp] theorem setSeq_regs (s : State) (n : Nat) (q : Seq) : (s.setSeq n q).regs = s.regs := rfl
@[simp] theorem setSeq_errq (s : State) (n : Nat) (q : Seq) : (s.setSeq n q).errq = s.errq := rfl
@[simp] theorem setSeq_errOvf (s : State) (n : Nat) (q : Seq) : (s.setSeq n q).errOvf = s.errOvf := rfl
@[simp] theorem setSeq_cnt (s : State) (n : Nat) (q : Seq) : (s.setSeq n q).cnt = s.cnt := rfl
@[simp] theorem setSeq_cntHeld (s : State) (n : Nat) (q : Seq) : (s.setSeq n q).cntHeld = s.cntHeld := rfl
@[simp] theorem setSeq_cntReload (s : State) (n : Nat) (q : Seq) : (s.setSeq n q).cntReload = s.cntReload := rfl
@[simp] theorem setSeq_cntCapture (s : State) (n : Nat) (q : Seq) : (s.setSeq n q).cntCapture = s.cntCapture := rfl
@[simp] theorem setSeq_cntLevel (s : State) (n : Nat) (q : Seq) : (s.setSeq n q).cntLevel = s.cntLevel := rfl
@[simp] theorem setSeq_evs (s : State) (n : Nat) (q : Seq) : (s.setSeq n q).evs = s.evs := rfl
@[simp] theorem setSeq_mem (s : State) (n : Nat) (q : Seq) : (s.setSeq n q).mem = s.mem := rfl
@[simp] theorem setSeq_start (s : State) (n : Nat) (q : Seq) : (s.setSeq n q).start = s.start := rfl
@[simp] theorem setSeq_svc (s : State) (n : Nat) (q : Seq) : (s.setSeq n q).svc = s.svc := rfl
@[simp] theorem setSeq_tiles (s : State) (n : Nat) (q : Seq) : (s.setSeq n q).tiles = s.tiles := rfl
@[simp] theorem setSeq_disp (s : State) (n : Nat) (q : Seq) : (s.setSeq n q).disp = s.disp := rfl
@[simp] theorem setSeq_ilk (s : State) (n : Nat) (q : Seq) : (s.setSeq n q).ilk = s.ilk := rfl
@[simp] theorem setSeq_dram (s : State) (n : Nat) (q : Seq) : (s.setSeq n q).dram = s.dram := rfl
@[simp] theorem setSeq_safety (s : State) (n : Nat) (q : Seq) : (s.setSeq n q).safety = s.safety := rfl
@[simp] theorem setSeq_ports (s : State) (n : Nat) (q : Seq) : (s.setSeq n q).ports = s.ports := rfl
@[simp] theorem setSeq_convoy (s : State) (n : Nat) (q : Seq) : (s.setSeq n q).convoy = s.convoy := rfl
@[simp] theorem setSeq_sec (s : State) (n : Nat) (q : Seq) : (s.setSeq n q).sec = s.sec := rfl
@[simp] theorem setSeq_power (s : State) (n : Nat) (q : Seq) : (s.setSeq n q).power = s.power := rfl
@[simp] theorem setSeq_links (s : State) (n : Nat) (q : Seq) : (s.setSeq n q).links = s.links := rfl
@[simp] theorem setSeq_signals (s : State) (n : Nat) (q : Seq) : (s.setSeq n q).signals = s.signals := rfl
@[simp] theorem setSeq_arbs (s : State) (n : Nat) (q : Seq) : (s.setSeq n q).arbs = s.arbs := rfl
@[simp] theorem setSeq_mon (s : State) (n : Nat) (q : Seq) : (s.setSeq n q).mon = s.mon := rfl
@[simp] theorem setSeq_pins (s : State) (n : Nat) (q : Seq) : (s.setSeq n q).pins = s.pins := rfl

@[simp] theorem setOwner_pending (s : State) (p : Nat) (o : Owner) : (s.setOwner p o).pending = s.pending := rfl
@[simp] theorem setOwner_clk (s : State) (p : Nat) (o : Owner) : (s.setOwner p o).clk = s.clk := rfl
@[simp] theorem setOwner_now (s : State) (p : Nat) (o : Owner) : (s.setOwner p o).now = s.now := rfl
@[simp] theorem setOwner_free (s : State) (p : Nat) (o : Owner) : (s.setOwner p o).free = s.free := rfl
@[simp] theorem setOwner_fuses (s : State) (p : Nat) (o : Owner) : (s.setOwner p o).fuses = s.fuses := rfl
@[simp] theorem setOwner_flash (s : State) (p : Nat) (o : Owner) : (s.setOwner p o).flash = s.flash := rfl
@[simp] theorem setOwner_regs (s : State) (p : Nat) (o : Owner) : (s.setOwner p o).regs = s.regs := rfl
@[simp] theorem setOwner_errq (s : State) (p : Nat) (o : Owner) : (s.setOwner p o).errq = s.errq := rfl
@[simp] theorem setOwner_errOvf (s : State) (p : Nat) (o : Owner) : (s.setOwner p o).errOvf = s.errOvf := rfl
@[simp] theorem setOwner_cnt (s : State) (p : Nat) (o : Owner) : (s.setOwner p o).cnt = s.cnt := rfl
@[simp] theorem setOwner_cntHeld (s : State) (p : Nat) (o : Owner) : (s.setOwner p o).cntHeld = s.cntHeld := rfl
@[simp] theorem setOwner_cntReload (s : State) (p : Nat) (o : Owner) : (s.setOwner p o).cntReload = s.cntReload := rfl
@[simp] theorem setOwner_cntCapture (s : State) (p : Nat) (o : Owner) : (s.setOwner p o).cntCapture = s.cntCapture := rfl
@[simp] theorem setOwner_cntLevel (s : State) (p : Nat) (o : Owner) : (s.setOwner p o).cntLevel = s.cntLevel := rfl
@[simp] theorem setOwner_evs (s : State) (p : Nat) (o : Owner) : (s.setOwner p o).evs = s.evs := rfl
@[simp] theorem setOwner_mem (s : State) (p : Nat) (o : Owner) : (s.setOwner p o).mem = s.mem := rfl
@[simp] theorem setOwner_start (s : State) (p : Nat) (o : Owner) : (s.setOwner p o).start = s.start := rfl
@[simp] theorem setOwner_svc (s : State) (p : Nat) (o : Owner) : (s.setOwner p o).svc = s.svc := rfl
@[simp] theorem setOwner_tiles (s : State) (p : Nat) (o : Owner) : (s.setOwner p o).tiles = s.tiles := rfl
@[simp] theorem setOwner_disp (s : State) (p : Nat) (o : Owner) : (s.setOwner p o).disp = s.disp := rfl
@[simp] theorem setOwner_ledger (s : State) (p : Nat) (o : Owner) : (s.setOwner p o).ledger = s.ledger := rfl
@[simp] theorem setOwner_ilk (s : State) (p : Nat) (o : Owner) : (s.setOwner p o).ilk = s.ilk := rfl
@[simp] theorem setOwner_safety (s : State) (p : Nat) (o : Owner) : (s.setOwner p o).safety = s.safety := rfl
@[simp] theorem setOwner_ports (s : State) (p : Nat) (o : Owner) : (s.setOwner p o).ports = s.ports := rfl
@[simp] theorem setOwner_convoy (s : State) (p : Nat) (o : Owner) : (s.setOwner p o).convoy = s.convoy := rfl
@[simp] theorem setOwner_sec (s : State) (p : Nat) (o : Owner) : (s.setOwner p o).sec = s.sec := rfl
@[simp] theorem setOwner_power (s : State) (p : Nat) (o : Owner) : (s.setOwner p o).power = s.power := rfl
@[simp] theorem setOwner_links (s : State) (p : Nat) (o : Owner) : (s.setOwner p o).links = s.links := rfl
@[simp] theorem setOwner_signals (s : State) (p : Nat) (o : Owner) : (s.setOwner p o).signals = s.signals := rfl
@[simp] theorem setOwner_arbs (s : State) (p : Nat) (o : Owner) : (s.setOwner p o).arbs = s.arbs := rfl
@[simp] theorem setOwner_mon (s : State) (p : Nat) (o : Owner) : (s.setOwner p o).mon = s.mon := rfl
@[simp] theorem setOwner_pins (s : State) (p : Nat) (o : Owner) : (s.setOwner p o).pins = s.pins := rfl

@[simp] theorem setLink_pending (s : State) (page : Nat) (b : Nat) (l : Link) : (s.setLink page b l).pending = s.pending := rfl
@[simp] theorem setLink_clk (s : State) (page : Nat) (b : Nat) (l : Link) : (s.setLink page b l).clk = s.clk := rfl
@[simp] theorem setLink_now (s : State) (page : Nat) (b : Nat) (l : Link) : (s.setLink page b l).now = s.now := rfl
@[simp] theorem setLink_free (s : State) (page : Nat) (b : Nat) (l : Link) : (s.setLink page b l).free = s.free := rfl
@[simp] theorem setLink_fuses (s : State) (page : Nat) (b : Nat) (l : Link) : (s.setLink page b l).fuses = s.fuses := rfl
@[simp] theorem setLink_flash (s : State) (page : Nat) (b : Nat) (l : Link) : (s.setLink page b l).flash = s.flash := rfl
@[simp] theorem setLink_regs (s : State) (page : Nat) (b : Nat) (l : Link) : (s.setLink page b l).regs = s.regs := rfl
@[simp] theorem setLink_errq (s : State) (page : Nat) (b : Nat) (l : Link) : (s.setLink page b l).errq = s.errq := rfl
@[simp] theorem setLink_errOvf (s : State) (page : Nat) (b : Nat) (l : Link) : (s.setLink page b l).errOvf = s.errOvf := rfl
@[simp] theorem setLink_cnt (s : State) (page : Nat) (b : Nat) (l : Link) : (s.setLink page b l).cnt = s.cnt := rfl
@[simp] theorem setLink_cntHeld (s : State) (page : Nat) (b : Nat) (l : Link) : (s.setLink page b l).cntHeld = s.cntHeld := rfl
@[simp] theorem setLink_cntReload (s : State) (page : Nat) (b : Nat) (l : Link) : (s.setLink page b l).cntReload = s.cntReload := rfl
@[simp] theorem setLink_cntCapture (s : State) (page : Nat) (b : Nat) (l : Link) : (s.setLink page b l).cntCapture = s.cntCapture := rfl
@[simp] theorem setLink_cntLevel (s : State) (page : Nat) (b : Nat) (l : Link) : (s.setLink page b l).cntLevel = s.cntLevel := rfl
@[simp] theorem setLink_evs (s : State) (page : Nat) (b : Nat) (l : Link) : (s.setLink page b l).evs = s.evs := rfl
@[simp] theorem setLink_mem (s : State) (page : Nat) (b : Nat) (l : Link) : (s.setLink page b l).mem = s.mem := rfl
@[simp] theorem setLink_start (s : State) (page : Nat) (b : Nat) (l : Link) : (s.setLink page b l).start = s.start := rfl
@[simp] theorem setLink_svc (s : State) (page : Nat) (b : Nat) (l : Link) : (s.setLink page b l).svc = s.svc := rfl
@[simp] theorem setLink_tiles (s : State) (page : Nat) (b : Nat) (l : Link) : (s.setLink page b l).tiles = s.tiles := rfl
@[simp] theorem setLink_disp (s : State) (page : Nat) (b : Nat) (l : Link) : (s.setLink page b l).disp = s.disp := rfl
@[simp] theorem setLink_ledger (s : State) (page : Nat) (b : Nat) (l : Link) : (s.setLink page b l).ledger = s.ledger := rfl
@[simp] theorem setLink_ilk (s : State) (page : Nat) (b : Nat) (l : Link) : (s.setLink page b l).ilk = s.ilk := rfl
@[simp] theorem setLink_dram (s : State) (page : Nat) (b : Nat) (l : Link) : (s.setLink page b l).dram = s.dram := rfl
@[simp] theorem setLink_safety (s : State) (page : Nat) (b : Nat) (l : Link) : (s.setLink page b l).safety = s.safety := rfl
@[simp] theorem setLink_ports (s : State) (page : Nat) (b : Nat) (l : Link) : (s.setLink page b l).ports = s.ports := rfl
@[simp] theorem setLink_convoy (s : State) (page : Nat) (b : Nat) (l : Link) : (s.setLink page b l).convoy = s.convoy := rfl
@[simp] theorem setLink_sec (s : State) (page : Nat) (b : Nat) (l : Link) : (s.setLink page b l).sec = s.sec := rfl
@[simp] theorem setLink_power (s : State) (page : Nat) (b : Nat) (l : Link) : (s.setLink page b l).power = s.power := rfl
@[simp] theorem setLink_signals (s : State) (page : Nat) (b : Nat) (l : Link) : (s.setLink page b l).signals = s.signals := rfl
@[simp] theorem setLink_arbs (s : State) (page : Nat) (b : Nat) (l : Link) : (s.setLink page b l).arbs = s.arbs := rfl
@[simp] theorem setLink_mon (s : State) (page : Nat) (b : Nat) (l : Link) : (s.setLink page b l).mon = s.mon := rfl
@[simp] theorem setLink_pins (s : State) (page : Nat) (b : Nat) (l : Link) : (s.setLink page b l).pins = s.pins := rfl

@[simp] theorem setEntryRun_pending (s : State) (e : Nat) (r : EntryRun) : (s.setEntryRun e r).pending = s.pending := rfl
@[simp] theorem setEntryRun_clk (s : State) (e : Nat) (r : EntryRun) : (s.setEntryRun e r).clk = s.clk := rfl
@[simp] theorem setEntryRun_now (s : State) (e : Nat) (r : EntryRun) : (s.setEntryRun e r).now = s.now := rfl
@[simp] theorem setEntryRun_free (s : State) (e : Nat) (r : EntryRun) : (s.setEntryRun e r).free = s.free := rfl
@[simp] theorem setEntryRun_fuses (s : State) (e : Nat) (r : EntryRun) : (s.setEntryRun e r).fuses = s.fuses := rfl
@[simp] theorem setEntryRun_flash (s : State) (e : Nat) (r : EntryRun) : (s.setEntryRun e r).flash = s.flash := rfl
@[simp] theorem setEntryRun_regs (s : State) (e : Nat) (r : EntryRun) : (s.setEntryRun e r).regs = s.regs := rfl
@[simp] theorem setEntryRun_errq (s : State) (e : Nat) (r : EntryRun) : (s.setEntryRun e r).errq = s.errq := rfl
@[simp] theorem setEntryRun_errOvf (s : State) (e : Nat) (r : EntryRun) : (s.setEntryRun e r).errOvf = s.errOvf := rfl
@[simp] theorem setEntryRun_cnt (s : State) (e : Nat) (r : EntryRun) : (s.setEntryRun e r).cnt = s.cnt := rfl
@[simp] theorem setEntryRun_cntHeld (s : State) (e : Nat) (r : EntryRun) : (s.setEntryRun e r).cntHeld = s.cntHeld := rfl
@[simp] theorem setEntryRun_cntReload (s : State) (e : Nat) (r : EntryRun) : (s.setEntryRun e r).cntReload = s.cntReload := rfl
@[simp] theorem setEntryRun_cntCapture (s : State) (e : Nat) (r : EntryRun) : (s.setEntryRun e r).cntCapture = s.cntCapture := rfl
@[simp] theorem setEntryRun_cntLevel (s : State) (e : Nat) (r : EntryRun) : (s.setEntryRun e r).cntLevel = s.cntLevel := rfl
@[simp] theorem setEntryRun_evs (s : State) (e : Nat) (r : EntryRun) : (s.setEntryRun e r).evs = s.evs := rfl
@[simp] theorem setEntryRun_mem (s : State) (e : Nat) (r : EntryRun) : (s.setEntryRun e r).mem = s.mem := rfl
@[simp] theorem setEntryRun_start (s : State) (e : Nat) (r : EntryRun) : (s.setEntryRun e r).start = s.start := rfl
@[simp] theorem setEntryRun_svc (s : State) (e : Nat) (r : EntryRun) : (s.setEntryRun e r).svc = s.svc := rfl
@[simp] theorem setEntryRun_tiles (s : State) (e : Nat) (r : EntryRun) : (s.setEntryRun e r).tiles = s.tiles := rfl
@[simp] theorem setEntryRun_ledger (s : State) (e : Nat) (r : EntryRun) : (s.setEntryRun e r).ledger = s.ledger := rfl
@[simp] theorem setEntryRun_ilk (s : State) (e : Nat) (r : EntryRun) : (s.setEntryRun e r).ilk = s.ilk := rfl
@[simp] theorem setEntryRun_dram (s : State) (e : Nat) (r : EntryRun) : (s.setEntryRun e r).dram = s.dram := rfl
@[simp] theorem setEntryRun_safety (s : State) (e : Nat) (r : EntryRun) : (s.setEntryRun e r).safety = s.safety := rfl
@[simp] theorem setEntryRun_ports (s : State) (e : Nat) (r : EntryRun) : (s.setEntryRun e r).ports = s.ports := rfl
@[simp] theorem setEntryRun_convoy (s : State) (e : Nat) (r : EntryRun) : (s.setEntryRun e r).convoy = s.convoy := rfl
@[simp] theorem setEntryRun_sec (s : State) (e : Nat) (r : EntryRun) : (s.setEntryRun e r).sec = s.sec := rfl
@[simp] theorem setEntryRun_power (s : State) (e : Nat) (r : EntryRun) : (s.setEntryRun e r).power = s.power := rfl
@[simp] theorem setEntryRun_links (s : State) (e : Nat) (r : EntryRun) : (s.setEntryRun e r).links = s.links := rfl
@[simp] theorem setEntryRun_signals (s : State) (e : Nat) (r : EntryRun) : (s.setEntryRun e r).signals = s.signals := rfl
@[simp] theorem setEntryRun_arbs (s : State) (e : Nat) (r : EntryRun) : (s.setEntryRun e r).arbs = s.arbs := rfl
@[simp] theorem setEntryRun_mon (s : State) (e : Nat) (r : EntryRun) : (s.setEntryRun e r).mon = s.mon := rfl
@[simp] theorem setEntryRun_pins (s : State) (e : Nat) (r : EntryRun) : (s.setEntryRun e r).pins = s.pins := rfl

@[simp] theorem setEntry_pending (s : State) (p : Nat) (e : LedgerEntry) : (s.setEntry p e).pending = s.pending := rfl
@[simp] theorem setEntry_clk (s : State) (p : Nat) (e : LedgerEntry) : (s.setEntry p e).clk = s.clk := rfl
@[simp] theorem setEntry_now (s : State) (p : Nat) (e : LedgerEntry) : (s.setEntry p e).now = s.now := rfl
@[simp] theorem setEntry_free (s : State) (p : Nat) (e : LedgerEntry) : (s.setEntry p e).free = s.free := rfl
@[simp] theorem setEntry_fuses (s : State) (p : Nat) (e : LedgerEntry) : (s.setEntry p e).fuses = s.fuses := rfl
@[simp] theorem setEntry_flash (s : State) (p : Nat) (e : LedgerEntry) : (s.setEntry p e).flash = s.flash := rfl
@[simp] theorem setEntry_regs (s : State) (p : Nat) (e : LedgerEntry) : (s.setEntry p e).regs = s.regs := rfl
@[simp] theorem setEntry_errq (s : State) (p : Nat) (e : LedgerEntry) : (s.setEntry p e).errq = s.errq := rfl
@[simp] theorem setEntry_errOvf (s : State) (p : Nat) (e : LedgerEntry) : (s.setEntry p e).errOvf = s.errOvf := rfl
@[simp] theorem setEntry_cnt (s : State) (p : Nat) (e : LedgerEntry) : (s.setEntry p e).cnt = s.cnt := rfl
@[simp] theorem setEntry_cntHeld (s : State) (p : Nat) (e : LedgerEntry) : (s.setEntry p e).cntHeld = s.cntHeld := rfl
@[simp] theorem setEntry_cntReload (s : State) (p : Nat) (e : LedgerEntry) : (s.setEntry p e).cntReload = s.cntReload := rfl
@[simp] theorem setEntry_cntCapture (s : State) (p : Nat) (e : LedgerEntry) : (s.setEntry p e).cntCapture = s.cntCapture := rfl
@[simp] theorem setEntry_cntLevel (s : State) (p : Nat) (e : LedgerEntry) : (s.setEntry p e).cntLevel = s.cntLevel := rfl
@[simp] theorem setEntry_evs (s : State) (p : Nat) (e : LedgerEntry) : (s.setEntry p e).evs = s.evs := rfl
@[simp] theorem setEntry_mem (s : State) (p : Nat) (e : LedgerEntry) : (s.setEntry p e).mem = s.mem := rfl
@[simp] theorem setEntry_start (s : State) (p : Nat) (e : LedgerEntry) : (s.setEntry p e).start = s.start := rfl
@[simp] theorem setEntry_svc (s : State) (p : Nat) (e : LedgerEntry) : (s.setEntry p e).svc = s.svc := rfl
@[simp] theorem setEntry_tiles (s : State) (p : Nat) (e : LedgerEntry) : (s.setEntry p e).tiles = s.tiles := rfl
@[simp] theorem setEntry_disp (s : State) (p : Nat) (e : LedgerEntry) : (s.setEntry p e).disp = s.disp := rfl
@[simp] theorem setEntry_ilk (s : State) (p : Nat) (e : LedgerEntry) : (s.setEntry p e).ilk = s.ilk := rfl
@[simp] theorem setEntry_dram (s : State) (p : Nat) (e : LedgerEntry) : (s.setEntry p e).dram = s.dram := rfl
@[simp] theorem setEntry_safety (s : State) (p : Nat) (e : LedgerEntry) : (s.setEntry p e).safety = s.safety := rfl
@[simp] theorem setEntry_ports (s : State) (p : Nat) (e : LedgerEntry) : (s.setEntry p e).ports = s.ports := rfl
@[simp] theorem setEntry_convoy (s : State) (p : Nat) (e : LedgerEntry) : (s.setEntry p e).convoy = s.convoy := rfl
@[simp] theorem setEntry_sec (s : State) (p : Nat) (e : LedgerEntry) : (s.setEntry p e).sec = s.sec := rfl
@[simp] theorem setEntry_power (s : State) (p : Nat) (e : LedgerEntry) : (s.setEntry p e).power = s.power := rfl
@[simp] theorem setEntry_links (s : State) (p : Nat) (e : LedgerEntry) : (s.setEntry p e).links = s.links := rfl
@[simp] theorem setEntry_signals (s : State) (p : Nat) (e : LedgerEntry) : (s.setEntry p e).signals = s.signals := rfl
@[simp] theorem setEntry_arbs (s : State) (p : Nat) (e : LedgerEntry) : (s.setEntry p e).arbs = s.arbs := rfl
@[simp] theorem setEntry_mon (s : State) (p : Nat) (e : LedgerEntry) : (s.setEntry p e).mon = s.mon := rfl
@[simp] theorem setEntry_pins (s : State) (p : Nat) (e : LedgerEntry) : (s.setEntry p e).pins = s.pins := rfl

@[simp] theorem updStack_pending (s : State) (d : Nat) (f : Stack → Stack) : (s.updStack d f).pending = s.pending := rfl
@[simp] theorem updStack_clk (s : State) (d : Nat) (f : Stack → Stack) : (s.updStack d f).clk = s.clk := rfl
@[simp] theorem updStack_now (s : State) (d : Nat) (f : Stack → Stack) : (s.updStack d f).now = s.now := rfl
@[simp] theorem updStack_free (s : State) (d : Nat) (f : Stack → Stack) : (s.updStack d f).free = s.free := rfl
@[simp] theorem updStack_fuses (s : State) (d : Nat) (f : Stack → Stack) : (s.updStack d f).fuses = s.fuses := rfl
@[simp] theorem updStack_flash (s : State) (d : Nat) (f : Stack → Stack) : (s.updStack d f).flash = s.flash := rfl
@[simp] theorem updStack_regs (s : State) (d : Nat) (f : Stack → Stack) : (s.updStack d f).regs = s.regs := rfl
@[simp] theorem updStack_errq (s : State) (d : Nat) (f : Stack → Stack) : (s.updStack d f).errq = s.errq := rfl
@[simp] theorem updStack_errOvf (s : State) (d : Nat) (f : Stack → Stack) : (s.updStack d f).errOvf = s.errOvf := rfl
@[simp] theorem updStack_cnt (s : State) (d : Nat) (f : Stack → Stack) : (s.updStack d f).cnt = s.cnt := rfl
@[simp] theorem updStack_cntHeld (s : State) (d : Nat) (f : Stack → Stack) : (s.updStack d f).cntHeld = s.cntHeld := rfl
@[simp] theorem updStack_cntReload (s : State) (d : Nat) (f : Stack → Stack) : (s.updStack d f).cntReload = s.cntReload := rfl
@[simp] theorem updStack_cntCapture (s : State) (d : Nat) (f : Stack → Stack) : (s.updStack d f).cntCapture = s.cntCapture := rfl
@[simp] theorem updStack_cntLevel (s : State) (d : Nat) (f : Stack → Stack) : (s.updStack d f).cntLevel = s.cntLevel := rfl
@[simp] theorem updStack_evs (s : State) (d : Nat) (f : Stack → Stack) : (s.updStack d f).evs = s.evs := rfl
@[simp] theorem updStack_mem (s : State) (d : Nat) (f : Stack → Stack) : (s.updStack d f).mem = s.mem := rfl
@[simp] theorem updStack_start (s : State) (d : Nat) (f : Stack → Stack) : (s.updStack d f).start = s.start := rfl
@[simp] theorem updStack_svc (s : State) (d : Nat) (f : Stack → Stack) : (s.updStack d f).svc = s.svc := rfl
@[simp] theorem updStack_tiles (s : State) (d : Nat) (f : Stack → Stack) : (s.updStack d f).tiles = s.tiles := rfl
@[simp] theorem updStack_disp (s : State) (d : Nat) (f : Stack → Stack) : (s.updStack d f).disp = s.disp := rfl
@[simp] theorem updStack_ledger (s : State) (d : Nat) (f : Stack → Stack) : (s.updStack d f).ledger = s.ledger := rfl
@[simp] theorem updStack_ilk (s : State) (d : Nat) (f : Stack → Stack) : (s.updStack d f).ilk = s.ilk := rfl
@[simp] theorem updStack_safety (s : State) (d : Nat) (f : Stack → Stack) : (s.updStack d f).safety = s.safety := rfl
@[simp] theorem updStack_ports (s : State) (d : Nat) (f : Stack → Stack) : (s.updStack d f).ports = s.ports := rfl
@[simp] theorem updStack_convoy (s : State) (d : Nat) (f : Stack → Stack) : (s.updStack d f).convoy = s.convoy := rfl
@[simp] theorem updStack_sec (s : State) (d : Nat) (f : Stack → Stack) : (s.updStack d f).sec = s.sec := rfl
@[simp] theorem updStack_power (s : State) (d : Nat) (f : Stack → Stack) : (s.updStack d f).power = s.power := rfl
@[simp] theorem updStack_links (s : State) (d : Nat) (f : Stack → Stack) : (s.updStack d f).links = s.links := rfl
@[simp] theorem updStack_signals (s : State) (d : Nat) (f : Stack → Stack) : (s.updStack d f).signals = s.signals := rfl
@[simp] theorem updStack_arbs (s : State) (d : Nat) (f : Stack → Stack) : (s.updStack d f).arbs = s.arbs := rfl
@[simp] theorem updStack_mon (s : State) (d : Nat) (f : Stack → Stack) : (s.updStack d f).mon = s.mon := rfl
@[simp] theorem updStack_pins (s : State) (d : Nat) (f : Stack → Stack) : (s.updStack d f).pins = s.pins := rfl

@[simp] theorem updTherm_pending (s : State) (d : Nat) (f : DieTherm → DieTherm) : (s.updTherm d f).pending = s.pending := rfl
@[simp] theorem updTherm_clk (s : State) (d : Nat) (f : DieTherm → DieTherm) : (s.updTherm d f).clk = s.clk := rfl
@[simp] theorem updTherm_now (s : State) (d : Nat) (f : DieTherm → DieTherm) : (s.updTherm d f).now = s.now := rfl
@[simp] theorem updTherm_free (s : State) (d : Nat) (f : DieTherm → DieTherm) : (s.updTherm d f).free = s.free := rfl
@[simp] theorem updTherm_fuses (s : State) (d : Nat) (f : DieTherm → DieTherm) : (s.updTherm d f).fuses = s.fuses := rfl
@[simp] theorem updTherm_flash (s : State) (d : Nat) (f : DieTherm → DieTherm) : (s.updTherm d f).flash = s.flash := rfl
@[simp] theorem updTherm_regs (s : State) (d : Nat) (f : DieTherm → DieTherm) : (s.updTherm d f).regs = s.regs := rfl
@[simp] theorem updTherm_errq (s : State) (d : Nat) (f : DieTherm → DieTherm) : (s.updTherm d f).errq = s.errq := rfl
@[simp] theorem updTherm_errOvf (s : State) (d : Nat) (f : DieTherm → DieTherm) : (s.updTherm d f).errOvf = s.errOvf := rfl
@[simp] theorem updTherm_cnt (s : State) (d : Nat) (f : DieTherm → DieTherm) : (s.updTherm d f).cnt = s.cnt := rfl
@[simp] theorem updTherm_cntHeld (s : State) (d : Nat) (f : DieTherm → DieTherm) : (s.updTherm d f).cntHeld = s.cntHeld := rfl
@[simp] theorem updTherm_cntReload (s : State) (d : Nat) (f : DieTherm → DieTherm) : (s.updTherm d f).cntReload = s.cntReload := rfl
@[simp] theorem updTherm_cntCapture (s : State) (d : Nat) (f : DieTherm → DieTherm) : (s.updTherm d f).cntCapture = s.cntCapture := rfl
@[simp] theorem updTherm_cntLevel (s : State) (d : Nat) (f : DieTherm → DieTherm) : (s.updTherm d f).cntLevel = s.cntLevel := rfl
@[simp] theorem updTherm_evs (s : State) (d : Nat) (f : DieTherm → DieTherm) : (s.updTherm d f).evs = s.evs := rfl
@[simp] theorem updTherm_mem (s : State) (d : Nat) (f : DieTherm → DieTherm) : (s.updTherm d f).mem = s.mem := rfl
@[simp] theorem updTherm_start (s : State) (d : Nat) (f : DieTherm → DieTherm) : (s.updTherm d f).start = s.start := rfl
@[simp] theorem updTherm_svc (s : State) (d : Nat) (f : DieTherm → DieTherm) : (s.updTherm d f).svc = s.svc := rfl
@[simp] theorem updTherm_tiles (s : State) (d : Nat) (f : DieTherm → DieTherm) : (s.updTherm d f).tiles = s.tiles := rfl
@[simp] theorem updTherm_disp (s : State) (d : Nat) (f : DieTherm → DieTherm) : (s.updTherm d f).disp = s.disp := rfl
@[simp] theorem updTherm_ledger (s : State) (d : Nat) (f : DieTherm → DieTherm) : (s.updTherm d f).ledger = s.ledger := rfl
@[simp] theorem updTherm_ilk (s : State) (d : Nat) (f : DieTherm → DieTherm) : (s.updTherm d f).ilk = s.ilk := rfl
@[simp] theorem updTherm_safety (s : State) (d : Nat) (f : DieTherm → DieTherm) : (s.updTherm d f).safety = s.safety := rfl
@[simp] theorem updTherm_ports (s : State) (d : Nat) (f : DieTherm → DieTherm) : (s.updTherm d f).ports = s.ports := rfl
@[simp] theorem updTherm_convoy (s : State) (d : Nat) (f : DieTherm → DieTherm) : (s.updTherm d f).convoy = s.convoy := rfl
@[simp] theorem updTherm_sec (s : State) (d : Nat) (f : DieTherm → DieTherm) : (s.updTherm d f).sec = s.sec := rfl
@[simp] theorem updTherm_power (s : State) (d : Nat) (f : DieTherm → DieTherm) : (s.updTherm d f).power = s.power := rfl
@[simp] theorem updTherm_links (s : State) (d : Nat) (f : DieTherm → DieTherm) : (s.updTherm d f).links = s.links := rfl
@[simp] theorem updTherm_signals (s : State) (d : Nat) (f : DieTherm → DieTherm) : (s.updTherm d f).signals = s.signals := rfl
@[simp] theorem updTherm_arbs (s : State) (d : Nat) (f : DieTherm → DieTherm) : (s.updTherm d f).arbs = s.arbs := rfl
@[simp] theorem updTherm_mon (s : State) (d : Nat) (f : DieTherm → DieTherm) : (s.updTherm d f).mon = s.mon := rfl
@[simp] theorem updTherm_pins (s : State) (d : Nat) (f : DieTherm → DieTherm) : (s.updTherm d f).pins = s.pins := rfl

@[simp] theorem countOne_pending (s : State) (page : Nat) (n : Nat) (v : Nat) : (s.countOne page n v).pending = s.pending := rfl
@[simp] theorem countOne_clk (s : State) (page : Nat) (n : Nat) (v : Nat) : (s.countOne page n v).clk = s.clk := rfl
@[simp] theorem countOne_now (s : State) (page : Nat) (n : Nat) (v : Nat) : (s.countOne page n v).now = s.now := rfl
@[simp] theorem countOne_free (s : State) (page : Nat) (n : Nat) (v : Nat) : (s.countOne page n v).free = s.free := rfl
@[simp] theorem countOne_fuses (s : State) (page : Nat) (n : Nat) (v : Nat) : (s.countOne page n v).fuses = s.fuses := rfl
@[simp] theorem countOne_flash (s : State) (page : Nat) (n : Nat) (v : Nat) : (s.countOne page n v).flash = s.flash := rfl
@[simp] theorem countOne_regs (s : State) (page : Nat) (n : Nat) (v : Nat) : (s.countOne page n v).regs = s.regs := rfl
@[simp] theorem countOne_errq (s : State) (page : Nat) (n : Nat) (v : Nat) : (s.countOne page n v).errq = s.errq := rfl
@[simp] theorem countOne_errOvf (s : State) (page : Nat) (n : Nat) (v : Nat) : (s.countOne page n v).errOvf = s.errOvf := rfl
@[simp] theorem countOne_cntHeld (s : State) (page : Nat) (n : Nat) (v : Nat) : (s.countOne page n v).cntHeld = s.cntHeld := rfl
@[simp] theorem countOne_cntReload (s : State) (page : Nat) (n : Nat) (v : Nat) : (s.countOne page n v).cntReload = s.cntReload := rfl
@[simp] theorem countOne_cntCapture (s : State) (page : Nat) (n : Nat) (v : Nat) : (s.countOne page n v).cntCapture = s.cntCapture := rfl
@[simp] theorem countOne_evs (s : State) (page : Nat) (n : Nat) (v : Nat) : (s.countOne page n v).evs = s.evs := rfl
@[simp] theorem countOne_mem (s : State) (page : Nat) (n : Nat) (v : Nat) : (s.countOne page n v).mem = s.mem := rfl
@[simp] theorem countOne_start (s : State) (page : Nat) (n : Nat) (v : Nat) : (s.countOne page n v).start = s.start := rfl
@[simp] theorem countOne_svc (s : State) (page : Nat) (n : Nat) (v : Nat) : (s.countOne page n v).svc = s.svc := rfl
@[simp] theorem countOne_tiles (s : State) (page : Nat) (n : Nat) (v : Nat) : (s.countOne page n v).tiles = s.tiles := rfl
@[simp] theorem countOne_disp (s : State) (page : Nat) (n : Nat) (v : Nat) : (s.countOne page n v).disp = s.disp := rfl
@[simp] theorem countOne_ledger (s : State) (page : Nat) (n : Nat) (v : Nat) : (s.countOne page n v).ledger = s.ledger := rfl
@[simp] theorem countOne_ilk (s : State) (page : Nat) (n : Nat) (v : Nat) : (s.countOne page n v).ilk = s.ilk := rfl
@[simp] theorem countOne_dram (s : State) (page : Nat) (n : Nat) (v : Nat) : (s.countOne page n v).dram = s.dram := rfl
@[simp] theorem countOne_safety (s : State) (page : Nat) (n : Nat) (v : Nat) : (s.countOne page n v).safety = s.safety := rfl
@[simp] theorem countOne_ports (s : State) (page : Nat) (n : Nat) (v : Nat) : (s.countOne page n v).ports = s.ports := rfl
@[simp] theorem countOne_convoy (s : State) (page : Nat) (n : Nat) (v : Nat) : (s.countOne page n v).convoy = s.convoy := rfl
@[simp] theorem countOne_sec (s : State) (page : Nat) (n : Nat) (v : Nat) : (s.countOne page n v).sec = s.sec := rfl
@[simp] theorem countOne_power (s : State) (page : Nat) (n : Nat) (v : Nat) : (s.countOne page n v).power = s.power := rfl
@[simp] theorem countOne_links (s : State) (page : Nat) (n : Nat) (v : Nat) : (s.countOne page n v).links = s.links := rfl
@[simp] theorem countOne_signals (s : State) (page : Nat) (n : Nat) (v : Nat) : (s.countOne page n v).signals = s.signals := rfl
@[simp] theorem countOne_arbs (s : State) (page : Nat) (n : Nat) (v : Nat) : (s.countOne page n v).arbs = s.arbs := rfl
@[simp] theorem countOne_mon (s : State) (page : Nat) (n : Nat) (v : Nat) : (s.countOne page n v).mon = s.mon := rfl
@[simp] theorem countOne_pins (s : State) (page : Nat) (n : Nat) (v : Nat) : (s.countOne page n v).pins = s.pins := rfl

@[simp] theorem setTileState_pending (s : State) (t : Nat) (v : Nat) : (s.setTileState t v).pending = s.pending := rfl
@[simp] theorem setTileState_clk (s : State) (t : Nat) (v : Nat) : (s.setTileState t v).clk = s.clk := rfl
@[simp] theorem setTileState_now (s : State) (t : Nat) (v : Nat) : (s.setTileState t v).now = s.now := rfl
@[simp] theorem setTileState_free (s : State) (t : Nat) (v : Nat) : (s.setTileState t v).free = s.free := rfl
@[simp] theorem setTileState_fuses (s : State) (t : Nat) (v : Nat) : (s.setTileState t v).fuses = s.fuses := rfl
@[simp] theorem setTileState_flash (s : State) (t : Nat) (v : Nat) : (s.setTileState t v).flash = s.flash := rfl
@[simp] theorem setTileState_errq (s : State) (t : Nat) (v : Nat) : (s.setTileState t v).errq = s.errq := rfl
@[simp] theorem setTileState_errOvf (s : State) (t : Nat) (v : Nat) : (s.setTileState t v).errOvf = s.errOvf := rfl
@[simp] theorem setTileState_cnt (s : State) (t : Nat) (v : Nat) : (s.setTileState t v).cnt = s.cnt := rfl
@[simp] theorem setTileState_cntHeld (s : State) (t : Nat) (v : Nat) : (s.setTileState t v).cntHeld = s.cntHeld := rfl
@[simp] theorem setTileState_cntReload (s : State) (t : Nat) (v : Nat) : (s.setTileState t v).cntReload = s.cntReload := rfl
@[simp] theorem setTileState_cntCapture (s : State) (t : Nat) (v : Nat) : (s.setTileState t v).cntCapture = s.cntCapture := rfl
@[simp] theorem setTileState_cntLevel (s : State) (t : Nat) (v : Nat) : (s.setTileState t v).cntLevel = s.cntLevel := rfl
@[simp] theorem setTileState_evs (s : State) (t : Nat) (v : Nat) : (s.setTileState t v).evs = s.evs := rfl
@[simp] theorem setTileState_mem (s : State) (t : Nat) (v : Nat) : (s.setTileState t v).mem = s.mem := rfl
@[simp] theorem setTileState_start (s : State) (t : Nat) (v : Nat) : (s.setTileState t v).start = s.start := rfl
@[simp] theorem setTileState_svc (s : State) (t : Nat) (v : Nat) : (s.setTileState t v).svc = s.svc := rfl
@[simp] theorem setTileState_tiles (s : State) (t : Nat) (v : Nat) : (s.setTileState t v).tiles = s.tiles := rfl
@[simp] theorem setTileState_disp (s : State) (t : Nat) (v : Nat) : (s.setTileState t v).disp = s.disp := rfl
@[simp] theorem setTileState_ledger (s : State) (t : Nat) (v : Nat) : (s.setTileState t v).ledger = s.ledger := rfl
@[simp] theorem setTileState_ilk (s : State) (t : Nat) (v : Nat) : (s.setTileState t v).ilk = s.ilk := rfl
@[simp] theorem setTileState_dram (s : State) (t : Nat) (v : Nat) : (s.setTileState t v).dram = s.dram := rfl
@[simp] theorem setTileState_safety (s : State) (t : Nat) (v : Nat) : (s.setTileState t v).safety = s.safety := rfl
@[simp] theorem setTileState_ports (s : State) (t : Nat) (v : Nat) : (s.setTileState t v).ports = s.ports := rfl
@[simp] theorem setTileState_convoy (s : State) (t : Nat) (v : Nat) : (s.setTileState t v).convoy = s.convoy := rfl
@[simp] theorem setTileState_sec (s : State) (t : Nat) (v : Nat) : (s.setTileState t v).sec = s.sec := rfl
@[simp] theorem setTileState_power (s : State) (t : Nat) (v : Nat) : (s.setTileState t v).power = s.power := rfl
@[simp] theorem setTileState_links (s : State) (t : Nat) (v : Nat) : (s.setTileState t v).links = s.links := rfl
@[simp] theorem setTileState_signals (s : State) (t : Nat) (v : Nat) : (s.setTileState t v).signals = s.signals := rfl
@[simp] theorem setTileState_arbs (s : State) (t : Nat) (v : Nat) : (s.setTileState t v).arbs = s.arbs := rfl
@[simp] theorem setTileState_mon (s : State) (t : Nat) (v : Nat) : (s.setTileState t v).mon = s.mon := rfl
@[simp] theorem setTileState_pins (s : State) (t : Nat) (v : Nat) : (s.setTileState t v).pins = s.pins := rfl

@[simp] theorem updPlaced_pending (s : State) (wid : Nat) (f : Placement → Placement) : (s.updPlaced wid f).pending = s.pending := rfl
@[simp] theorem updPlaced_clk (s : State) (wid : Nat) (f : Placement → Placement) : (s.updPlaced wid f).clk = s.clk := rfl
@[simp] theorem updPlaced_now (s : State) (wid : Nat) (f : Placement → Placement) : (s.updPlaced wid f).now = s.now := rfl
@[simp] theorem updPlaced_free (s : State) (wid : Nat) (f : Placement → Placement) : (s.updPlaced wid f).free = s.free := rfl
@[simp] theorem updPlaced_fuses (s : State) (wid : Nat) (f : Placement → Placement) : (s.updPlaced wid f).fuses = s.fuses := rfl
@[simp] theorem updPlaced_flash (s : State) (wid : Nat) (f : Placement → Placement) : (s.updPlaced wid f).flash = s.flash := rfl
@[simp] theorem updPlaced_regs (s : State) (wid : Nat) (f : Placement → Placement) : (s.updPlaced wid f).regs = s.regs := rfl
@[simp] theorem updPlaced_errq (s : State) (wid : Nat) (f : Placement → Placement) : (s.updPlaced wid f).errq = s.errq := rfl
@[simp] theorem updPlaced_errOvf (s : State) (wid : Nat) (f : Placement → Placement) : (s.updPlaced wid f).errOvf = s.errOvf := rfl
@[simp] theorem updPlaced_cnt (s : State) (wid : Nat) (f : Placement → Placement) : (s.updPlaced wid f).cnt = s.cnt := rfl
@[simp] theorem updPlaced_cntHeld (s : State) (wid : Nat) (f : Placement → Placement) : (s.updPlaced wid f).cntHeld = s.cntHeld := rfl
@[simp] theorem updPlaced_cntReload (s : State) (wid : Nat) (f : Placement → Placement) : (s.updPlaced wid f).cntReload = s.cntReload := rfl
@[simp] theorem updPlaced_cntCapture (s : State) (wid : Nat) (f : Placement → Placement) : (s.updPlaced wid f).cntCapture = s.cntCapture := rfl
@[simp] theorem updPlaced_cntLevel (s : State) (wid : Nat) (f : Placement → Placement) : (s.updPlaced wid f).cntLevel = s.cntLevel := rfl
@[simp] theorem updPlaced_evs (s : State) (wid : Nat) (f : Placement → Placement) : (s.updPlaced wid f).evs = s.evs := rfl
@[simp] theorem updPlaced_mem (s : State) (wid : Nat) (f : Placement → Placement) : (s.updPlaced wid f).mem = s.mem := rfl
@[simp] theorem updPlaced_start (s : State) (wid : Nat) (f : Placement → Placement) : (s.updPlaced wid f).start = s.start := rfl
@[simp] theorem updPlaced_svc (s : State) (wid : Nat) (f : Placement → Placement) : (s.updPlaced wid f).svc = s.svc := rfl
@[simp] theorem updPlaced_tiles (s : State) (wid : Nat) (f : Placement → Placement) : (s.updPlaced wid f).tiles = s.tiles := rfl
@[simp] theorem updPlaced_ledger (s : State) (wid : Nat) (f : Placement → Placement) : (s.updPlaced wid f).ledger = s.ledger := rfl
@[simp] theorem updPlaced_ilk (s : State) (wid : Nat) (f : Placement → Placement) : (s.updPlaced wid f).ilk = s.ilk := rfl
@[simp] theorem updPlaced_dram (s : State) (wid : Nat) (f : Placement → Placement) : (s.updPlaced wid f).dram = s.dram := rfl
@[simp] theorem updPlaced_safety (s : State) (wid : Nat) (f : Placement → Placement) : (s.updPlaced wid f).safety = s.safety := rfl
@[simp] theorem updPlaced_ports (s : State) (wid : Nat) (f : Placement → Placement) : (s.updPlaced wid f).ports = s.ports := rfl
@[simp] theorem updPlaced_convoy (s : State) (wid : Nat) (f : Placement → Placement) : (s.updPlaced wid f).convoy = s.convoy := rfl
@[simp] theorem updPlaced_sec (s : State) (wid : Nat) (f : Placement → Placement) : (s.updPlaced wid f).sec = s.sec := rfl
@[simp] theorem updPlaced_power (s : State) (wid : Nat) (f : Placement → Placement) : (s.updPlaced wid f).power = s.power := rfl
@[simp] theorem updPlaced_links (s : State) (wid : Nat) (f : Placement → Placement) : (s.updPlaced wid f).links = s.links := rfl
@[simp] theorem updPlaced_signals (s : State) (wid : Nat) (f : Placement → Placement) : (s.updPlaced wid f).signals = s.signals := rfl
@[simp] theorem updPlaced_arbs (s : State) (wid : Nat) (f : Placement → Placement) : (s.updPlaced wid f).arbs = s.arbs := rfl
@[simp] theorem updPlaced_mon (s : State) (wid : Nat) (f : Placement → Placement) : (s.updPlaced wid f).mon = s.mon := rfl
@[simp] theorem updPlaced_pins (s : State) (wid : Nat) (f : Placement → Placement) : (s.updPlaced wid f).pins = s.pins := rfl

@[simp] theorem updBerth_pending (s : State) (t : Nat) (n : Nat) (f : BerthInfo → BerthInfo) : (s.updBerth t n f).pending = s.pending := rfl
@[simp] theorem updBerth_clk (s : State) (t : Nat) (n : Nat) (f : BerthInfo → BerthInfo) : (s.updBerth t n f).clk = s.clk := rfl
@[simp] theorem updBerth_now (s : State) (t : Nat) (n : Nat) (f : BerthInfo → BerthInfo) : (s.updBerth t n f).now = s.now := rfl
@[simp] theorem updBerth_free (s : State) (t : Nat) (n : Nat) (f : BerthInfo → BerthInfo) : (s.updBerth t n f).free = s.free := rfl
@[simp] theorem updBerth_fuses (s : State) (t : Nat) (n : Nat) (f : BerthInfo → BerthInfo) : (s.updBerth t n f).fuses = s.fuses := rfl
@[simp] theorem updBerth_flash (s : State) (t : Nat) (n : Nat) (f : BerthInfo → BerthInfo) : (s.updBerth t n f).flash = s.flash := rfl
@[simp] theorem updBerth_regs (s : State) (t : Nat) (n : Nat) (f : BerthInfo → BerthInfo) : (s.updBerth t n f).regs = s.regs := rfl
@[simp] theorem updBerth_errq (s : State) (t : Nat) (n : Nat) (f : BerthInfo → BerthInfo) : (s.updBerth t n f).errq = s.errq := rfl
@[simp] theorem updBerth_errOvf (s : State) (t : Nat) (n : Nat) (f : BerthInfo → BerthInfo) : (s.updBerth t n f).errOvf = s.errOvf := rfl
@[simp] theorem updBerth_cnt (s : State) (t : Nat) (n : Nat) (f : BerthInfo → BerthInfo) : (s.updBerth t n f).cnt = s.cnt := rfl
@[simp] theorem updBerth_cntHeld (s : State) (t : Nat) (n : Nat) (f : BerthInfo → BerthInfo) : (s.updBerth t n f).cntHeld = s.cntHeld := rfl
@[simp] theorem updBerth_cntReload (s : State) (t : Nat) (n : Nat) (f : BerthInfo → BerthInfo) : (s.updBerth t n f).cntReload = s.cntReload := rfl
@[simp] theorem updBerth_cntCapture (s : State) (t : Nat) (n : Nat) (f : BerthInfo → BerthInfo) : (s.updBerth t n f).cntCapture = s.cntCapture := rfl
@[simp] theorem updBerth_cntLevel (s : State) (t : Nat) (n : Nat) (f : BerthInfo → BerthInfo) : (s.updBerth t n f).cntLevel = s.cntLevel := rfl
@[simp] theorem updBerth_evs (s : State) (t : Nat) (n : Nat) (f : BerthInfo → BerthInfo) : (s.updBerth t n f).evs = s.evs := rfl
@[simp] theorem updBerth_mem (s : State) (t : Nat) (n : Nat) (f : BerthInfo → BerthInfo) : (s.updBerth t n f).mem = s.mem := rfl
@[simp] theorem updBerth_start (s : State) (t : Nat) (n : Nat) (f : BerthInfo → BerthInfo) : (s.updBerth t n f).start = s.start := rfl
@[simp] theorem updBerth_svc (s : State) (t : Nat) (n : Nat) (f : BerthInfo → BerthInfo) : (s.updBerth t n f).svc = s.svc := rfl
@[simp] theorem updBerth_disp (s : State) (t : Nat) (n : Nat) (f : BerthInfo → BerthInfo) : (s.updBerth t n f).disp = s.disp := rfl
@[simp] theorem updBerth_ledger (s : State) (t : Nat) (n : Nat) (f : BerthInfo → BerthInfo) : (s.updBerth t n f).ledger = s.ledger := rfl
@[simp] theorem updBerth_ilk (s : State) (t : Nat) (n : Nat) (f : BerthInfo → BerthInfo) : (s.updBerth t n f).ilk = s.ilk := rfl
@[simp] theorem updBerth_dram (s : State) (t : Nat) (n : Nat) (f : BerthInfo → BerthInfo) : (s.updBerth t n f).dram = s.dram := rfl
@[simp] theorem updBerth_safety (s : State) (t : Nat) (n : Nat) (f : BerthInfo → BerthInfo) : (s.updBerth t n f).safety = s.safety := rfl
@[simp] theorem updBerth_ports (s : State) (t : Nat) (n : Nat) (f : BerthInfo → BerthInfo) : (s.updBerth t n f).ports = s.ports := rfl
@[simp] theorem updBerth_convoy (s : State) (t : Nat) (n : Nat) (f : BerthInfo → BerthInfo) : (s.updBerth t n f).convoy = s.convoy := rfl
@[simp] theorem updBerth_sec (s : State) (t : Nat) (n : Nat) (f : BerthInfo → BerthInfo) : (s.updBerth t n f).sec = s.sec := rfl
@[simp] theorem updBerth_power (s : State) (t : Nat) (n : Nat) (f : BerthInfo → BerthInfo) : (s.updBerth t n f).power = s.power := rfl
@[simp] theorem updBerth_links (s : State) (t : Nat) (n : Nat) (f : BerthInfo → BerthInfo) : (s.updBerth t n f).links = s.links := rfl
@[simp] theorem updBerth_signals (s : State) (t : Nat) (n : Nat) (f : BerthInfo → BerthInfo) : (s.updBerth t n f).signals = s.signals := rfl
@[simp] theorem updBerth_arbs (s : State) (t : Nat) (n : Nat) (f : BerthInfo → BerthInfo) : (s.updBerth t n f).arbs = s.arbs := rfl
@[simp] theorem updBerth_mon (s : State) (t : Nat) (n : Nat) (f : BerthInfo → BerthInfo) : (s.updBerth t n f).mon = s.mon := rfl
@[simp] theorem updBerth_pins (s : State) (t : Nat) (n : Nat) (f : BerthInfo → BerthInfo) : (s.updBerth t n f).pins = s.pins := rfl

@[simp] theorem answer_pending (s : State) (e : MonEnd) (ws : List Nat) : (s.answer e ws).pending = s.pending := rfl
@[simp] theorem answer_clk (s : State) (e : MonEnd) (ws : List Nat) : (s.answer e ws).clk = s.clk := rfl
@[simp] theorem answer_now (s : State) (e : MonEnd) (ws : List Nat) : (s.answer e ws).now = s.now := rfl
@[simp] theorem answer_free (s : State) (e : MonEnd) (ws : List Nat) : (s.answer e ws).free = s.free := rfl
@[simp] theorem answer_fuses (s : State) (e : MonEnd) (ws : List Nat) : (s.answer e ws).fuses = s.fuses := rfl
@[simp] theorem answer_flash (s : State) (e : MonEnd) (ws : List Nat) : (s.answer e ws).flash = s.flash := rfl
@[simp] theorem answer_regs (s : State) (e : MonEnd) (ws : List Nat) : (s.answer e ws).regs = s.regs := rfl
@[simp] theorem answer_errq (s : State) (e : MonEnd) (ws : List Nat) : (s.answer e ws).errq = s.errq := rfl
@[simp] theorem answer_errOvf (s : State) (e : MonEnd) (ws : List Nat) : (s.answer e ws).errOvf = s.errOvf := rfl
@[simp] theorem answer_cnt (s : State) (e : MonEnd) (ws : List Nat) : (s.answer e ws).cnt = s.cnt := rfl
@[simp] theorem answer_cntHeld (s : State) (e : MonEnd) (ws : List Nat) : (s.answer e ws).cntHeld = s.cntHeld := rfl
@[simp] theorem answer_cntReload (s : State) (e : MonEnd) (ws : List Nat) : (s.answer e ws).cntReload = s.cntReload := rfl
@[simp] theorem answer_cntCapture (s : State) (e : MonEnd) (ws : List Nat) : (s.answer e ws).cntCapture = s.cntCapture := rfl
@[simp] theorem answer_cntLevel (s : State) (e : MonEnd) (ws : List Nat) : (s.answer e ws).cntLevel = s.cntLevel := rfl
@[simp] theorem answer_evs (s : State) (e : MonEnd) (ws : List Nat) : (s.answer e ws).evs = s.evs := rfl
@[simp] theorem answer_mem (s : State) (e : MonEnd) (ws : List Nat) : (s.answer e ws).mem = s.mem := rfl
@[simp] theorem answer_start (s : State) (e : MonEnd) (ws : List Nat) : (s.answer e ws).start = s.start := rfl
@[simp] theorem answer_svc (s : State) (e : MonEnd) (ws : List Nat) : (s.answer e ws).svc = s.svc := rfl
@[simp] theorem answer_tiles (s : State) (e : MonEnd) (ws : List Nat) : (s.answer e ws).tiles = s.tiles := rfl
@[simp] theorem answer_disp (s : State) (e : MonEnd) (ws : List Nat) : (s.answer e ws).disp = s.disp := rfl
@[simp] theorem answer_ledger (s : State) (e : MonEnd) (ws : List Nat) : (s.answer e ws).ledger = s.ledger := rfl
@[simp] theorem answer_ilk (s : State) (e : MonEnd) (ws : List Nat) : (s.answer e ws).ilk = s.ilk := rfl
@[simp] theorem answer_dram (s : State) (e : MonEnd) (ws : List Nat) : (s.answer e ws).dram = s.dram := rfl
@[simp] theorem answer_safety (s : State) (e : MonEnd) (ws : List Nat) : (s.answer e ws).safety = s.safety := rfl
@[simp] theorem answer_ports (s : State) (e : MonEnd) (ws : List Nat) : (s.answer e ws).ports = s.ports := rfl
@[simp] theorem answer_convoy (s : State) (e : MonEnd) (ws : List Nat) : (s.answer e ws).convoy = s.convoy := rfl
@[simp] theorem answer_sec (s : State) (e : MonEnd) (ws : List Nat) : (s.answer e ws).sec = s.sec := rfl
@[simp] theorem answer_power (s : State) (e : MonEnd) (ws : List Nat) : (s.answer e ws).power = s.power := rfl
@[simp] theorem answer_links (s : State) (e : MonEnd) (ws : List Nat) : (s.answer e ws).links = s.links := rfl
@[simp] theorem answer_signals (s : State) (e : MonEnd) (ws : List Nat) : (s.answer e ws).signals = s.signals := rfl
@[simp] theorem answer_arbs (s : State) (e : MonEnd) (ws : List Nat) : (s.answer e ws).arbs = s.arbs := rfl
@[simp] theorem answer_pins (s : State) (e : MonEnd) (ws : List Nat) : (s.answer e ws).pins = s.pins := rfl

@[simp] theorem unmark_pending (s : State) (l : Nat) : (s.unmark l).pending = s.pending := rfl
@[simp] theorem unmark_clk (s : State) (l : Nat) : (s.unmark l).clk = s.clk := rfl
@[simp] theorem unmark_now (s : State) (l : Nat) : (s.unmark l).now = s.now := rfl
@[simp] theorem unmark_free (s : State) (l : Nat) : (s.unmark l).free = s.free := rfl
@[simp] theorem unmark_fuses (s : State) (l : Nat) : (s.unmark l).fuses = s.fuses := rfl
@[simp] theorem unmark_flash (s : State) (l : Nat) : (s.unmark l).flash = s.flash := rfl
@[simp] theorem unmark_regs (s : State) (l : Nat) : (s.unmark l).regs = s.regs := rfl
@[simp] theorem unmark_errq (s : State) (l : Nat) : (s.unmark l).errq = s.errq := rfl
@[simp] theorem unmark_errOvf (s : State) (l : Nat) : (s.unmark l).errOvf = s.errOvf := rfl
@[simp] theorem unmark_cnt (s : State) (l : Nat) : (s.unmark l).cnt = s.cnt := rfl
@[simp] theorem unmark_cntHeld (s : State) (l : Nat) : (s.unmark l).cntHeld = s.cntHeld := rfl
@[simp] theorem unmark_cntReload (s : State) (l : Nat) : (s.unmark l).cntReload = s.cntReload := rfl
@[simp] theorem unmark_cntCapture (s : State) (l : Nat) : (s.unmark l).cntCapture = s.cntCapture := rfl
@[simp] theorem unmark_cntLevel (s : State) (l : Nat) : (s.unmark l).cntLevel = s.cntLevel := rfl
@[simp] theorem unmark_evs (s : State) (l : Nat) : (s.unmark l).evs = s.evs := rfl
@[simp] theorem unmark_mem (s : State) (l : Nat) : (s.unmark l).mem = s.mem := rfl
@[simp] theorem unmark_start (s : State) (l : Nat) : (s.unmark l).start = s.start := rfl
@[simp] theorem unmark_svc (s : State) (l : Nat) : (s.unmark l).svc = s.svc := rfl
@[simp] theorem unmark_tiles (s : State) (l : Nat) : (s.unmark l).tiles = s.tiles := rfl
@[simp] theorem unmark_disp (s : State) (l : Nat) : (s.unmark l).disp = s.disp := rfl
@[simp] theorem unmark_ledger (s : State) (l : Nat) : (s.unmark l).ledger = s.ledger := rfl
@[simp] theorem unmark_ilk (s : State) (l : Nat) : (s.unmark l).ilk = s.ilk := rfl
@[simp] theorem unmark_safety (s : State) (l : Nat) : (s.unmark l).safety = s.safety := rfl
@[simp] theorem unmark_ports (s : State) (l : Nat) : (s.unmark l).ports = s.ports := rfl
@[simp] theorem unmark_convoy (s : State) (l : Nat) : (s.unmark l).convoy = s.convoy := rfl
@[simp] theorem unmark_sec (s : State) (l : Nat) : (s.unmark l).sec = s.sec := rfl
@[simp] theorem unmark_power (s : State) (l : Nat) : (s.unmark l).power = s.power := rfl
@[simp] theorem unmark_links (s : State) (l : Nat) : (s.unmark l).links = s.links := rfl
@[simp] theorem unmark_signals (s : State) (l : Nat) : (s.unmark l).signals = s.signals := rfl
@[simp] theorem unmark_arbs (s : State) (l : Nat) : (s.unmark l).arbs = s.arbs := rfl
@[simp] theorem unmark_mon (s : State) (l : Nat) : (s.unmark l).mon = s.mon := rfl
@[simp] theorem unmark_pins (s : State) (l : Nat) : (s.unmark l).pins = s.pins := rfl

@[simp] theorem updConsist_pending (s : State) (n : Nat) (f : Consist → Consist) : (s.updConsist n f).pending = s.pending := rfl
@[simp] theorem updConsist_clk (s : State) (n : Nat) (f : Consist → Consist) : (s.updConsist n f).clk = s.clk := rfl
@[simp] theorem updConsist_now (s : State) (n : Nat) (f : Consist → Consist) : (s.updConsist n f).now = s.now := rfl
@[simp] theorem updConsist_free (s : State) (n : Nat) (f : Consist → Consist) : (s.updConsist n f).free = s.free := rfl
@[simp] theorem updConsist_fuses (s : State) (n : Nat) (f : Consist → Consist) : (s.updConsist n f).fuses = s.fuses := rfl
@[simp] theorem updConsist_flash (s : State) (n : Nat) (f : Consist → Consist) : (s.updConsist n f).flash = s.flash := rfl
@[simp] theorem updConsist_regs (s : State) (n : Nat) (f : Consist → Consist) : (s.updConsist n f).regs = s.regs := rfl
@[simp] theorem updConsist_errq (s : State) (n : Nat) (f : Consist → Consist) : (s.updConsist n f).errq = s.errq := rfl
@[simp] theorem updConsist_errOvf (s : State) (n : Nat) (f : Consist → Consist) : (s.updConsist n f).errOvf = s.errOvf := rfl
@[simp] theorem updConsist_cnt (s : State) (n : Nat) (f : Consist → Consist) : (s.updConsist n f).cnt = s.cnt := rfl
@[simp] theorem updConsist_cntHeld (s : State) (n : Nat) (f : Consist → Consist) : (s.updConsist n f).cntHeld = s.cntHeld := rfl
@[simp] theorem updConsist_cntReload (s : State) (n : Nat) (f : Consist → Consist) : (s.updConsist n f).cntReload = s.cntReload := rfl
@[simp] theorem updConsist_cntCapture (s : State) (n : Nat) (f : Consist → Consist) : (s.updConsist n f).cntCapture = s.cntCapture := rfl
@[simp] theorem updConsist_cntLevel (s : State) (n : Nat) (f : Consist → Consist) : (s.updConsist n f).cntLevel = s.cntLevel := rfl
@[simp] theorem updConsist_evs (s : State) (n : Nat) (f : Consist → Consist) : (s.updConsist n f).evs = s.evs := rfl
@[simp] theorem updConsist_mem (s : State) (n : Nat) (f : Consist → Consist) : (s.updConsist n f).mem = s.mem := rfl
@[simp] theorem updConsist_start (s : State) (n : Nat) (f : Consist → Consist) : (s.updConsist n f).start = s.start := rfl
@[simp] theorem updConsist_svc (s : State) (n : Nat) (f : Consist → Consist) : (s.updConsist n f).svc = s.svc := rfl
@[simp] theorem updConsist_tiles (s : State) (n : Nat) (f : Consist → Consist) : (s.updConsist n f).tiles = s.tiles := rfl
@[simp] theorem updConsist_disp (s : State) (n : Nat) (f : Consist → Consist) : (s.updConsist n f).disp = s.disp := rfl
@[simp] theorem updConsist_ledger (s : State) (n : Nat) (f : Consist → Consist) : (s.updConsist n f).ledger = s.ledger := rfl
@[simp] theorem updConsist_ilk (s : State) (n : Nat) (f : Consist → Consist) : (s.updConsist n f).ilk = s.ilk := rfl
@[simp] theorem updConsist_dram (s : State) (n : Nat) (f : Consist → Consist) : (s.updConsist n f).dram = s.dram := rfl
@[simp] theorem updConsist_safety (s : State) (n : Nat) (f : Consist → Consist) : (s.updConsist n f).safety = s.safety := rfl
@[simp] theorem updConsist_ports (s : State) (n : Nat) (f : Consist → Consist) : (s.updConsist n f).ports = s.ports := rfl
@[simp] theorem updConsist_sec (s : State) (n : Nat) (f : Consist → Consist) : (s.updConsist n f).sec = s.sec := rfl
@[simp] theorem updConsist_power (s : State) (n : Nat) (f : Consist → Consist) : (s.updConsist n f).power = s.power := rfl
@[simp] theorem updConsist_links (s : State) (n : Nat) (f : Consist → Consist) : (s.updConsist n f).links = s.links := rfl
@[simp] theorem updConsist_signals (s : State) (n : Nat) (f : Consist → Consist) : (s.updConsist n f).signals = s.signals := rfl
@[simp] theorem updConsist_arbs (s : State) (n : Nat) (f : Consist → Consist) : (s.updConsist n f).arbs = s.arbs := rfl
@[simp] theorem updConsist_mon (s : State) (n : Nat) (f : Consist → Consist) : (s.updConsist n f).mon = s.mon := rfl
@[simp] theorem updConsist_pins (s : State) (n : Nat) (f : Consist → Consist) : (s.updConsist n f).pins = s.pins := rfl

@[simp] theorem setStep_pending (s : State) (v : Nat) : (s.setStep v).pending = s.pending := rfl
@[simp] theorem setStep_clk (s : State) (v : Nat) : (s.setStep v).clk = s.clk := rfl
@[simp] theorem setStep_now (s : State) (v : Nat) : (s.setStep v).now = s.now := rfl
@[simp] theorem setStep_free (s : State) (v : Nat) : (s.setStep v).free = s.free := rfl
@[simp] theorem setStep_fuses (s : State) (v : Nat) : (s.setStep v).fuses = s.fuses := rfl
@[simp] theorem setStep_flash (s : State) (v : Nat) : (s.setStep v).flash = s.flash := rfl
@[simp] theorem setStep_errq (s : State) (v : Nat) : (s.setStep v).errq = s.errq := rfl
@[simp] theorem setStep_errOvf (s : State) (v : Nat) : (s.setStep v).errOvf = s.errOvf := rfl
@[simp] theorem setStep_cnt (s : State) (v : Nat) : (s.setStep v).cnt = s.cnt := rfl
@[simp] theorem setStep_cntHeld (s : State) (v : Nat) : (s.setStep v).cntHeld = s.cntHeld := rfl
@[simp] theorem setStep_cntReload (s : State) (v : Nat) : (s.setStep v).cntReload = s.cntReload := rfl
@[simp] theorem setStep_cntCapture (s : State) (v : Nat) : (s.setStep v).cntCapture = s.cntCapture := rfl
@[simp] theorem setStep_cntLevel (s : State) (v : Nat) : (s.setStep v).cntLevel = s.cntLevel := rfl
@[simp] theorem setStep_evs (s : State) (v : Nat) : (s.setStep v).evs = s.evs := rfl
@[simp] theorem setStep_mem (s : State) (v : Nat) : (s.setStep v).mem = s.mem := rfl
@[simp] theorem setStep_start (s : State) (v : Nat) : (s.setStep v).start = s.start := rfl
@[simp] theorem setStep_svc (s : State) (v : Nat) : (s.setStep v).svc = s.svc := rfl
@[simp] theorem setStep_tiles (s : State) (v : Nat) : (s.setStep v).tiles = s.tiles := rfl
@[simp] theorem setStep_disp (s : State) (v : Nat) : (s.setStep v).disp = s.disp := rfl
@[simp] theorem setStep_ledger (s : State) (v : Nat) : (s.setStep v).ledger = s.ledger := rfl
@[simp] theorem setStep_ilk (s : State) (v : Nat) : (s.setStep v).ilk = s.ilk := rfl
@[simp] theorem setStep_dram (s : State) (v : Nat) : (s.setStep v).dram = s.dram := rfl
@[simp] theorem setStep_safety (s : State) (v : Nat) : (s.setStep v).safety = s.safety := rfl
@[simp] theorem setStep_ports (s : State) (v : Nat) : (s.setStep v).ports = s.ports := rfl
@[simp] theorem setStep_convoy (s : State) (v : Nat) : (s.setStep v).convoy = s.convoy := rfl
@[simp] theorem setStep_sec (s : State) (v : Nat) : (s.setStep v).sec = s.sec := rfl
@[simp] theorem setStep_power (s : State) (v : Nat) : (s.setStep v).power = s.power := rfl
@[simp] theorem setStep_links (s : State) (v : Nat) : (s.setStep v).links = s.links := rfl
@[simp] theorem setStep_signals (s : State) (v : Nat) : (s.setStep v).signals = s.signals := rfl
@[simp] theorem setStep_arbs (s : State) (v : Nat) : (s.setStep v).arbs = s.arbs := rfl
@[simp] theorem setStep_mon (s : State) (v : Nat) : (s.setStep v).mon = s.mon := rfl
@[simp] theorem setStep_pins (s : State) (v : Nat) : (s.setStep v).pins = s.pins := rfl

@[simp] theorem setService_pending (s : State) (v : Nat) : (s.setService v).pending = s.pending := rfl
@[simp] theorem setService_clk (s : State) (v : Nat) : (s.setService v).clk = s.clk := rfl
@[simp] theorem setService_now (s : State) (v : Nat) : (s.setService v).now = s.now := rfl
@[simp] theorem setService_free (s : State) (v : Nat) : (s.setService v).free = s.free := rfl
@[simp] theorem setService_fuses (s : State) (v : Nat) : (s.setService v).fuses = s.fuses := rfl
@[simp] theorem setService_flash (s : State) (v : Nat) : (s.setService v).flash = s.flash := rfl
@[simp] theorem setService_errq (s : State) (v : Nat) : (s.setService v).errq = s.errq := rfl
@[simp] theorem setService_errOvf (s : State) (v : Nat) : (s.setService v).errOvf = s.errOvf := rfl
@[simp] theorem setService_cnt (s : State) (v : Nat) : (s.setService v).cnt = s.cnt := rfl
@[simp] theorem setService_cntHeld (s : State) (v : Nat) : (s.setService v).cntHeld = s.cntHeld := rfl
@[simp] theorem setService_cntReload (s : State) (v : Nat) : (s.setService v).cntReload = s.cntReload := rfl
@[simp] theorem setService_cntCapture (s : State) (v : Nat) : (s.setService v).cntCapture = s.cntCapture := rfl
@[simp] theorem setService_cntLevel (s : State) (v : Nat) : (s.setService v).cntLevel = s.cntLevel := rfl
@[simp] theorem setService_evs (s : State) (v : Nat) : (s.setService v).evs = s.evs := rfl
@[simp] theorem setService_mem (s : State) (v : Nat) : (s.setService v).mem = s.mem := rfl
@[simp] theorem setService_start (s : State) (v : Nat) : (s.setService v).start = s.start := rfl
@[simp] theorem setService_svc (s : State) (v : Nat) : (s.setService v).svc = s.svc := rfl
@[simp] theorem setService_tiles (s : State) (v : Nat) : (s.setService v).tiles = s.tiles := rfl
@[simp] theorem setService_disp (s : State) (v : Nat) : (s.setService v).disp = s.disp := rfl
@[simp] theorem setService_ledger (s : State) (v : Nat) : (s.setService v).ledger = s.ledger := rfl
@[simp] theorem setService_ilk (s : State) (v : Nat) : (s.setService v).ilk = s.ilk := rfl
@[simp] theorem setService_dram (s : State) (v : Nat) : (s.setService v).dram = s.dram := rfl
@[simp] theorem setService_safety (s : State) (v : Nat) : (s.setService v).safety = s.safety := rfl
@[simp] theorem setService_ports (s : State) (v : Nat) : (s.setService v).ports = s.ports := rfl
@[simp] theorem setService_convoy (s : State) (v : Nat) : (s.setService v).convoy = s.convoy := rfl
@[simp] theorem setService_sec (s : State) (v : Nat) : (s.setService v).sec = s.sec := rfl
@[simp] theorem setService_power (s : State) (v : Nat) : (s.setService v).power = s.power := rfl
@[simp] theorem setService_links (s : State) (v : Nat) : (s.setService v).links = s.links := rfl
@[simp] theorem setService_signals (s : State) (v : Nat) : (s.setService v).signals = s.signals := rfl
@[simp] theorem setService_arbs (s : State) (v : Nat) : (s.setService v).arbs = s.arbs := rfl
@[simp] theorem setService_mon (s : State) (v : Nat) : (s.setService v).mon = s.mon := rfl
@[simp] theorem setService_pins (s : State) (v : Nat) : (s.setService v).pins = s.pins := rfl

@[simp] theorem setSleep_pending (s : State) (p : Nat) (ch : Nat) (z : PortSleep) : (s.setSleep p ch z).pending = s.pending := rfl
@[simp] theorem setSleep_clk (s : State) (p : Nat) (ch : Nat) (z : PortSleep) : (s.setSleep p ch z).clk = s.clk := rfl
@[simp] theorem setSleep_now (s : State) (p : Nat) (ch : Nat) (z : PortSleep) : (s.setSleep p ch z).now = s.now := rfl
@[simp] theorem setSleep_free (s : State) (p : Nat) (ch : Nat) (z : PortSleep) : (s.setSleep p ch z).free = s.free := rfl
@[simp] theorem setSleep_fuses (s : State) (p : Nat) (ch : Nat) (z : PortSleep) : (s.setSleep p ch z).fuses = s.fuses := rfl
@[simp] theorem setSleep_flash (s : State) (p : Nat) (ch : Nat) (z : PortSleep) : (s.setSleep p ch z).flash = s.flash := rfl
@[simp] theorem setSleep_regs (s : State) (p : Nat) (ch : Nat) (z : PortSleep) : (s.setSleep p ch z).regs = s.regs := rfl
@[simp] theorem setSleep_errq (s : State) (p : Nat) (ch : Nat) (z : PortSleep) : (s.setSleep p ch z).errq = s.errq := rfl
@[simp] theorem setSleep_errOvf (s : State) (p : Nat) (ch : Nat) (z : PortSleep) : (s.setSleep p ch z).errOvf = s.errOvf := rfl
@[simp] theorem setSleep_cnt (s : State) (p : Nat) (ch : Nat) (z : PortSleep) : (s.setSleep p ch z).cnt = s.cnt := rfl
@[simp] theorem setSleep_cntHeld (s : State) (p : Nat) (ch : Nat) (z : PortSleep) : (s.setSleep p ch z).cntHeld = s.cntHeld := rfl
@[simp] theorem setSleep_cntReload (s : State) (p : Nat) (ch : Nat) (z : PortSleep) : (s.setSleep p ch z).cntReload = s.cntReload := rfl
@[simp] theorem setSleep_cntCapture (s : State) (p : Nat) (ch : Nat) (z : PortSleep) : (s.setSleep p ch z).cntCapture = s.cntCapture := rfl
@[simp] theorem setSleep_cntLevel (s : State) (p : Nat) (ch : Nat) (z : PortSleep) : (s.setSleep p ch z).cntLevel = s.cntLevel := rfl
@[simp] theorem setSleep_evs (s : State) (p : Nat) (ch : Nat) (z : PortSleep) : (s.setSleep p ch z).evs = s.evs := rfl
@[simp] theorem setSleep_mem (s : State) (p : Nat) (ch : Nat) (z : PortSleep) : (s.setSleep p ch z).mem = s.mem := rfl
@[simp] theorem setSleep_start (s : State) (p : Nat) (ch : Nat) (z : PortSleep) : (s.setSleep p ch z).start = s.start := rfl
@[simp] theorem setSleep_svc (s : State) (p : Nat) (ch : Nat) (z : PortSleep) : (s.setSleep p ch z).svc = s.svc := rfl
@[simp] theorem setSleep_tiles (s : State) (p : Nat) (ch : Nat) (z : PortSleep) : (s.setSleep p ch z).tiles = s.tiles := rfl
@[simp] theorem setSleep_disp (s : State) (p : Nat) (ch : Nat) (z : PortSleep) : (s.setSleep p ch z).disp = s.disp := rfl
@[simp] theorem setSleep_ledger (s : State) (p : Nat) (ch : Nat) (z : PortSleep) : (s.setSleep p ch z).ledger = s.ledger := rfl
@[simp] theorem setSleep_ilk (s : State) (p : Nat) (ch : Nat) (z : PortSleep) : (s.setSleep p ch z).ilk = s.ilk := rfl
@[simp] theorem setSleep_dram (s : State) (p : Nat) (ch : Nat) (z : PortSleep) : (s.setSleep p ch z).dram = s.dram := rfl
@[simp] theorem setSleep_safety (s : State) (p : Nat) (ch : Nat) (z : PortSleep) : (s.setSleep p ch z).safety = s.safety := rfl
@[simp] theorem setSleep_convoy (s : State) (p : Nat) (ch : Nat) (z : PortSleep) : (s.setSleep p ch z).convoy = s.convoy := rfl
@[simp] theorem setSleep_sec (s : State) (p : Nat) (ch : Nat) (z : PortSleep) : (s.setSleep p ch z).sec = s.sec := rfl
@[simp] theorem setSleep_power (s : State) (p : Nat) (ch : Nat) (z : PortSleep) : (s.setSleep p ch z).power = s.power := rfl
@[simp] theorem setSleep_links (s : State) (p : Nat) (ch : Nat) (z : PortSleep) : (s.setSleep p ch z).links = s.links := rfl
@[simp] theorem setSleep_signals (s : State) (p : Nat) (ch : Nat) (z : PortSleep) : (s.setSleep p ch z).signals = s.signals := rfl
@[simp] theorem setSleep_arbs (s : State) (p : Nat) (ch : Nat) (z : PortSleep) : (s.setSleep p ch z).arbs = s.arbs := rfl
@[simp] theorem setSleep_mon (s : State) (p : Nat) (ch : Nat) (z : PortSleep) : (s.setSleep p ch z).mon = s.mon := rfl
@[simp] theorem setSleep_pins (s : State) (p : Nat) (ch : Nat) (z : PortSleep) : (s.setSleep p ch z).pins = s.pins := rfl

@[simp] theorem setProxy_pending (s : State) (p : Nat) (e : Nat) (x : ProxyEntry) : (s.setProxy p e x).pending = s.pending := rfl
@[simp] theorem setProxy_clk (s : State) (p : Nat) (e : Nat) (x : ProxyEntry) : (s.setProxy p e x).clk = s.clk := rfl
@[simp] theorem setProxy_now (s : State) (p : Nat) (e : Nat) (x : ProxyEntry) : (s.setProxy p e x).now = s.now := rfl
@[simp] theorem setProxy_free (s : State) (p : Nat) (e : Nat) (x : ProxyEntry) : (s.setProxy p e x).free = s.free := rfl
@[simp] theorem setProxy_fuses (s : State) (p : Nat) (e : Nat) (x : ProxyEntry) : (s.setProxy p e x).fuses = s.fuses := rfl
@[simp] theorem setProxy_flash (s : State) (p : Nat) (e : Nat) (x : ProxyEntry) : (s.setProxy p e x).flash = s.flash := rfl
@[simp] theorem setProxy_regs (s : State) (p : Nat) (e : Nat) (x : ProxyEntry) : (s.setProxy p e x).regs = s.regs := rfl
@[simp] theorem setProxy_errq (s : State) (p : Nat) (e : Nat) (x : ProxyEntry) : (s.setProxy p e x).errq = s.errq := rfl
@[simp] theorem setProxy_errOvf (s : State) (p : Nat) (e : Nat) (x : ProxyEntry) : (s.setProxy p e x).errOvf = s.errOvf := rfl
@[simp] theorem setProxy_cnt (s : State) (p : Nat) (e : Nat) (x : ProxyEntry) : (s.setProxy p e x).cnt = s.cnt := rfl
@[simp] theorem setProxy_cntHeld (s : State) (p : Nat) (e : Nat) (x : ProxyEntry) : (s.setProxy p e x).cntHeld = s.cntHeld := rfl
@[simp] theorem setProxy_cntReload (s : State) (p : Nat) (e : Nat) (x : ProxyEntry) : (s.setProxy p e x).cntReload = s.cntReload := rfl
@[simp] theorem setProxy_cntCapture (s : State) (p : Nat) (e : Nat) (x : ProxyEntry) : (s.setProxy p e x).cntCapture = s.cntCapture := rfl
@[simp] theorem setProxy_cntLevel (s : State) (p : Nat) (e : Nat) (x : ProxyEntry) : (s.setProxy p e x).cntLevel = s.cntLevel := rfl
@[simp] theorem setProxy_evs (s : State) (p : Nat) (e : Nat) (x : ProxyEntry) : (s.setProxy p e x).evs = s.evs := rfl
@[simp] theorem setProxy_mem (s : State) (p : Nat) (e : Nat) (x : ProxyEntry) : (s.setProxy p e x).mem = s.mem := rfl
@[simp] theorem setProxy_start (s : State) (p : Nat) (e : Nat) (x : ProxyEntry) : (s.setProxy p e x).start = s.start := rfl
@[simp] theorem setProxy_svc (s : State) (p : Nat) (e : Nat) (x : ProxyEntry) : (s.setProxy p e x).svc = s.svc := rfl
@[simp] theorem setProxy_tiles (s : State) (p : Nat) (e : Nat) (x : ProxyEntry) : (s.setProxy p e x).tiles = s.tiles := rfl
@[simp] theorem setProxy_disp (s : State) (p : Nat) (e : Nat) (x : ProxyEntry) : (s.setProxy p e x).disp = s.disp := rfl
@[simp] theorem setProxy_ledger (s : State) (p : Nat) (e : Nat) (x : ProxyEntry) : (s.setProxy p e x).ledger = s.ledger := rfl
@[simp] theorem setProxy_ilk (s : State) (p : Nat) (e : Nat) (x : ProxyEntry) : (s.setProxy p e x).ilk = s.ilk := rfl
@[simp] theorem setProxy_dram (s : State) (p : Nat) (e : Nat) (x : ProxyEntry) : (s.setProxy p e x).dram = s.dram := rfl
@[simp] theorem setProxy_safety (s : State) (p : Nat) (e : Nat) (x : ProxyEntry) : (s.setProxy p e x).safety = s.safety := rfl
@[simp] theorem setProxy_convoy (s : State) (p : Nat) (e : Nat) (x : ProxyEntry) : (s.setProxy p e x).convoy = s.convoy := rfl
@[simp] theorem setProxy_sec (s : State) (p : Nat) (e : Nat) (x : ProxyEntry) : (s.setProxy p e x).sec = s.sec := rfl
@[simp] theorem setProxy_power (s : State) (p : Nat) (e : Nat) (x : ProxyEntry) : (s.setProxy p e x).power = s.power := rfl
@[simp] theorem setProxy_links (s : State) (p : Nat) (e : Nat) (x : ProxyEntry) : (s.setProxy p e x).links = s.links := rfl
@[simp] theorem setProxy_signals (s : State) (p : Nat) (e : Nat) (x : ProxyEntry) : (s.setProxy p e x).signals = s.signals := rfl
@[simp] theorem setProxy_arbs (s : State) (p : Nat) (e : Nat) (x : ProxyEntry) : (s.setProxy p e x).arbs = s.arbs := rfl
@[simp] theorem setProxy_mon (s : State) (p : Nat) (e : Nat) (x : ProxyEntry) : (s.setProxy p e x).mon = s.mon := rfl
@[simp] theorem setProxy_pins (s : State) (p : Nat) (e : Nat) (x : ProxyEntry) : (s.setProxy p e x).pins = s.pins := rfl

@[simp] theorem putRead_pending (s : State) (p : Nat) (bs : List Byte) : (s.putRead p bs).pending = s.pending := rfl
@[simp] theorem putRead_clk (s : State) (p : Nat) (bs : List Byte) : (s.putRead p bs).clk = s.clk := rfl
@[simp] theorem putRead_now (s : State) (p : Nat) (bs : List Byte) : (s.putRead p bs).now = s.now := rfl
@[simp] theorem putRead_free (s : State) (p : Nat) (bs : List Byte) : (s.putRead p bs).free = s.free := rfl
@[simp] theorem putRead_fuses (s : State) (p : Nat) (bs : List Byte) : (s.putRead p bs).fuses = s.fuses := rfl
@[simp] theorem putRead_flash (s : State) (p : Nat) (bs : List Byte) : (s.putRead p bs).flash = s.flash := rfl
@[simp] theorem putRead_regs (s : State) (p : Nat) (bs : List Byte) : (s.putRead p bs).regs = s.regs := rfl
@[simp] theorem putRead_errq (s : State) (p : Nat) (bs : List Byte) : (s.putRead p bs).errq = s.errq := rfl
@[simp] theorem putRead_errOvf (s : State) (p : Nat) (bs : List Byte) : (s.putRead p bs).errOvf = s.errOvf := rfl
@[simp] theorem putRead_cnt (s : State) (p : Nat) (bs : List Byte) : (s.putRead p bs).cnt = s.cnt := rfl
@[simp] theorem putRead_cntHeld (s : State) (p : Nat) (bs : List Byte) : (s.putRead p bs).cntHeld = s.cntHeld := rfl
@[simp] theorem putRead_cntReload (s : State) (p : Nat) (bs : List Byte) : (s.putRead p bs).cntReload = s.cntReload := rfl
@[simp] theorem putRead_cntCapture (s : State) (p : Nat) (bs : List Byte) : (s.putRead p bs).cntCapture = s.cntCapture := rfl
@[simp] theorem putRead_cntLevel (s : State) (p : Nat) (bs : List Byte) : (s.putRead p bs).cntLevel = s.cntLevel := rfl
@[simp] theorem putRead_evs (s : State) (p : Nat) (bs : List Byte) : (s.putRead p bs).evs = s.evs := rfl
@[simp] theorem putRead_mem (s : State) (p : Nat) (bs : List Byte) : (s.putRead p bs).mem = s.mem := rfl
@[simp] theorem putRead_start (s : State) (p : Nat) (bs : List Byte) : (s.putRead p bs).start = s.start := rfl
@[simp] theorem putRead_svc (s : State) (p : Nat) (bs : List Byte) : (s.putRead p bs).svc = s.svc := rfl
@[simp] theorem putRead_tiles (s : State) (p : Nat) (bs : List Byte) : (s.putRead p bs).tiles = s.tiles := rfl
@[simp] theorem putRead_disp (s : State) (p : Nat) (bs : List Byte) : (s.putRead p bs).disp = s.disp := rfl
@[simp] theorem putRead_ledger (s : State) (p : Nat) (bs : List Byte) : (s.putRead p bs).ledger = s.ledger := rfl
@[simp] theorem putRead_ilk (s : State) (p : Nat) (bs : List Byte) : (s.putRead p bs).ilk = s.ilk := rfl
@[simp] theorem putRead_dram (s : State) (p : Nat) (bs : List Byte) : (s.putRead p bs).dram = s.dram := rfl
@[simp] theorem putRead_safety (s : State) (p : Nat) (bs : List Byte) : (s.putRead p bs).safety = s.safety := rfl
@[simp] theorem putRead_convoy (s : State) (p : Nat) (bs : List Byte) : (s.putRead p bs).convoy = s.convoy := rfl
@[simp] theorem putRead_sec (s : State) (p : Nat) (bs : List Byte) : (s.putRead p bs).sec = s.sec := rfl
@[simp] theorem putRead_power (s : State) (p : Nat) (bs : List Byte) : (s.putRead p bs).power = s.power := rfl
@[simp] theorem putRead_links (s : State) (p : Nat) (bs : List Byte) : (s.putRead p bs).links = s.links := rfl
@[simp] theorem putRead_signals (s : State) (p : Nat) (bs : List Byte) : (s.putRead p bs).signals = s.signals := rfl
@[simp] theorem putRead_arbs (s : State) (p : Nat) (bs : List Byte) : (s.putRead p bs).arbs = s.arbs := rfl
@[simp] theorem putRead_mon (s : State) (p : Nat) (bs : List Byte) : (s.putRead p bs).mon = s.mon := rfl
@[simp] theorem putRead_pins (s : State) (p : Nat) (bs : List Byte) : (s.putRead p bs).pins = s.pins := rfl

@[simp] theorem invalidate_pending (s : State) (hit : Nat → Bool) : (s.invalidate hit).pending = s.pending := rfl
@[simp] theorem invalidate_clk (s : State) (hit : Nat → Bool) : (s.invalidate hit).clk = s.clk := rfl
@[simp] theorem invalidate_now (s : State) (hit : Nat → Bool) : (s.invalidate hit).now = s.now := rfl
@[simp] theorem invalidate_free (s : State) (hit : Nat → Bool) : (s.invalidate hit).free = s.free := rfl
@[simp] theorem invalidate_fuses (s : State) (hit : Nat → Bool) : (s.invalidate hit).fuses = s.fuses := rfl
@[simp] theorem invalidate_flash (s : State) (hit : Nat → Bool) : (s.invalidate hit).flash = s.flash := rfl
@[simp] theorem invalidate_regs (s : State) (hit : Nat → Bool) : (s.invalidate hit).regs = s.regs := rfl
@[simp] theorem invalidate_errq (s : State) (hit : Nat → Bool) : (s.invalidate hit).errq = s.errq := rfl
@[simp] theorem invalidate_errOvf (s : State) (hit : Nat → Bool) : (s.invalidate hit).errOvf = s.errOvf := rfl
@[simp] theorem invalidate_cnt (s : State) (hit : Nat → Bool) : (s.invalidate hit).cnt = s.cnt := rfl
@[simp] theorem invalidate_cntHeld (s : State) (hit : Nat → Bool) : (s.invalidate hit).cntHeld = s.cntHeld := rfl
@[simp] theorem invalidate_cntReload (s : State) (hit : Nat → Bool) : (s.invalidate hit).cntReload = s.cntReload := rfl
@[simp] theorem invalidate_cntCapture (s : State) (hit : Nat → Bool) : (s.invalidate hit).cntCapture = s.cntCapture := rfl
@[simp] theorem invalidate_cntLevel (s : State) (hit : Nat → Bool) : (s.invalidate hit).cntLevel = s.cntLevel := rfl
@[simp] theorem invalidate_evs (s : State) (hit : Nat → Bool) : (s.invalidate hit).evs = s.evs := rfl
@[simp] theorem invalidate_mem (s : State) (hit : Nat → Bool) : (s.invalidate hit).mem = s.mem := rfl
@[simp] theorem invalidate_start (s : State) (hit : Nat → Bool) : (s.invalidate hit).start = s.start := rfl
@[simp] theorem invalidate_svc (s : State) (hit : Nat → Bool) : (s.invalidate hit).svc = s.svc := rfl
@[simp] theorem invalidate_tiles (s : State) (hit : Nat → Bool) : (s.invalidate hit).tiles = s.tiles := rfl
@[simp] theorem invalidate_disp (s : State) (hit : Nat → Bool) : (s.invalidate hit).disp = s.disp := rfl
@[simp] theorem invalidate_ilk (s : State) (hit : Nat → Bool) : (s.invalidate hit).ilk = s.ilk := rfl
@[simp] theorem invalidate_dram (s : State) (hit : Nat → Bool) : (s.invalidate hit).dram = s.dram := rfl
@[simp] theorem invalidate_safety (s : State) (hit : Nat → Bool) : (s.invalidate hit).safety = s.safety := rfl
@[simp] theorem invalidate_ports (s : State) (hit : Nat → Bool) : (s.invalidate hit).ports = s.ports := rfl
@[simp] theorem invalidate_convoy (s : State) (hit : Nat → Bool) : (s.invalidate hit).convoy = s.convoy := rfl
@[simp] theorem invalidate_sec (s : State) (hit : Nat → Bool) : (s.invalidate hit).sec = s.sec := rfl
@[simp] theorem invalidate_power (s : State) (hit : Nat → Bool) : (s.invalidate hit).power = s.power := rfl
@[simp] theorem invalidate_links (s : State) (hit : Nat → Bool) : (s.invalidate hit).links = s.links := rfl
@[simp] theorem invalidate_signals (s : State) (hit : Nat → Bool) : (s.invalidate hit).signals = s.signals := rfl
@[simp] theorem invalidate_arbs (s : State) (hit : Nat → Bool) : (s.invalidate hit).arbs = s.arbs := rfl
@[simp] theorem invalidate_mon (s : State) (hit : Nat → Bool) : (s.invalidate hit).mon = s.mon := rfl
@[simp] theorem invalidate_pins (s : State) (hit : Nat → Bool) : (s.invalidate hit).pins = s.pins := rfl

@[simp] theorem setSession_pending (s : State) (t : Nat) (x : Session) : (s.setSession t x).pending = s.pending := rfl
@[simp] theorem setSession_clk (s : State) (t : Nat) (x : Session) : (s.setSession t x).clk = s.clk := rfl
@[simp] theorem setSession_now (s : State) (t : Nat) (x : Session) : (s.setSession t x).now = s.now := rfl
@[simp] theorem setSession_free (s : State) (t : Nat) (x : Session) : (s.setSession t x).free = s.free := rfl
@[simp] theorem setSession_fuses (s : State) (t : Nat) (x : Session) : (s.setSession t x).fuses = s.fuses := rfl
@[simp] theorem setSession_flash (s : State) (t : Nat) (x : Session) : (s.setSession t x).flash = s.flash := rfl
@[simp] theorem setSession_regs (s : State) (t : Nat) (x : Session) : (s.setSession t x).regs = s.regs := rfl
@[simp] theorem setSession_errq (s : State) (t : Nat) (x : Session) : (s.setSession t x).errq = s.errq := rfl
@[simp] theorem setSession_errOvf (s : State) (t : Nat) (x : Session) : (s.setSession t x).errOvf = s.errOvf := rfl
@[simp] theorem setSession_cnt (s : State) (t : Nat) (x : Session) : (s.setSession t x).cnt = s.cnt := rfl
@[simp] theorem setSession_cntHeld (s : State) (t : Nat) (x : Session) : (s.setSession t x).cntHeld = s.cntHeld := rfl
@[simp] theorem setSession_cntReload (s : State) (t : Nat) (x : Session) : (s.setSession t x).cntReload = s.cntReload := rfl
@[simp] theorem setSession_cntCapture (s : State) (t : Nat) (x : Session) : (s.setSession t x).cntCapture = s.cntCapture := rfl
@[simp] theorem setSession_cntLevel (s : State) (t : Nat) (x : Session) : (s.setSession t x).cntLevel = s.cntLevel := rfl
@[simp] theorem setSession_evs (s : State) (t : Nat) (x : Session) : (s.setSession t x).evs = s.evs := rfl
@[simp] theorem setSession_mem (s : State) (t : Nat) (x : Session) : (s.setSession t x).mem = s.mem := rfl
@[simp] theorem setSession_start (s : State) (t : Nat) (x : Session) : (s.setSession t x).start = s.start := rfl
@[simp] theorem setSession_svc (s : State) (t : Nat) (x : Session) : (s.setSession t x).svc = s.svc := rfl
@[simp] theorem setSession_tiles (s : State) (t : Nat) (x : Session) : (s.setSession t x).tiles = s.tiles := rfl
@[simp] theorem setSession_disp (s : State) (t : Nat) (x : Session) : (s.setSession t x).disp = s.disp := rfl
@[simp] theorem setSession_ledger (s : State) (t : Nat) (x : Session) : (s.setSession t x).ledger = s.ledger := rfl
@[simp] theorem setSession_ilk (s : State) (t : Nat) (x : Session) : (s.setSession t x).ilk = s.ilk := rfl
@[simp] theorem setSession_dram (s : State) (t : Nat) (x : Session) : (s.setSession t x).dram = s.dram := rfl
@[simp] theorem setSession_safety (s : State) (t : Nat) (x : Session) : (s.setSession t x).safety = s.safety := rfl
@[simp] theorem setSession_ports (s : State) (t : Nat) (x : Session) : (s.setSession t x).ports = s.ports := rfl
@[simp] theorem setSession_convoy (s : State) (t : Nat) (x : Session) : (s.setSession t x).convoy = s.convoy := rfl
@[simp] theorem setSession_power (s : State) (t : Nat) (x : Session) : (s.setSession t x).power = s.power := rfl
@[simp] theorem setSession_links (s : State) (t : Nat) (x : Session) : (s.setSession t x).links = s.links := rfl
@[simp] theorem setSession_signals (s : State) (t : Nat) (x : Session) : (s.setSession t x).signals = s.signals := rfl
@[simp] theorem setSession_arbs (s : State) (t : Nat) (x : Session) : (s.setSession t x).arbs = s.arbs := rfl
@[simp] theorem setSession_mon (s : State) (t : Nat) (x : Session) : (s.setSession t x).mon = s.mon := rfl
@[simp] theorem setSession_pins (s : State) (t : Nat) (x : Session) : (s.setSession t x).pins = s.pins := rfl

@[simp] theorem pushMove_pending (s : State) (t : Nat) (m : Move) : (s.pushMove t m).pending = s.pending := rfl
@[simp] theorem pushMove_clk (s : State) (t : Nat) (m : Move) : (s.pushMove t m).clk = s.clk := rfl
@[simp] theorem pushMove_now (s : State) (t : Nat) (m : Move) : (s.pushMove t m).now = s.now := rfl
@[simp] theorem pushMove_free (s : State) (t : Nat) (m : Move) : (s.pushMove t m).free = s.free := rfl
@[simp] theorem pushMove_fuses (s : State) (t : Nat) (m : Move) : (s.pushMove t m).fuses = s.fuses := rfl
@[simp] theorem pushMove_flash (s : State) (t : Nat) (m : Move) : (s.pushMove t m).flash = s.flash := rfl
@[simp] theorem pushMove_regs (s : State) (t : Nat) (m : Move) : (s.pushMove t m).regs = s.regs := rfl
@[simp] theorem pushMove_errq (s : State) (t : Nat) (m : Move) : (s.pushMove t m).errq = s.errq := rfl
@[simp] theorem pushMove_errOvf (s : State) (t : Nat) (m : Move) : (s.pushMove t m).errOvf = s.errOvf := rfl
@[simp] theorem pushMove_cnt (s : State) (t : Nat) (m : Move) : (s.pushMove t m).cnt = s.cnt := rfl
@[simp] theorem pushMove_cntHeld (s : State) (t : Nat) (m : Move) : (s.pushMove t m).cntHeld = s.cntHeld := rfl
@[simp] theorem pushMove_cntReload (s : State) (t : Nat) (m : Move) : (s.pushMove t m).cntReload = s.cntReload := rfl
@[simp] theorem pushMove_cntCapture (s : State) (t : Nat) (m : Move) : (s.pushMove t m).cntCapture = s.cntCapture := rfl
@[simp] theorem pushMove_cntLevel (s : State) (t : Nat) (m : Move) : (s.pushMove t m).cntLevel = s.cntLevel := rfl
@[simp] theorem pushMove_evs (s : State) (t : Nat) (m : Move) : (s.pushMove t m).evs = s.evs := rfl
@[simp] theorem pushMove_mem (s : State) (t : Nat) (m : Move) : (s.pushMove t m).mem = s.mem := rfl
@[simp] theorem pushMove_start (s : State) (t : Nat) (m : Move) : (s.pushMove t m).start = s.start := rfl
@[simp] theorem pushMove_svc (s : State) (t : Nat) (m : Move) : (s.pushMove t m).svc = s.svc := rfl
@[simp] theorem pushMove_disp (s : State) (t : Nat) (m : Move) : (s.pushMove t m).disp = s.disp := rfl
@[simp] theorem pushMove_ledger (s : State) (t : Nat) (m : Move) : (s.pushMove t m).ledger = s.ledger := rfl
@[simp] theorem pushMove_ilk (s : State) (t : Nat) (m : Move) : (s.pushMove t m).ilk = s.ilk := rfl
@[simp] theorem pushMove_dram (s : State) (t : Nat) (m : Move) : (s.pushMove t m).dram = s.dram := rfl
@[simp] theorem pushMove_safety (s : State) (t : Nat) (m : Move) : (s.pushMove t m).safety = s.safety := rfl
@[simp] theorem pushMove_ports (s : State) (t : Nat) (m : Move) : (s.pushMove t m).ports = s.ports := rfl
@[simp] theorem pushMove_convoy (s : State) (t : Nat) (m : Move) : (s.pushMove t m).convoy = s.convoy := rfl
@[simp] theorem pushMove_sec (s : State) (t : Nat) (m : Move) : (s.pushMove t m).sec = s.sec := rfl
@[simp] theorem pushMove_power (s : State) (t : Nat) (m : Move) : (s.pushMove t m).power = s.power := rfl
@[simp] theorem pushMove_links (s : State) (t : Nat) (m : Move) : (s.pushMove t m).links = s.links := rfl
@[simp] theorem pushMove_signals (s : State) (t : Nat) (m : Move) : (s.pushMove t m).signals = s.signals := rfl
@[simp] theorem pushMove_arbs (s : State) (t : Nat) (m : Move) : (s.pushMove t m).arbs = s.arbs := rfl
@[simp] theorem pushMove_mon (s : State) (t : Nat) (m : Move) : (s.pushMove t m).mon = s.mon := rfl
@[simp] theorem pushMove_pins (s : State) (t : Nat) (m : Move) : (s.pushMove t m).pins = s.pins := rfl

@[simp] theorem setCursor_pending (s : State) (c : Nat) (k : ClassCursor) : (s.setCursor c k).pending = s.pending := rfl
@[simp] theorem setCursor_clk (s : State) (c : Nat) (k : ClassCursor) : (s.setCursor c k).clk = s.clk := rfl
@[simp] theorem setCursor_now (s : State) (c : Nat) (k : ClassCursor) : (s.setCursor c k).now = s.now := rfl
@[simp] theorem setCursor_free (s : State) (c : Nat) (k : ClassCursor) : (s.setCursor c k).free = s.free := rfl
@[simp] theorem setCursor_fuses (s : State) (c : Nat) (k : ClassCursor) : (s.setCursor c k).fuses = s.fuses := rfl
@[simp] theorem setCursor_flash (s : State) (c : Nat) (k : ClassCursor) : (s.setCursor c k).flash = s.flash := rfl
@[simp] theorem setCursor_regs (s : State) (c : Nat) (k : ClassCursor) : (s.setCursor c k).regs = s.regs := rfl
@[simp] theorem setCursor_errq (s : State) (c : Nat) (k : ClassCursor) : (s.setCursor c k).errq = s.errq := rfl
@[simp] theorem setCursor_errOvf (s : State) (c : Nat) (k : ClassCursor) : (s.setCursor c k).errOvf = s.errOvf := rfl
@[simp] theorem setCursor_cnt (s : State) (c : Nat) (k : ClassCursor) : (s.setCursor c k).cnt = s.cnt := rfl
@[simp] theorem setCursor_cntHeld (s : State) (c : Nat) (k : ClassCursor) : (s.setCursor c k).cntHeld = s.cntHeld := rfl
@[simp] theorem setCursor_cntReload (s : State) (c : Nat) (k : ClassCursor) : (s.setCursor c k).cntReload = s.cntReload := rfl
@[simp] theorem setCursor_cntCapture (s : State) (c : Nat) (k : ClassCursor) : (s.setCursor c k).cntCapture = s.cntCapture := rfl
@[simp] theorem setCursor_cntLevel (s : State) (c : Nat) (k : ClassCursor) : (s.setCursor c k).cntLevel = s.cntLevel := rfl
@[simp] theorem setCursor_evs (s : State) (c : Nat) (k : ClassCursor) : (s.setCursor c k).evs = s.evs := rfl
@[simp] theorem setCursor_mem (s : State) (c : Nat) (k : ClassCursor) : (s.setCursor c k).mem = s.mem := rfl
@[simp] theorem setCursor_start (s : State) (c : Nat) (k : ClassCursor) : (s.setCursor c k).start = s.start := rfl
@[simp] theorem setCursor_svc (s : State) (c : Nat) (k : ClassCursor) : (s.setCursor c k).svc = s.svc := rfl
@[simp] theorem setCursor_tiles (s : State) (c : Nat) (k : ClassCursor) : (s.setCursor c k).tiles = s.tiles := rfl
@[simp] theorem setCursor_ledger (s : State) (c : Nat) (k : ClassCursor) : (s.setCursor c k).ledger = s.ledger := rfl
@[simp] theorem setCursor_ilk (s : State) (c : Nat) (k : ClassCursor) : (s.setCursor c k).ilk = s.ilk := rfl
@[simp] theorem setCursor_dram (s : State) (c : Nat) (k : ClassCursor) : (s.setCursor c k).dram = s.dram := rfl
@[simp] theorem setCursor_safety (s : State) (c : Nat) (k : ClassCursor) : (s.setCursor c k).safety = s.safety := rfl
@[simp] theorem setCursor_ports (s : State) (c : Nat) (k : ClassCursor) : (s.setCursor c k).ports = s.ports := rfl
@[simp] theorem setCursor_convoy (s : State) (c : Nat) (k : ClassCursor) : (s.setCursor c k).convoy = s.convoy := rfl
@[simp] theorem setCursor_sec (s : State) (c : Nat) (k : ClassCursor) : (s.setCursor c k).sec = s.sec := rfl
@[simp] theorem setCursor_power (s : State) (c : Nat) (k : ClassCursor) : (s.setCursor c k).power = s.power := rfl
@[simp] theorem setCursor_links (s : State) (c : Nat) (k : ClassCursor) : (s.setCursor c k).links = s.links := rfl
@[simp] theorem setCursor_signals (s : State) (c : Nat) (k : ClassCursor) : (s.setCursor c k).signals = s.signals := rfl
@[simp] theorem setCursor_arbs (s : State) (c : Nat) (k : ClassCursor) : (s.setCursor c k).arbs = s.arbs := rfl
@[simp] theorem setCursor_mon (s : State) (c : Nat) (k : ClassCursor) : (s.setCursor c k).mon = s.mon := rfl
@[simp] theorem setCursor_pins (s : State) (c : Nat) (k : ClassCursor) : (s.setCursor c k).pins = s.pins := rfl

@[simp] theorem setResult_pending (s : State) (v : Nat) : (s.setResult v).pending = s.pending := rfl
@[simp] theorem setResult_clk (s : State) (v : Nat) : (s.setResult v).clk = s.clk := rfl
@[simp] theorem setResult_now (s : State) (v : Nat) : (s.setResult v).now = s.now := rfl
@[simp] theorem setResult_free (s : State) (v : Nat) : (s.setResult v).free = s.free := rfl
@[simp] theorem setResult_fuses (s : State) (v : Nat) : (s.setResult v).fuses = s.fuses := rfl
@[simp] theorem setResult_flash (s : State) (v : Nat) : (s.setResult v).flash = s.flash := rfl
@[simp] theorem setResult_errq (s : State) (v : Nat) : (s.setResult v).errq = s.errq := rfl
@[simp] theorem setResult_errOvf (s : State) (v : Nat) : (s.setResult v).errOvf = s.errOvf := rfl
@[simp] theorem setResult_cnt (s : State) (v : Nat) : (s.setResult v).cnt = s.cnt := rfl
@[simp] theorem setResult_cntHeld (s : State) (v : Nat) : (s.setResult v).cntHeld = s.cntHeld := rfl
@[simp] theorem setResult_cntReload (s : State) (v : Nat) : (s.setResult v).cntReload = s.cntReload := rfl
@[simp] theorem setResult_cntCapture (s : State) (v : Nat) : (s.setResult v).cntCapture = s.cntCapture := rfl
@[simp] theorem setResult_cntLevel (s : State) (v : Nat) : (s.setResult v).cntLevel = s.cntLevel := rfl
@[simp] theorem setResult_evs (s : State) (v : Nat) : (s.setResult v).evs = s.evs := rfl
@[simp] theorem setResult_mem (s : State) (v : Nat) : (s.setResult v).mem = s.mem := rfl
@[simp] theorem setResult_start (s : State) (v : Nat) : (s.setResult v).start = s.start := rfl
@[simp] theorem setResult_svc (s : State) (v : Nat) : (s.setResult v).svc = s.svc := rfl
@[simp] theorem setResult_tiles (s : State) (v : Nat) : (s.setResult v).tiles = s.tiles := rfl
@[simp] theorem setResult_disp (s : State) (v : Nat) : (s.setResult v).disp = s.disp := rfl
@[simp] theorem setResult_ledger (s : State) (v : Nat) : (s.setResult v).ledger = s.ledger := rfl
@[simp] theorem setResult_ilk (s : State) (v : Nat) : (s.setResult v).ilk = s.ilk := rfl
@[simp] theorem setResult_dram (s : State) (v : Nat) : (s.setResult v).dram = s.dram := rfl
@[simp] theorem setResult_safety (s : State) (v : Nat) : (s.setResult v).safety = s.safety := rfl
@[simp] theorem setResult_ports (s : State) (v : Nat) : (s.setResult v).ports = s.ports := rfl
@[simp] theorem setResult_convoy (s : State) (v : Nat) : (s.setResult v).convoy = s.convoy := rfl
@[simp] theorem setResult_sec (s : State) (v : Nat) : (s.setResult v).sec = s.sec := rfl
@[simp] theorem setResult_power (s : State) (v : Nat) : (s.setResult v).power = s.power := rfl
@[simp] theorem setResult_links (s : State) (v : Nat) : (s.setResult v).links = s.links := rfl
@[simp] theorem setResult_signals (s : State) (v : Nat) : (s.setResult v).signals = s.signals := rfl
@[simp] theorem setResult_arbs (s : State) (v : Nat) : (s.setResult v).arbs = s.arbs := rfl
@[simp] theorem setResult_mon (s : State) (v : Nat) : (s.setResult v).mon = s.mon := rfl
@[simp] theorem setResult_pins (s : State) (v : Nat) : (s.setResult v).pins = s.pins := rfl

@[simp] theorem destroyKey_pending (s : State) (tenant : Nat) (gen : Bool) : (s.destroyKey tenant gen).pending = s.pending := rfl
@[simp] theorem destroyKey_clk (s : State) (tenant : Nat) (gen : Bool) : (s.destroyKey tenant gen).clk = s.clk := rfl
@[simp] theorem destroyKey_now (s : State) (tenant : Nat) (gen : Bool) : (s.destroyKey tenant gen).now = s.now := rfl
@[simp] theorem destroyKey_free (s : State) (tenant : Nat) (gen : Bool) : (s.destroyKey tenant gen).free = s.free := rfl
@[simp] theorem destroyKey_fuses (s : State) (tenant : Nat) (gen : Bool) : (s.destroyKey tenant gen).fuses = s.fuses := rfl
@[simp] theorem destroyKey_flash (s : State) (tenant : Nat) (gen : Bool) : (s.destroyKey tenant gen).flash = s.flash := rfl
@[simp] theorem destroyKey_regs (s : State) (tenant : Nat) (gen : Bool) : (s.destroyKey tenant gen).regs = s.regs := rfl
@[simp] theorem destroyKey_errq (s : State) (tenant : Nat) (gen : Bool) : (s.destroyKey tenant gen).errq = s.errq := rfl
@[simp] theorem destroyKey_errOvf (s : State) (tenant : Nat) (gen : Bool) : (s.destroyKey tenant gen).errOvf = s.errOvf := rfl
@[simp] theorem destroyKey_cnt (s : State) (tenant : Nat) (gen : Bool) : (s.destroyKey tenant gen).cnt = s.cnt := rfl
@[simp] theorem destroyKey_cntHeld (s : State) (tenant : Nat) (gen : Bool) : (s.destroyKey tenant gen).cntHeld = s.cntHeld := rfl
@[simp] theorem destroyKey_cntReload (s : State) (tenant : Nat) (gen : Bool) : (s.destroyKey tenant gen).cntReload = s.cntReload := rfl
@[simp] theorem destroyKey_cntCapture (s : State) (tenant : Nat) (gen : Bool) : (s.destroyKey tenant gen).cntCapture = s.cntCapture := rfl
@[simp] theorem destroyKey_cntLevel (s : State) (tenant : Nat) (gen : Bool) : (s.destroyKey tenant gen).cntLevel = s.cntLevel := rfl
@[simp] theorem destroyKey_evs (s : State) (tenant : Nat) (gen : Bool) : (s.destroyKey tenant gen).evs = s.evs := rfl
@[simp] theorem destroyKey_mem (s : State) (tenant : Nat) (gen : Bool) : (s.destroyKey tenant gen).mem = s.mem := rfl
@[simp] theorem destroyKey_start (s : State) (tenant : Nat) (gen : Bool) : (s.destroyKey tenant gen).start = s.start := rfl
@[simp] theorem destroyKey_svc (s : State) (tenant : Nat) (gen : Bool) : (s.destroyKey tenant gen).svc = s.svc := rfl
@[simp] theorem destroyKey_tiles (s : State) (tenant : Nat) (gen : Bool) : (s.destroyKey tenant gen).tiles = s.tiles := rfl
@[simp] theorem destroyKey_disp (s : State) (tenant : Nat) (gen : Bool) : (s.destroyKey tenant gen).disp = s.disp := rfl
@[simp] theorem destroyKey_ledger (s : State) (tenant : Nat) (gen : Bool) : (s.destroyKey tenant gen).ledger = s.ledger := rfl
@[simp] theorem destroyKey_ilk (s : State) (tenant : Nat) (gen : Bool) : (s.destroyKey tenant gen).ilk = s.ilk := rfl
@[simp] theorem destroyKey_safety (s : State) (tenant : Nat) (gen : Bool) : (s.destroyKey tenant gen).safety = s.safety := rfl
@[simp] theorem destroyKey_ports (s : State) (tenant : Nat) (gen : Bool) : (s.destroyKey tenant gen).ports = s.ports := rfl
@[simp] theorem destroyKey_convoy (s : State) (tenant : Nat) (gen : Bool) : (s.destroyKey tenant gen).convoy = s.convoy := rfl
@[simp] theorem destroyKey_sec (s : State) (tenant : Nat) (gen : Bool) : (s.destroyKey tenant gen).sec = s.sec := rfl
@[simp] theorem destroyKey_power (s : State) (tenant : Nat) (gen : Bool) : (s.destroyKey tenant gen).power = s.power := rfl
@[simp] theorem destroyKey_links (s : State) (tenant : Nat) (gen : Bool) : (s.destroyKey tenant gen).links = s.links := rfl
@[simp] theorem destroyKey_signals (s : State) (tenant : Nat) (gen : Bool) : (s.destroyKey tenant gen).signals = s.signals := rfl
@[simp] theorem destroyKey_arbs (s : State) (tenant : Nat) (gen : Bool) : (s.destroyKey tenant gen).arbs = s.arbs := rfl
@[simp] theorem destroyKey_mon (s : State) (tenant : Nat) (gen : Bool) : (s.destroyKey tenant gen).mon = s.mon := rfl
@[simp] theorem destroyKey_pins (s : State) (tenant : Nat) (gen : Bool) : (s.destroyKey tenant gen).pins = s.pins := rfl

@[simp] theorem pushCompletion_pending (s : State) (c : Completion) : (s.pushCompletion c).pending = s.pending := rfl
@[simp] theorem pushCompletion_clk (s : State) (c : Completion) : (s.pushCompletion c).clk = s.clk := rfl
@[simp] theorem pushCompletion_now (s : State) (c : Completion) : (s.pushCompletion c).now = s.now := rfl
@[simp] theorem pushCompletion_free (s : State) (c : Completion) : (s.pushCompletion c).free = s.free := rfl
@[simp] theorem pushCompletion_fuses (s : State) (c : Completion) : (s.pushCompletion c).fuses = s.fuses := rfl
@[simp] theorem pushCompletion_flash (s : State) (c : Completion) : (s.pushCompletion c).flash = s.flash := rfl
@[simp] theorem pushCompletion_regs (s : State) (c : Completion) : (s.pushCompletion c).regs = s.regs := rfl
@[simp] theorem pushCompletion_errq (s : State) (c : Completion) : (s.pushCompletion c).errq = s.errq := rfl
@[simp] theorem pushCompletion_errOvf (s : State) (c : Completion) : (s.pushCompletion c).errOvf = s.errOvf := rfl
@[simp] theorem pushCompletion_cnt (s : State) (c : Completion) : (s.pushCompletion c).cnt = s.cnt := rfl
@[simp] theorem pushCompletion_cntHeld (s : State) (c : Completion) : (s.pushCompletion c).cntHeld = s.cntHeld := rfl
@[simp] theorem pushCompletion_cntReload (s : State) (c : Completion) : (s.pushCompletion c).cntReload = s.cntReload := rfl
@[simp] theorem pushCompletion_cntCapture (s : State) (c : Completion) : (s.pushCompletion c).cntCapture = s.cntCapture := rfl
@[simp] theorem pushCompletion_cntLevel (s : State) (c : Completion) : (s.pushCompletion c).cntLevel = s.cntLevel := rfl
@[simp] theorem pushCompletion_evs (s : State) (c : Completion) : (s.pushCompletion c).evs = s.evs := rfl
@[simp] theorem pushCompletion_mem (s : State) (c : Completion) : (s.pushCompletion c).mem = s.mem := rfl
@[simp] theorem pushCompletion_start (s : State) (c : Completion) : (s.pushCompletion c).start = s.start := rfl
@[simp] theorem pushCompletion_svc (s : State) (c : Completion) : (s.pushCompletion c).svc = s.svc := rfl
@[simp] theorem pushCompletion_tiles (s : State) (c : Completion) : (s.pushCompletion c).tiles = s.tiles := rfl
@[simp] theorem pushCompletion_ledger (s : State) (c : Completion) : (s.pushCompletion c).ledger = s.ledger := rfl
@[simp] theorem pushCompletion_ilk (s : State) (c : Completion) : (s.pushCompletion c).ilk = s.ilk := rfl
@[simp] theorem pushCompletion_dram (s : State) (c : Completion) : (s.pushCompletion c).dram = s.dram := rfl
@[simp] theorem pushCompletion_safety (s : State) (c : Completion) : (s.pushCompletion c).safety = s.safety := rfl
@[simp] theorem pushCompletion_ports (s : State) (c : Completion) : (s.pushCompletion c).ports = s.ports := rfl
@[simp] theorem pushCompletion_convoy (s : State) (c : Completion) : (s.pushCompletion c).convoy = s.convoy := rfl
@[simp] theorem pushCompletion_sec (s : State) (c : Completion) : (s.pushCompletion c).sec = s.sec := rfl
@[simp] theorem pushCompletion_power (s : State) (c : Completion) : (s.pushCompletion c).power = s.power := rfl
@[simp] theorem pushCompletion_links (s : State) (c : Completion) : (s.pushCompletion c).links = s.links := rfl
@[simp] theorem pushCompletion_signals (s : State) (c : Completion) : (s.pushCompletion c).signals = s.signals := rfl
@[simp] theorem pushCompletion_arbs (s : State) (c : Completion) : (s.pushCompletion c).arbs = s.arbs := rfl
@[simp] theorem pushCompletion_mon (s : State) (c : Completion) : (s.pushCompletion c).mon = s.mon := rfl
@[simp] theorem pushCompletion_pins (s : State) (c : Completion) : (s.pushCompletion c).pins = s.pins := rfl

end Sys2Proof.Machine.State
end

