-- ==== Sys2Proof/Laws/Regs.lean ====
section
/-! SUPPORT. Registers and tiles after a write: the one that was written, and every other one; a write that is let through. -/

set_option Elab.async false

namespace Sys2Proof.Machine

open Sys2Proof

/-! ### Fields of a word -/

theorem testBit_bitsOf (w : Word) (hi lo i : Nat) : (bitsOf w hi lo).testBit i = (decide (i < hi + 1 - lo) && w.toNat.testBit (lo + i)) := by
  rw [bitsOf, Nat.testBit_mod_two_pow, Nat.testBit_div_two_pow, Nat.add_comm i lo]

theorem testBit_setBits (w : Word) {hi lo : Nat} (v i : Nat) (h : lo ≤ hi) (h2 : hi < 32) :
    (setBits w hi lo v).toNat.testBit i = if lo ≤ i ∧ i ≤ hi then v.testBit (i - lo) else w.toNat.testBit i := by
  have hw : w.toNat < 2 ^ 32 := w.isLt
  have e1 : (2 : Nat) ^ (hi + 1) = 2 ^ (hi + 1 - lo) * 2 ^ lo := by rw [← Nat.pow_add]; congr 1; omega
  have h3 : v % 2 ^ (hi + 1 - lo) < 2 ^ (hi + 1 - lo) := Nat.mod_lt _ (Nat.two_pow_pos _)
  have hm : w.toNat % 2 ^ lo < 2 ^ lo := Nat.mod_lt _ (Nat.two_pow_pos lo)
  have h5 : v % 2 ^ (hi + 1 - lo) * 2 ^ lo + w.toNat % 2 ^ lo < 2 ^ (hi + 1) := by
    rw [e1]
    calc v % 2 ^ (hi + 1 - lo) * 2 ^ lo + w.toNat % 2 ^ lo < v % 2 ^ (hi + 1 - lo) * 2 ^ lo + 2 ^ lo := by omega
      _ = (v % 2 ^ (hi + 1 - lo) + 1) * 2 ^ lo := by rw [Nat.add_mul, Nat.one_mul]
      _ ≤ _ := Nat.mul_le_mul_right _ h3
  have hs : (setBits w hi lo v).toNat = (2 ^ (hi + 1) * (w.toNat / 2 ^ (hi + 1)) + (2 ^ lo * (v % 2 ^ (hi + 1 - lo)) + w.toNat % 2 ^ lo)) % 2 ^ 32 := by
    rw [setBits, BitVec.toNat_ofNat, Nat.mul_comm (w.toNat / _), Nat.mul_comm (v % _), Nat.add_assoc]
  have hw' : 32 ≤ i → w.toNat.testBit i = false := fun hi' =>
    Nat.testBit_lt_two_pow (Nat.lt_of_lt_of_le hw (Nat.pow_le_pow_right (by omega) hi'))
  rw [hs, Nat.testBit_mod_two_pow, Nat.testBit_two_pow_mul_add _ (by rw [Nat.mul_comm (2 ^ lo)]; exact h5)]
  by_cases hi1 : i < hi + 1
  · rw [if_pos hi1, Nat.testBit_two_pow_mul_add _ hm]
    by_cases hl : i < lo
    · rw [if_pos hl, if_neg (by omega), Nat.testBit_mod_two_pow]
      simp [hl, show i < 32 by omega]
    · rw [if_neg hl, if_pos (by omega), Nat.testBit_mod_two_pow]
      simp [show i - lo < hi + 1 - lo by omega, show i < 32 by omega]
  · rw [if_neg hi1, if_neg (by omega), Nat.testBit_div_two_pow]
    have e : i - (hi + 1) + (hi + 1) = i := by omega
    rw [e]
    by_cases h32 : i < 32
    · simp [h32]
    · simp [h32, hw' (by omega)]

/-- A field that was written holds the value's low bits. -/
theorem bitsOf_setBits_same (w : Word) {hi lo : Nat} (v : Nat) (h : lo ≤ hi) (h2 : hi < 32) :
    bitsOf (setBits w hi lo v) hi lo = v % 2 ^ (hi + 1 - lo) := by
  refine Nat.eq_of_testBit_eq fun i => ?_
  rw [testBit_bitsOf, testBit_setBits w v _ h h2, Nat.testBit_mod_two_pow]
  by_cases hi' : i < hi + 1 - lo
  · rw [if_pos (by omega), show lo + i - lo = i by omega]
  · simp [hi']

/-- A field of the word that shares no bit with the written one is as it was. -/
theorem bitsOf_setBits_ne (w : Word) {hi lo hi' lo' : Nat} (v : Nat) (h : lo ≤ hi) (h2 : hi < 32) (hd : hi' < lo ∨ hi < lo') :
    bitsOf (setBits w hi lo v) hi' lo' = bitsOf w hi' lo' := by
  refine Nat.eq_of_testBit_eq fun i => ?_
  rw [testBit_bitsOf, testBit_bitsOf, testBit_setBits w v _ h h2]
  by_cases hi1 : i < hi' + 1 - lo'
  · rw [if_neg (by omega)]
  · simp [hi1]

/-! ### Registers -/

theorem reg_setReg_same (s : State) (a : Nat) (w : Word) : (s.setReg a w).reg a = w := by
  simp [State.reg, State.setReg]

theorem reg_setReg_ne (s : State) {a b : Nat} (w : Word) (h : b ≠ a) : (s.setReg a w).reg b = s.reg b := by
  simp [State.reg, State.setReg, smFind_smPut_ne _ _ h]

theorem reg_setReg (s : State) (a b : Nat) (w : Word) : (s.setReg a w).reg b = if b = a then w else s.reg b := by
  by_cases h : b = a
  · rw [if_pos h, h, reg_setReg_same]
  · rw [if_neg h, reg_setReg_ne s w h]

theorem fld_setFld_same (s : State) (a : Nat) {hi lo : Nat} (v : Nat) (h : lo ≤ hi) (h2 : hi < 32) :
    (s.setFld a hi lo v).fld a hi lo = v % 2 ^ (hi + 1 - lo) := by
  rw [State.fld, State.setFld, reg_setReg_same, bitsOf_setBits_same _ _ h h2]

theorem fld_setFld_other (s : State) (a : Nat) {hi lo hi' lo' : Nat} (v : Nat) (h : lo ≤ hi) (h2 : hi < 32) (hd : hi' < lo ∨ hi < lo') :
    (s.setFld a hi lo v).fld a hi' lo' = s.fld a hi' lo' := by
  rw [State.fld, State.setFld, reg_setReg_same, bitsOf_setBits_ne _ _ h h2 hd, State.fld]

theorem fld_setFld_ne (s : State) {a b : Nat} (hi lo hi' lo' v : Nat) (h : b ≠ a) : (s.setFld a hi lo v).fld b hi' lo' = s.fld b hi' lo' := by
  rw [State.fld, State.setFld, reg_setReg_ne _ _ h, State.fld]

theorem fld_setReg_ne (s : State) {a b : Nat} (w : Word) (hi lo : Nat) (h : b ≠ a) : (s.setReg a w).fld b hi lo = s.fld b hi lo := by
  rw [State.fld, reg_setReg_ne _ _ h, State.fld]

theorem fld_setReg_same (s : State) (a : Nat) (w : Word) (hi lo : Nat) : (s.setReg a w).fld a hi lo = bitsOf w hi lo := by
  rw [State.fld, reg_setReg_same]

/-- Registers depend on the stored words and the product size alone. -/
theorem reg_congr {s t : State} (h : t.regs = s.regs) (hs : t.fuses = s.fuses) (a : Nat) : t.reg a = s.reg a := by
  rw [State.reg, State.reg, h, hs]

theorem fld_congr {s t : State} (h : t.regs = s.regs) (hs : t.fuses = s.fuses) (a hi lo : Nat) : t.fld a hi lo = s.fld a hi lo := by
  rw [State.fld, State.fld, reg_congr h hs]

theorem reg_setFld_ne (s : State) {a b : Nat} (hi lo v : Nat) (h : b ≠ a) : (s.setFld a hi lo v).reg b = s.reg b := reg_setReg_ne s _ h

theorem RegsBut.refl (s : State) (l : List Nat) : RegsBut s s l := fun _ _ => rfl

theorem RegsBut.setReg {s t : State} {l : List Nat} (h : RegsBut s t l) {a : Nat} (w : Word) (ha : a ∈ l) : RegsBut s (t.setReg a w) l := fun b hb => by
  rw [reg_setReg_ne _ _ (fun e : b = a => hb (e ▸ ha)), h b hb]

theorem RegsBut.setFld {s t : State} {l : List Nat} (h : RegsBut s t l) {a : Nat} (hi lo v : Nat) (ha : a ∈ l) : RegsBut s (t.setFld a hi lo v) l :=
  h.setReg _ ha

theorem RegsBut.bump {s t : State} {l : List Nat} (h : RegsBut s t l) {a : Nat} (n : Nat) (ha : a ∈ l) : RegsBut s (t.bump a n) l := h.setReg _ ha

/-- A saturating counter after an event. -/
theorem reg_bump_same (s : State) (a n : Nat) : (s.bump a n).reg a = BitVec.ofNat 32 (min 0xFFFFFFFF ((s.reg a).toNat + n)) := reg_setReg_same s a _

/-! ### Tiles and memory -/

theorem tile_setTile_same (s : State) (t : Nat) (T : Tile) : (s.setTile t T).tile t = T := by
  simp [State.tile, State.setTile]

theorem tile_setTile_ne (s : State) {t u : Nat} (T : Tile) (h : u ≠ t) : (s.setTile t T).tile u = s.tile u := by
  simp [State.tile, State.setTile, smGet_smPut_ne _ _ _ h]

theorem tile_updTile_same (s : State) (t : Nat) (f : Tile → Tile) : (s.updTile t f).tile t = f (s.tile t) := tile_setTile_same s t _

theorem tile_updTile_ne (s : State) {t u : Nat} (f : Tile → Tile) (h : u ≠ t) : (s.updTile t f).tile u = s.tile u := tile_setTile_ne s _ h

/-- Tiles depend on the tile table alone. -/
theorem tile_congr {s t : State} (h : t.tiles = s.tiles) (u : Nat) : t.tile u = s.tile u := by
  rw [State.tile, State.tile, h]

theorem bytes_write_same (s : State) (a : Nat) (bs : List Byte) (hm : MemInv s) : (s.write a bs).bytes a bs.length = bs := by
  refine List.ext_getElem (by simp [State.bytes, memBytes]) fun i h1 h2 => ?_
  simp only [State.bytes, memBytes, List.getElem_map, List.getElem_range, State.write]
  rw [memByte_memWrite_inside _ _ hm _ h2]

/-! ### Writes that are let through -/

theorem regWrite_of_mayWrite {s : State} {who : Writer} {a : Nat} (h : mayWrite s who a = true) (f : State → State) : s.regWrite who a f = f s := by
  unfold mayWrite at h
  rw [State.regWrite]
  match hb : s.block (a / 0x1000 * 0x1000) with
  | none => rw [hb] at h; cases h
  | some (b, i) =>
    rw [hb] at h
    rw [Bool.and_eq_true, Option.isSome_iff_exists] at h
    obtain ⟨⟨r, hr⟩, hw⟩ := h
    simp only [hr, hw, if_true]

theorem answers_whenLive {c : Instr} {s : State} {f : State → State} {P : State → Prop} (hc : exec c s = whenLive s f) (hl : s.live = true)
    (hp : P (f s)) : Answers c s P := ⟨f s, by rw [hc, whenLive, if_pos hl], hp⟩

end Sys2Proof.Machine
end

