-- ==== Sys2Proof/Laws/Frames.lean ====
section
/-! SUPPORT. What the shared operations that record errors, count events, move poison and write notices leave alone: one lemma per field. -/

set_option Elab.async false

namespace Sys2Proof.Machine.State

open Sys2Proof Sys2Proof.Machine

theorem foldl_keeps {α γ : Type} (g : State → γ) (f : State → α → State) (l : List α) (h : ∀ v x, g (f v x) = g v) {u : State} : g (l.foldl f u) = g u := by
  induction l generalizing u with
  | nil => rfl
  | cons x l ih => exact (ih).trans (h u x)

@[simp] theorem countEvent_pending (s : State) (page : Nat) (ev : Nat) (sub : Nat) (v : Nat) : (s.countEvent page ev sub v).pending = s.pending := rfl
@[simp] theorem countEvent_clk (s : State) (page : Nat) (ev : Nat) (sub : Nat) (v : Nat) : (s.countEvent page ev sub v).clk = s.clk := rfl
@[simp] theorem countEvent_now (s : State) (page : Nat) (ev : Nat) (sub : Nat) (v : Nat) : (s.countEvent page ev sub v).now = s.now := rfl
@[simp] theorem countEvent_free (s : State) (page : Nat) (ev : Nat) (sub : Nat) (v : Nat) : (s.countEvent page ev sub v).free = s.free := rfl
@[simp] theorem countEvent_fuses (s : State) (page : Nat) (ev : Nat) (sub : Nat) (v : Nat) : (s.countEvent page ev sub v).fuses = s.fuses := rfl
@[simp] theorem countEvent_flash (s : State) (page : Nat) (ev : Nat) (sub : Nat) (v : Nat) : (s.countEvent page ev sub v).flash = s.flash := rfl
@[simp] theorem countEvent_regs (s : State) (page : Nat) (ev : Nat) (sub : Nat) (v : Nat) : (s.countEvent page ev sub v).regs = s.regs := rfl
@[simp] theorem countEvent_errq (s : State) (page : Nat) (ev : Nat) (sub : Nat) (v : Nat) : (s.countEvent page ev sub v).errq = s.errq := rfl
@[simp] theorem countEvent_errOvf (s : State) (page : Nat) (ev : Nat) (sub : Nat) (v : Nat) : (s.countEvent page ev sub v).errOvf = s.errOvf := rfl
@[simp] theorem countEvent_cnt (s : State) (page : Nat) (ev : Nat) (sub : Nat) (v : Nat) : (s.countEvent page ev sub v).cnt = s.cnt := rfl
@[simp] theorem countEvent_cntHeld (s : State) (page : Nat) (ev : Nat) (sub : Nat) (v : Nat) : (s.countEvent page ev sub v).cntHeld = s.cntHeld := rfl
@[simp] theorem countEvent_cntReload (s : State) (page : Nat) (ev : Nat) (sub : Nat) (v : Nat) : (s.countEvent page ev sub v).cntReload = s.cntReload := rfl
@[simp] theorem countEvent_cntCapture (s : State) (page : Nat) (ev : Nat) (sub : Nat) (v : Nat) : (s.countEvent page ev sub v).cntCapture = s.cntCapture := rfl
@[simp] theorem countEvent_cntLevel (s : State) (page : Nat) (ev : Nat) (sub : Nat) (v : Nat) : (s.countEvent page ev sub v).cntLevel = s.cntLevel := rfl
@[simp] theorem countEvent_mem (s : State) (page : Nat) (ev : Nat) (sub : Nat) (v : Nat) : (s.countEvent page ev sub v).mem = s.mem := rfl
@[simp] theorem countEvent_start (s : State) (page : Nat) (ev : Nat) (sub : Nat) (v : Nat) : (s.countEvent page ev sub v).start = s.start := rfl
@[simp] theorem countEvent_svc (s : State) (page : Nat) (ev : Nat) (sub : Nat) (v : Nat) : (s.countEvent page ev sub v).svc = s.svc := rfl
@[simp] theorem countEvent_tiles (s : State) (page : Nat) (ev : Nat) (sub : Nat) (v : Nat) : (s.countEvent page ev sub v).tiles = s.tiles := rfl
@[simp] theorem countEvent_disp (s : State) (page : Nat) (ev : Nat) (sub : Nat) (v : Nat) : (s.countEvent page ev sub v).disp = s.disp := rfl
@[simp] theorem countEvent_ledger (s : State) (page : Nat) (ev : Nat) (sub : Nat) (v : Nat) : (s.countEvent page ev sub v).ledger = s.ledger := rfl
@[simp] theorem countEvent_ilk (s : State) (page : Nat) (ev : Nat) (sub : Nat) (v : Nat) : (s.countEvent page ev sub v).ilk = s.ilk := rfl
@[simp] theorem countEvent_dram (s : State) (page : Nat) (ev : Nat) (sub : Nat) (v : Nat) : (s.countEvent page ev sub v).dram = s.dram := rfl
@[simp] theorem countEvent_safety (s : State) (page : Nat) (ev : Nat) (sub : Nat) (v : Nat) : (s.countEvent page ev sub v).safety = s.safety := rfl
@[simp] theorem countEvent_ports (s : State) (page : Nat) (ev : Nat) (sub : Nat) (v : Nat) : (s.countEvent page ev sub v).ports = s.ports := rfl
@[simp] theorem countEvent_convoy (s : State) (page : Nat) (ev : Nat) (sub : Nat) (v : Nat) : (s.countEvent page ev sub v).convoy = s.convoy := rfl
@[simp] theorem countEvent_sec (s : State) (page : Nat) (ev : Nat) (sub : Nat) (v : Nat) : (s.countEvent page ev sub v).sec = s.sec := rfl
@[simp] theorem countEvent_power (s : State) (page : Nat) (ev : Nat) (sub : Nat) (v : Nat) : (s.countEvent page ev sub v).power = s.power := rfl
@[simp] theorem countEvent_links (s : State) (page : Nat) (ev : Nat) (sub : Nat) (v : Nat) : (s.countEvent page ev sub v).links = s.links := rfl
@[simp] theorem countEvent_signals (s : State) (page : Nat) (ev : Nat) (sub : Nat) (v : Nat) : (s.countEvent page ev sub v).signals = s.signals := rfl
@[simp] theorem countEvent_arbs (s : State) (page : Nat) (ev : Nat) (sub : Nat) (v : Nat) : (s.countEvent page ev sub v).arbs = s.arbs := rfl
@[simp] theorem countEvent_mon (s : State) (page : Nat) (ev : Nat) (sub : Nat) (v : Nat) : (s.countEvent page ev sub v).mon = s.mon := rfl
@[simp] theorem countEvent_pins (s : State) (page : Nat) (ev : Nat) (sub : Nat) (v : Nat) : (s.countEvent page ev sub v).pins = s.pins := rfl

@[simp] theorem countErr_pending (s : State) (page : Nat) (code : Nat) : (s.countErr page code).pending = s.pending := rfl
@[simp] theorem countErr_clk (s : State) (page : Nat) (code : Nat) : (s.countErr page code).clk = s.clk := rfl
@[simp] theorem countErr_now (s : State) (page : Nat) (code : Nat) : (s.countErr page code).now = s.now := rfl
@[simp] theorem countErr_free (s : State) (page : Nat) (code : Nat) : (s.countErr page code).free = s.free := rfl
@[simp] theorem countErr_fuses (s : State) (page : Nat) (code : Nat) : (s.countErr page code).fuses = s.fuses := rfl
@[simp] theorem countErr_flash (s : State) (page : Nat) (code : Nat) : (s.countErr page code).flash = s.flash := rfl
@[simp] theorem countErr_errq (s : State) (page : Nat) (code : Nat) : (s.countErr page code).errq = s.errq := rfl
@[simp] theorem countErr_errOvf (s : State) (page : Nat) (code : Nat) : (s.countErr page code).errOvf = s.errOvf := rfl
@[simp] theorem countErr_cnt (s : State) (page : Nat) (code : Nat) : (s.countErr page code).cnt = s.cnt := rfl
@[simp] theorem countErr_cntHeld (s : State) (page : Nat) (code : Nat) : (s.countErr page code).cntHeld = s.cntHeld := rfl
@[simp] theorem countErr_cntReload (s : State) (page : Nat) (code : Nat) : (s.countErr page code).cntReload = s.cntReload := rfl
@[simp] theorem countErr_cntCapture (s : State) (page : Nat) (code : Nat) : (s.countErr page code).cntCapture = s.cntCapture := rfl
@[simp] theorem countErr_cntLevel (s : State) (page : Nat) (code : Nat) : (s.countErr page code).cntLevel = s.cntLevel := rfl
@[simp] theorem countErr_evs (s : State) (page : Nat) (code : Nat) : (s.countErr page code).evs = s.evs := rfl
@[simp] theorem countErr_mem (s : State) (page : Nat) (code : Nat) : (s.countErr page code).mem = s.mem := rfl
@[simp] theorem countErr_start (s : State) (page : Nat) (code : Nat) : (s.countErr page code).start = s.start := rfl
@[simp] theorem countErr_svc (s : State) (page : Nat) (code : Nat) : (s.countErr page code).svc = s.svc := rfl
@[simp] theorem countErr_tiles (s : State) (page : Nat) (code : Nat) : (s.countErr page code).tiles = s.tiles := rfl
@[simp] theorem countErr_disp (s : State) (page : Nat) (code : Nat) : (s.countErr page code).disp = s.disp := rfl
@[simp] theorem countErr_ledger (s : State) (page : Nat) (code : Nat) : (s.countErr page code).ledger = s.ledger := rfl
@[simp] theorem countErr_ilk (s : State) (page : Nat) (code : Nat) : (s.countErr page code).ilk = s.ilk := rfl
@[simp] theorem countErr_dram (s : State) (page : Nat) (code : Nat) : (s.countErr page code).dram = s.dram := rfl
@[simp] theorem countErr_safety (s : State) (page : Nat) (code : Nat) : (s.countErr page code).safety = s.safety := rfl
@[simp] theorem countErr_ports (s : State) (page : Nat) (code : Nat) : (s.countErr page code).ports = s.ports := rfl
@[simp] theorem countErr_convoy (s : State) (page : Nat) (code : Nat) : (s.countErr page code).convoy = s.convoy := rfl
@[simp] theorem countErr_sec (s : State) (page : Nat) (code : Nat) : (s.countErr page code).sec = s.sec := rfl
@[simp] theorem countErr_power (s : State) (page : Nat) (code : Nat) : (s.countErr page code).power = s.power := rfl
@[simp] theorem countErr_links (s : State) (page : Nat) (code : Nat) : (s.countErr page code).links = s.links := rfl
@[simp] theorem countErr_signals (s : State) (page : Nat) (code : Nat) : (s.countErr page code).signals = s.signals := rfl
@[simp] theorem countErr_arbs (s : State) (page : Nat) (code : Nat) : (s.countErr page code).arbs = s.arbs := rfl
@[simp] theorem countErr_mon (s : State) (page : Nat) (code : Nat) : (s.countErr page code).mon = s.mon := rfl
@[simp] theorem countErr_pins (s : State) (page : Nat) (code : Nat) : (s.countErr page code).pins = s.pins := rfl

@[simp] theorem queueErr_pending (s : State) (page : Nat) (code : Nat) (unit : Nat) : (s.queueErr page code unit).pending = s.pending := by
  unfold queueErr
  dsimp only
  split <;> rfl
@[simp] theorem queueErr_clk (s : State) (page : Nat) (code : Nat) (unit : Nat) : (s.queueErr page code unit).clk = s.clk := by
  unfold queueErr
  dsimp only
  split <;> rfl
@[simp] theorem queueErr_now (s : State) (page : Nat) (code : Nat) (unit : Nat) : (s.queueErr page code unit).now = s.now := by
  unfold queueErr
  dsimp only
  split <;> rfl
@[simp] theorem queueErr_free (s : State) (page : Nat) (code : Nat) (unit : Nat) : (s.queueErr page code unit).free = s.free := by
  unfold queueErr
  dsimp only
  split <;> rfl
@[simp] theorem queueErr_fuses (s : State) (page : Nat) (code : Nat) (unit : Nat) : (s.queueErr page code unit).fuses = s.fuses := by
  unfold queueErr
  dsimp only
  split <;> rfl
@[simp] theorem queueErr_flash (s : State) (page : Nat) (code : Nat) (unit : Nat) : (s.queueErr page code unit).flash = s.flash := by
  unfold queueErr
  dsimp only
  split <;> rfl
@[simp] theorem queueErr_regs (s : State) (page : Nat) (code : Nat) (unit : Nat) : (s.queueErr page code unit).regs = s.regs := by
  unfold queueErr
  dsimp only
  split <;> rfl
@[simp] theorem queueErr_cnt (s : State) (page : Nat) (code : Nat) (unit : Nat) : (s.queueErr page code unit).cnt = s.cnt := by
  unfold queueErr
  dsimp only
  split <;> rfl
@[simp] theorem queueErr_cntHeld (s : State) (page : Nat) (code : Nat) (unit : Nat) : (s.queueErr page code unit).cntHeld = s.cntHeld := by
  unfold queueErr
  dsimp only
  split <;> rfl
@[simp] theorem queueErr_cntReload (s : State) (page : Nat) (code : Nat) (unit : Nat) : (s.queueErr page code unit).cntReload = s.cntReload := by
  unfold queueErr
  dsimp only
  split <;> rfl
@[simp] theorem queueErr_cntCapture (s : State) (page : Nat) (code : Nat) (unit : Nat) : (s.queueErr page code unit).cntCapture = s.cntCapture := by
  unfold queueErr
  dsimp only
  split <;> rfl
@[simp] theorem queueErr_cntLevel (s : State) (page : Nat) (code : Nat) (unit : Nat) : (s.queueErr page code unit).cntLevel = s.cntLevel := by
  unfold queueErr
  dsimp only
  split <;> rfl
@[simp] theorem queueErr_evs (s : State) (page : Nat) (code : Nat) (unit : Nat) : (s.queueErr page code unit).evs = s.evs := by
  unfold queueErr
  dsimp only
  split <;> rfl
@[simp] theorem queueErr_mem (s : State) (page : Nat) (code : Nat) (unit : Nat) : (s.queueErr page code unit).mem = s.mem := by
  unfold queueErr
  dsimp only
  split <;> rfl
@[simp] theorem queueErr_start (s : State) (page : Nat) (code : Nat) (unit : Nat) : (s.queueErr page code unit).start = s.start := by
  unfold queueErr
  dsimp only
  split <;> rfl
@[simp] theorem queueErr_svc (s : State) (page : Nat) (code : Nat) (unit : Nat) : (s.queueErr page code unit).svc = s.svc := by
  unfold queueErr
  dsimp only
  split <;> rfl
@[simp] theorem queueErr_tiles (s : State) (page : Nat) (code : Nat) (unit : Nat) : (s.queueErr page code unit).tiles = s.tiles := by
  unfold queueErr
  dsimp only
  split <;> rfl
@[simp] theorem queueErr_disp (s : State) (page : Nat) (code : Nat) (unit : Nat) : (s.queueErr page code unit).disp = s.disp := by
  unfold queueErr
  dsimp only
  split <;> rfl
@[simp] theorem queueErr_ledger (s : State) (page : Nat) (code : Nat) (unit : Nat) : (s.queueErr page code unit).ledger = s.ledger := by
  unfold queueErr
  dsimp only
  split <;> rfl
@[simp] theorem queueErr_ilk (s : State) (page : Nat) (code : Nat) (unit : Nat) : (s.queueErr page code unit).ilk = s.ilk := by
  unfold queueErr
  dsimp only
  split <;> rfl
@[simp] theorem queueErr_dram (s : State) (page : Nat) (code : Nat) (unit : Nat) : (s.queueErr page code unit).dram = s.dram := by
  unfold queueErr
  dsimp only
  split <;> rfl
@[simp] theorem queueErr_safety (s : State) (page : Nat) (code : Nat) (unit : Nat) : (s.queueErr page code unit).safety = s.safety := by
  unfold queueErr
  dsimp only
  split <;> rfl
@[simp] theorem queueErr_ports (s : State) (page : Nat) (code : Nat) (unit : Nat) : (s.queueErr page code unit).ports = s.ports := by
  unfold queueErr
  dsimp only
  split <;> rfl
@[simp] theorem queueErr_convoy (s : State) (page : Nat) (code : Nat) (unit : Nat) : (s.queueErr page code unit).convoy = s.convoy := by
  unfold queueErr
  dsimp only
  split <;> rfl
@[simp] theorem queueErr_sec (s : State) (page : Nat) (code : Nat) (unit : Nat) : (s.queueErr page code unit).sec = s.sec := by
  unfold queueErr
  dsimp only
  split <;> rfl
@[simp] theorem queueErr_power (s : State) (page : Nat) (code : Nat) (unit : Nat) : (s.queueErr page code unit).power = s.power := by
  unfold queueErr
  dsimp only
  split <;> rfl
@[simp] theorem queueErr_links (s : State) (page : Nat) (code : Nat) (unit : Nat) : (s.queueErr page code unit).links = s.links := by
  unfold queueErr
  dsimp only
  split <;> rfl
@[simp] theorem queueErr_signals (s : State) (page : Nat) (code : Nat) (unit : Nat) : (s.queueErr page code unit).signals = s.signals := by
  unfold queueErr
  dsimp only
  split <;> rfl
@[simp] theorem queueErr_arbs (s : State) (page : Nat) (code : Nat) (unit : Nat) : (s.queueErr page code unit).arbs = s.arbs := by
  unfold queueErr
  dsimp only
  split <;> rfl
@[simp] theorem queueErr_mon (s : State) (page : Nat) (code : Nat) (unit : Nat) : (s.queueErr page code unit).mon = s.mon := by
  unfold queueErr
  dsimp only
  split <;> rfl
@[simp] theorem queueErr_pins (s : State) (page : Nat) (code : Nat) (unit : Nat) : (s.queueErr page code unit).pins = s.pins := by
  unfold queueErr
  dsimp only
  split <;> rfl

@[simp] theorem recordErr_pending (s : State) (page : Nat) (code : Nat) (unit : Nat) : (s.recordErr page code unit).pending = s.pending := by
  unfold recordErr
  dsimp only
  rw [queueErr_pending]
  split <;> rfl
@[simp] theorem recordErr_clk (s : State) (page : Nat) (code : Nat) (unit : Nat) : (s.recordErr page code unit).clk = s.clk := by
  unfold recordErr
  dsimp only
  rw [queueErr_clk]
  split <;> rfl
@[simp] theorem recordErr_now (s : State) (page : Nat) (code : Nat) (unit : Nat) : (s.recordErr page code unit).now = s.now := by
  unfold recordErr
  dsimp only
  rw [queueErr_now]
  split <;> rfl
@[simp] theorem recordErr_free (s : State) (page : Nat) (code : Nat) (unit : Nat) : (s.recordErr page code unit).free = s.free := by
  unfold recordErr
  dsimp only
  rw [queueErr_free]
  split <;> rfl
@[simp] theorem recordErr_fuses (s : State) (page : Nat) (code : Nat) (unit : Nat) : (s.recordErr page code unit).fuses = s.fuses := by
  unfold recordErr
  dsimp only
  rw [queueErr_fuses]
  split <;> rfl
@[simp] theorem recordErr_flash (s : State) (page : Nat) (code : Nat) (unit : Nat) : (s.recordErr page code unit).flash = s.flash := by
  unfold recordErr
  dsimp only
  rw [queueErr_flash]
  split <;> rfl
@[simp] theorem recordErr_cnt (s : State) (page : Nat) (code : Nat) (unit : Nat) : (s.recordErr page code unit).cnt = s.cnt := by
  unfold recordErr
  dsimp only
  rw [queueErr_cnt]
  split <;> rfl
@[simp] theorem recordErr_cntHeld (s : State) (page : Nat) (code : Nat) (unit : Nat) : (s.recordErr page code unit).cntHeld = s.cntHeld := by
  unfold recordErr
  dsimp only
  rw [queueErr_cntHeld]
  split <;> rfl
@[simp] theorem recordErr_cntReload (s : State) (page : Nat) (code : Nat) (unit : Nat) : (s.recordErr page code unit).cntReload = s.cntReload := by
  unfold recordErr
  dsimp only
  rw [queueErr_cntReload]
  split <;> rfl
@[simp] theorem recordErr_cntCapture (s : State) (page : Nat) (code : Nat) (unit : Nat) : (s.recordErr page code unit).cntCapture = s.cntCapture := by
  unfold recordErr
  dsimp only
  rw [queueErr_cntCapture]
  split <;> rfl
@[simp] theorem recordErr_cntLevel (s : State) (page : Nat) (code : Nat) (unit : Nat) : (s.recordErr page code unit).cntLevel = s.cntLevel := by
  unfold recordErr
  dsimp only
  rw [queueErr_cntLevel]
  split <;> rfl
@[simp] theorem recordErr_evs (s : State) (page : Nat) (code : Nat) (unit : Nat) : (s.recordErr page code unit).evs = s.evs := by
  unfold recordErr
  dsimp only
  rw [queueErr_evs]
  split <;> rfl
@[simp] theorem recordErr_mem (s : State) (page : Nat) (code : Nat) (unit : Nat) : (s.recordErr page code unit).mem = s.mem := by
  unfold recordErr
  dsimp only
  rw [queueErr_mem]
  split <;> rfl
@[simp] theorem recordErr_start (s : State) (page : Nat) (code : Nat) (unit : Nat) : (s.recordErr page code unit).start = s.start := by
  unfold recordErr
  dsimp only
  rw [queueErr_start]
  split <;> rfl
@[simp] theorem recordErr_svc (s : State) (page : Nat) (code : Nat) (unit : Nat) : (s.recordErr page code unit).svc = s.svc := by
  unfold recordErr
  dsimp only
  rw [queueErr_svc]
  split <;> rfl
@[simp] theorem recordErr_tiles (s : State) (page : Nat) (code : Nat) (unit : Nat) : (s.recordErr page code unit).tiles = s.tiles := by
  unfold recordErr
  dsimp only
  rw [queueErr_tiles]
  split <;> rfl
@[simp] theorem recordErr_disp (s : State) (page : Nat) (code : Nat) (unit : Nat) : (s.recordErr page code unit).disp = s.disp := by
  unfold recordErr
  dsimp only
  rw [queueErr_disp]
  split <;> rfl
@[simp] theorem recordErr_ledger (s : State) (page : Nat) (code : Nat) (unit : Nat) : (s.recordErr page code unit).ledger = s.ledger := by
  unfold recordErr
  dsimp only
  rw [queueErr_ledger]
  split <;> rfl
@[simp] theorem recordErr_ilk (s : State) (page : Nat) (code : Nat) (unit : Nat) : (s.recordErr page code unit).ilk = s.ilk := by
  unfold recordErr
  dsimp only
  rw [queueErr_ilk]
  split <;> rfl
@[simp] theorem recordErr_dram (s : State) (page : Nat) (code : Nat) (unit : Nat) : (s.recordErr page code unit).dram = s.dram := by
  unfold recordErr
  dsimp only
  rw [queueErr_dram]
  split <;> rfl
@[simp] theorem recordErr_safety (s : State) (page : Nat) (code : Nat) (unit : Nat) : (s.recordErr page code unit).safety = s.safety := by
  unfold recordErr
  dsimp only
  rw [queueErr_safety]
  split <;> rfl
@[simp] theorem recordErr_ports (s : State) (page : Nat) (code : Nat) (unit : Nat) : (s.recordErr page code unit).ports = s.ports := by
  unfold recordErr
  dsimp only
  rw [queueErr_ports]
  split <;> rfl
@[simp] theorem recordErr_convoy (s : State) (page : Nat) (code : Nat) (unit : Nat) : (s.recordErr page code unit).convoy = s.convoy := by
  unfold recordErr
  dsimp only
  rw [queueErr_convoy]
  split <;> rfl
@[simp] theorem recordErr_sec (s : State) (page : Nat) (code : Nat) (unit : Nat) : (s.recordErr page code unit).sec = s.sec := by
  unfold recordErr
  dsimp only
  rw [queueErr_sec]
  split <;> rfl
@[simp] theorem recordErr_power (s : State) (page : Nat) (code : Nat) (unit : Nat) : (s.recordErr page code unit).power = s.power := by
  unfold recordErr
  dsimp only
  rw [queueErr_power]
  split <;> rfl
@[simp] theorem recordErr_links (s : State) (page : Nat) (code : Nat) (unit : Nat) : (s.recordErr page code unit).links = s.links := by
  unfold recordErr
  dsimp only
  rw [queueErr_links]
  split <;> rfl
@[simp] theorem recordErr_signals (s : State) (page : Nat) (code : Nat) (unit : Nat) : (s.recordErr page code unit).signals = s.signals := by
  unfold recordErr
  dsimp only
  rw [queueErr_signals]
  split <;> rfl
@[simp] theorem recordErr_arbs (s : State) (page : Nat) (code : Nat) (unit : Nat) : (s.recordErr page code unit).arbs = s.arbs := by
  unfold recordErr
  dsimp only
  rw [queueErr_arbs]
  split <;> rfl
@[simp] theorem recordErr_mon (s : State) (page : Nat) (code : Nat) (unit : Nat) : (s.recordErr page code unit).mon = s.mon := by
  unfold recordErr
  dsimp only
  rw [queueErr_mon]
  split <;> rfl
@[simp] theorem recordErr_pins (s : State) (page : Nat) (code : Nat) (unit : Nat) : (s.recordErr page code unit).pins = s.pins := by
  unfold recordErr
  dsimp only
  rw [queueErr_pins]
  split <;> rfl

@[simp] theorem regAccess_pending (s : State) (page : Nat) : (s.regAccess page).pending = s.pending := recordErr_pending _ _ _ _
@[simp] theorem regAccess_clk (s : State) (page : Nat) : (s.regAccess page).clk = s.clk := recordErr_clk _ _ _ _
@[simp] theorem regAccess_now (s : State) (page : Nat) : (s.regAccess page).now = s.now := recordErr_now _ _ _ _
@[simp] theorem regAccess_free (s : State) (page : Nat) : (s.regAccess page).free = s.free := recordErr_free _ _ _ _
@[simp] theorem regAccess_fuses (s : State) (page : Nat) : (s.regAccess page).fuses = s.fuses := recordErr_fuses _ _ _ _
@[simp] theorem regAccess_flash (s : State) (page : Nat) : (s.regAccess page).flash = s.flash := recordErr_flash _ _ _ _
@[simp] theorem regAccess_cnt (s : State) (page : Nat) : (s.regAccess page).cnt = s.cnt := recordErr_cnt _ _ _ _
@[simp] theorem regAccess_cntHeld (s : State) (page : Nat) : (s.regAccess page).cntHeld = s.cntHeld := recordErr_cntHeld _ _ _ _
@[simp] theorem regAccess_cntReload (s : State) (page : Nat) : (s.regAccess page).cntReload = s.cntReload := recordErr_cntReload _ _ _ _
@[simp] theorem regAccess_cntCapture (s : State) (page : Nat) : (s.regAccess page).cntCapture = s.cntCapture := recordErr_cntCapture _ _ _ _
@[simp] theorem regAccess_cntLevel (s : State) (page : Nat) : (s.regAccess page).cntLevel = s.cntLevel := recordErr_cntLevel _ _ _ _
@[simp] theorem regAccess_evs (s : State) (page : Nat) : (s.regAccess page).evs = s.evs := recordErr_evs _ _ _ _
@[simp] theorem regAccess_mem (s : State) (page : Nat) : (s.regAccess page).mem = s.mem := recordErr_mem _ _ _ _
@[simp] theorem regAccess_start (s : State) (page : Nat) : (s.regAccess page).start = s.start := recordErr_start _ _ _ _
@[simp] theorem regAccess_svc (s : State) (page : Nat) : (s.regAccess page).svc = s.svc := recordErr_svc _ _ _ _
@[simp] theorem regAccess_tiles (s : State) (page : Nat) : (s.regAccess page).tiles = s.tiles := recordErr_tiles _ _ _ _
@[simp] theorem regAccess_disp (s : State) (page : Nat) : (s.regAccess page).disp = s.disp := recordErr_disp _ _ _ _
@[simp] theorem regAccess_ledger (s : State) (page : Nat) : (s.regAccess page).ledger = s.ledger := recordErr_ledger _ _ _ _
@[simp] theorem regAccess_ilk (s : State) (page : Nat) : (s.regAccess page).ilk = s.ilk := recordErr_ilk _ _ _ _
@[simp] theorem regAccess_dram (s : State) (page : Nat) : (s.regAccess page).dram = s.dram := recordErr_dram _ _ _ _
@[simp] theorem regAccess_safety (s : State) (page : Nat) : (s.regAccess page).safety = s.safety := recordErr_safety _ _ _ _
@[simp] theorem regAccess_ports (s : State) (page : Nat) : (s.regAccess page).ports = s.ports := recordErr_ports _ _ _ _
@[simp] theorem regAccess_convoy (s : State) (page : Nat) : (s.regAccess page).convoy = s.convoy := recordErr_convoy _ _ _ _
@[simp] theorem regAccess_sec (s : State) (page : Nat) : (s.regAccess page).sec = s.sec := recordErr_sec _ _ _ _
@[simp] theorem regAccess_power (s : State) (page : Nat) : (s.regAccess page).power = s.power := recordErr_power _ _ _ _
@[simp] theorem regAccess_links (s : State) (page : Nat) : (s.regAccess page).links = s.links := recordErr_links _ _ _ _
@[simp] theorem regAccess_signals (s : State) (page : Nat) : (s.regAccess page).signals = s.signals := recordErr_signals _ _ _ _
@[simp] theorem regAccess_arbs (s : State) (page : Nat) : (s.regAccess page).arbs = s.arbs := recordErr_arbs _ _ _ _
@[simp] theorem regAccess_mon (s : State) (page : Nat) : (s.regAccess page).mon = s.mon := recordErr_mon _ _ _ _
@[simp] theorem regAccess_pins (s : State) (page : Nat) : (s.regAccess page).pins = s.pins := recordErr_pins _ _ _ _

@[simp] theorem countPoison_pending (s : State) (ks : List Nat) : (s.countPoison ks).pending = s.pending := by
  unfold countPoison forEach
  refine foldl_keeps (fun v => v.pending) _ _ ?_
  intros; rfl
@[simp] theorem countPoison_clk (s : State) (ks : List Nat) : (s.countPoison ks).clk = s.clk := by
  unfold countPoison forEach
  refine foldl_keeps (fun v => v.clk) _ _ ?_
  intros; rfl
@[simp] theorem countPoison_now (s : State) (ks : List Nat) : (s.countPoison ks).now = s.now := by
  unfold countPoison forEach
  refine foldl_keeps (fun v => v.now) _ _ ?_
  intros; rfl
@[simp] theorem countPoison_free (s : State) (ks : List Nat) : (s.countPoison ks).free = s.free := by
  unfold countPoison forEach
  refine foldl_keeps (fun v => v.free) _ _ ?_
  intros; rfl
@[simp] theorem countPoison_fuses (s : State) (ks : List Nat) : (s.countPoison ks).fuses = s.fuses := by
  unfold countPoison forEach
  refine foldl_keeps (fun v => v.fuses) _ _ ?_
  intros; rfl
@[simp] theorem countPoison_flash (s : State) (ks : List Nat) : (s.countPoison ks).flash = s.flash := by
  unfold countPoison forEach
  refine foldl_keeps (fun v => v.flash) _ _ ?_
  intros; rfl
@[simp] theorem countPoison_errq (s : State) (ks : List Nat) : (s.countPoison ks).errq = s.errq := by
  unfold countPoison forEach
  refine foldl_keeps (fun v => v.errq) _ _ ?_
  intros; rfl
@[simp] theorem countPoison_errOvf (s : State) (ks : List Nat) : (s.countPoison ks).errOvf = s.errOvf := by
  unfold countPoison forEach
  refine foldl_keeps (fun v => v.errOvf) _ _ ?_
  intros; rfl
@[simp] theorem countPoison_cnt (s : State) (ks : List Nat) : (s.countPoison ks).cnt = s.cnt := by
  unfold countPoison forEach
  refine foldl_keeps (fun v => v.cnt) _ _ ?_
  intros; rfl
@[simp] theorem countPoison_cntHeld (s : State) (ks : List Nat) : (s.countPoison ks).cntHeld = s.cntHeld := by
  unfold countPoison forEach
  refine foldl_keeps (fun v => v.cntHeld) _ _ ?_
  intros; rfl
@[simp] theorem countPoison_cntReload (s : State) (ks : List Nat) : (s.countPoison ks).cntReload = s.cntReload := by
  unfold countPoison forEach
  refine foldl_keeps (fun v => v.cntReload) _ _ ?_
  intros; rfl
@[simp] theorem countPoison_cntCapture (s : State) (ks : List Nat) : (s.countPoison ks).cntCapture = s.cntCapture := by
  unfold countPoison forEach
  refine foldl_keeps (fun v => v.cntCapture) _ _ ?_
  intros; rfl
@[simp] theorem countPoison_cntLevel (s : State) (ks : List Nat) : (s.countPoison ks).cntLevel = s.cntLevel := by
  unfold countPoison forEach
  refine foldl_keeps (fun v => v.cntLevel) _ _ ?_
  intros; rfl
@[simp] theorem countPoison_evs (s : State) (ks : List Nat) : (s.countPoison ks).evs = s.evs := by
  unfold countPoison forEach
  refine foldl_keeps (fun v => v.evs) _ _ ?_
  intros; rfl
@[simp] theorem countPoison_mem (s : State) (ks : List Nat) : (s.countPoison ks).mem = s.mem := by
  unfold countPoison forEach
  refine foldl_keeps (fun v => v.mem) _ _ ?_
  intros; rfl
@[simp] theorem countPoison_start (s : State) (ks : List Nat) : (s.countPoison ks).start = s.start := by
  unfold countPoison forEach
  refine foldl_keeps (fun v => v.start) _ _ ?_
  intros; rfl
@[simp] theorem countPoison_svc (s : State) (ks : List Nat) : (s.countPoison ks).svc = s.svc := by
  unfold countPoison forEach
  refine foldl_keeps (fun v => v.svc) _ _ ?_
  intros; rfl
@[simp] theorem countPoison_tiles (s : State) (ks : List Nat) : (s.countPoison ks).tiles = s.tiles := by
  unfold countPoison forEach
  refine foldl_keeps (fun v => v.tiles) _ _ ?_
  intros; rfl
@[simp] theorem countPoison_disp (s : State) (ks : List Nat) : (s.countPoison ks).disp = s.disp := by
  unfold countPoison forEach
  refine foldl_keeps (fun v => v.disp) _ _ ?_
  intros; rfl
@[simp] theorem countPoison_ledger (s : State) (ks : List Nat) : (s.countPoison ks).ledger = s.ledger := by
  unfold countPoison forEach
  refine foldl_keeps (fun v => v.ledger) _ _ ?_
  intros; rfl
@[simp] theorem countPoison_ilk (s : State) (ks : List Nat) : (s.countPoison ks).ilk = s.ilk := by
  unfold countPoison forEach
  refine foldl_keeps (fun v => v.ilk) _ _ ?_
  intros; rfl
@[simp] theorem countPoison_dram (s : State) (ks : List Nat) : (s.countPoison ks).dram = s.dram := by
  unfold countPoison forEach
  refine foldl_keeps (fun v => v.dram) _ _ ?_
  intros; rfl
@[simp] theorem countPoison_safety (s : State) (ks : List Nat) : (s.countPoison ks).safety = s.safety := by
  unfold countPoison forEach
  refine foldl_keeps (fun v => v.safety) _ _ ?_
  intros; rfl
@[simp] theorem countPoison_ports (s : State) (ks : List Nat) : (s.countPoison ks).ports = s.ports := by
  unfold countPoison forEach
  refine foldl_keeps (fun v => v.ports) _ _ ?_
  intros; rfl
@[simp] theorem countPoison_convoy (s : State) (ks : List Nat) : (s.countPoison ks).convoy = s.convoy := by
  unfold countPoison forEach
  refine foldl_keeps (fun v => v.convoy) _ _ ?_
  intros; rfl
@[simp] theorem countPoison_sec (s : State) (ks : List Nat) : (s.countPoison ks).sec = s.sec := by
  unfold countPoison forEach
  refine foldl_keeps (fun v => v.sec) _ _ ?_
  intros; rfl
@[simp] theorem countPoison_power (s : State) (ks : List Nat) : (s.countPoison ks).power = s.power := by
  unfold countPoison forEach
  refine foldl_keeps (fun v => v.power) _ _ ?_
  intros; rfl
@[simp] theorem countPoison_links (s : State) (ks : List Nat) : (s.countPoison ks).links = s.links := by
  unfold countPoison forEach
  refine foldl_keeps (fun v => v.links) _ _ ?_
  intros; rfl
@[simp] theorem countPoison_signals (s : State) (ks : List Nat) : (s.countPoison ks).signals = s.signals := by
  unfold countPoison forEach
  refine foldl_keeps (fun v => v.signals) _ _ ?_
  intros; rfl
@[simp] theorem countPoison_arbs (s : State) (ks : List Nat) : (s.countPoison ks).arbs = s.arbs := by
  unfold countPoison forEach
  refine foldl_keeps (fun v => v.arbs) _ _ ?_
  intros; rfl
@[simp] theorem countPoison_mon (s : State) (ks : List Nat) : (s.countPoison ks).mon = s.mon := by
  unfold countPoison forEach
  refine foldl_keeps (fun v => v.mon) _ _ ?_
  intros; rfl
@[simp] theorem countPoison_pins (s : State) (ks : List Nat) : (s.countPoison ks).pins = s.pins := by
  unfold countPoison forEach
  refine foldl_keeps (fun v => v.pins) _ _ ?_
  intros; rfl

@[simp] theorem writeHere_pending (s : State) (ks : List Nat) (bs : List Byte) : (s.writeHere ks bs).pending = s.pending := by
  unfold writeHere forEach
  refine foldl_keeps (fun v => v.pending) _ _ ?_
  intros; rfl
@[simp] theorem writeHere_clk (s : State) (ks : List Nat) (bs : List Byte) : (s.writeHere ks bs).clk = s.clk := by
  unfold writeHere forEach
  refine foldl_keeps (fun v => v.clk) _ _ ?_
  intros; rfl
@[simp] theorem writeHere_now (s : State) (ks : List Nat) (bs : List Byte) : (s.writeHere ks bs).now = s.now := by
  unfold writeHere forEach
  refine foldl_keeps (fun v => v.now) _ _ ?_
  intros; rfl
@[simp] theorem writeHere_free (s : State) (ks : List Nat) (bs : List Byte) : (s.writeHere ks bs).free = s.free := by
  unfold writeHere forEach
  refine foldl_keeps (fun v => v.free) _ _ ?_
  intros; rfl
@[simp] theorem writeHere_fuses (s : State) (ks : List Nat) (bs : List Byte) : (s.writeHere ks bs).fuses = s.fuses := by
  unfold writeHere forEach
  refine foldl_keeps (fun v => v.fuses) _ _ ?_
  intros; rfl
@[simp] theorem writeHere_flash (s : State) (ks : List Nat) (bs : List Byte) : (s.writeHere ks bs).flash = s.flash := by
  unfold writeHere forEach
  refine foldl_keeps (fun v => v.flash) _ _ ?_
  intros; rfl
@[simp] theorem writeHere_errq (s : State) (ks : List Nat) (bs : List Byte) : (s.writeHere ks bs).errq = s.errq := by
  unfold writeHere forEach
  refine foldl_keeps (fun v => v.errq) _ _ ?_
  intros; rfl
@[simp] theorem writeHere_errOvf (s : State) (ks : List Nat) (bs : List Byte) : (s.writeHere ks bs).errOvf = s.errOvf := by
  unfold writeHere forEach
  refine foldl_keeps (fun v => v.errOvf) _ _ ?_
  intros; rfl
@[simp] theorem writeHere_cnt (s : State) (ks : List Nat) (bs : List Byte) : (s.writeHere ks bs).cnt = s.cnt := by
  unfold writeHere forEach
  refine foldl_keeps (fun v => v.cnt) _ _ ?_
  intros; rfl
@[simp] theorem writeHere_cntHeld (s : State) (ks : List Nat) (bs : List Byte) : (s.writeHere ks bs).cntHeld = s.cntHeld := by
  unfold writeHere forEach
  refine foldl_keeps (fun v => v.cntHeld) _ _ ?_
  intros; rfl
@[simp] theorem writeHere_cntReload (s : State) (ks : List Nat) (bs : List Byte) : (s.writeHere ks bs).cntReload = s.cntReload := by
  unfold writeHere forEach
  refine foldl_keeps (fun v => v.cntReload) _ _ ?_
  intros; rfl
@[simp] theorem writeHere_cntCapture (s : State) (ks : List Nat) (bs : List Byte) : (s.writeHere ks bs).cntCapture = s.cntCapture := by
  unfold writeHere forEach
  refine foldl_keeps (fun v => v.cntCapture) _ _ ?_
  intros; rfl
@[simp] theorem writeHere_cntLevel (s : State) (ks : List Nat) (bs : List Byte) : (s.writeHere ks bs).cntLevel = s.cntLevel := by
  unfold writeHere forEach
  refine foldl_keeps (fun v => v.cntLevel) _ _ ?_
  intros; rfl
@[simp] theorem writeHere_evs (s : State) (ks : List Nat) (bs : List Byte) : (s.writeHere ks bs).evs = s.evs := by
  unfold writeHere forEach
  refine foldl_keeps (fun v => v.evs) _ _ ?_
  intros; rfl
@[simp] theorem writeHere_start (s : State) (ks : List Nat) (bs : List Byte) : (s.writeHere ks bs).start = s.start := by
  unfold writeHere forEach
  refine foldl_keeps (fun v => v.start) _ _ ?_
  intros; rfl
@[simp] theorem writeHere_svc (s : State) (ks : List Nat) (bs : List Byte) : (s.writeHere ks bs).svc = s.svc := by
  unfold writeHere forEach
  refine foldl_keeps (fun v => v.svc) _ _ ?_
  intros; rfl
@[simp] theorem writeHere_tiles (s : State) (ks : List Nat) (bs : List Byte) : (s.writeHere ks bs).tiles = s.tiles := by
  unfold writeHere forEach
  refine foldl_keeps (fun v => v.tiles) _ _ ?_
  intros; rfl
@[simp] theorem writeHere_disp (s : State) (ks : List Nat) (bs : List Byte) : (s.writeHere ks bs).disp = s.disp := by
  unfold writeHere forEach
  refine foldl_keeps (fun v => v.disp) _ _ ?_
  intros; rfl
@[simp] theorem writeHere_ledger (s : State) (ks : List Nat) (bs : List Byte) : (s.writeHere ks bs).ledger = s.ledger := by
  unfold writeHere forEach
  refine foldl_keeps (fun v => v.ledger) _ _ ?_
  intros; rfl
@[simp] theorem writeHere_ilk (s : State) (ks : List Nat) (bs : List Byte) : (s.writeHere ks bs).ilk = s.ilk := by
  unfold writeHere forEach
  refine foldl_keeps (fun v => v.ilk) _ _ ?_
  intros; rfl
@[simp] theorem writeHere_safety (s : State) (ks : List Nat) (bs : List Byte) : (s.writeHere ks bs).safety = s.safety := by
  unfold writeHere forEach
  refine foldl_keeps (fun v => v.safety) _ _ ?_
  intros; rfl
@[simp] theorem writeHere_ports (s : State) (ks : List Nat) (bs : List Byte) : (s.writeHere ks bs).ports = s.ports := by
  unfold writeHere forEach
  refine foldl_keeps (fun v => v.ports) _ _ ?_
  intros; rfl
@[simp] theorem writeHere_convoy (s : State) (ks : List Nat) (bs : List Byte) : (s.writeHere ks bs).convoy = s.convoy := by
  unfold writeHere forEach
  refine foldl_keeps (fun v => v.convoy) _ _ ?_
  intros; rfl
@[simp] theorem writeHere_sec (s : State) (ks : List Nat) (bs : List Byte) : (s.writeHere ks bs).sec = s.sec := by
  unfold writeHere forEach
  refine foldl_keeps (fun v => v.sec) _ _ ?_
  intros; rfl
@[simp] theorem writeHere_power (s : State) (ks : List Nat) (bs : List Byte) : (s.writeHere ks bs).power = s.power := by
  unfold writeHere forEach
  refine foldl_keeps (fun v => v.power) _ _ ?_
  intros; rfl
@[simp] theorem writeHere_links (s : State) (ks : List Nat) (bs : List Byte) : (s.writeHere ks bs).links = s.links := by
  unfold writeHere forEach
  refine foldl_keeps (fun v => v.links) _ _ ?_
  intros; rfl
@[simp] theorem writeHere_signals (s : State) (ks : List Nat) (bs : List Byte) : (s.writeHere ks bs).signals = s.signals := by
  unfold writeHere forEach
  refine foldl_keeps (fun v => v.signals) _ _ ?_
  intros; rfl
@[simp] theorem writeHere_arbs (s : State) (ks : List Nat) (bs : List Byte) : (s.writeHere ks bs).arbs = s.arbs := by
  unfold writeHere forEach
  refine foldl_keeps (fun v => v.arbs) _ _ ?_
  intros; rfl
@[simp] theorem writeHere_mon (s : State) (ks : List Nat) (bs : List Byte) : (s.writeHere ks bs).mon = s.mon := by
  unfold writeHere forEach
  refine foldl_keeps (fun v => v.mon) _ _ ?_
  intros; rfl
@[simp] theorem writeHere_pins (s : State) (ks : List Nat) (bs : List Byte) : (s.writeHere ks bs).pins = s.pins := by
  unfold writeHere forEach
  refine foldl_keeps (fun v => v.pins) _ _ ?_
  intros; rfl

@[simp] theorem writeKeys_pending (s : State) (ks : List Nat) (bs : List Byte) : (s.writeKeys ks bs).pending = s.pending := by
  unfold writeKeys
  dsimp only
  split <;> simp only [writeHere_pending]
@[simp] theorem writeKeys_clk (s : State) (ks : List Nat) (bs : List Byte) : (s.writeKeys ks bs).clk = s.clk := by
  unfold writeKeys
  dsimp only
  split <;> simp only [writeHere_clk]
@[simp] theorem writeKeys_now (s : State) (ks : List Nat) (bs : List Byte) : (s.writeKeys ks bs).now = s.now := by
  unfold writeKeys
  dsimp only
  split <;> simp only [writeHere_now]
@[simp] theorem writeKeys_free (s : State) (ks : List Nat) (bs : List Byte) : (s.writeKeys ks bs).free = s.free := by
  unfold writeKeys
  dsimp only
  split <;> simp only [writeHere_free]
@[simp] theorem writeKeys_fuses (s : State) (ks : List Nat) (bs : List Byte) : (s.writeKeys ks bs).fuses = s.fuses := by
  unfold writeKeys
  dsimp only
  split <;> simp only [writeHere_fuses]
@[simp] theorem writeKeys_flash (s : State) (ks : List Nat) (bs : List Byte) : (s.writeKeys ks bs).flash = s.flash := by
  unfold writeKeys
  dsimp only
  split <;> simp only [writeHere_flash]
@[simp] theorem writeKeys_errq (s : State) (ks : List Nat) (bs : List Byte) : (s.writeKeys ks bs).errq = s.errq := by
  unfold writeKeys
  dsimp only
  split <;> simp only [writeHere_errq]
@[simp] theorem writeKeys_errOvf (s : State) (ks : List Nat) (bs : List Byte) : (s.writeKeys ks bs).errOvf = s.errOvf := by
  unfold writeKeys
  dsimp only
  split <;> simp only [writeHere_errOvf]
@[simp] theorem writeKeys_cnt (s : State) (ks : List Nat) (bs : List Byte) : (s.writeKeys ks bs).cnt = s.cnt := by
  unfold writeKeys
  dsimp only
  split <;> simp only [writeHere_cnt]
@[simp] theorem writeKeys_cntHeld (s : State) (ks : List Nat) (bs : List Byte) : (s.writeKeys ks bs).cntHeld = s.cntHeld := by
  unfold writeKeys
  dsimp only
  split <;> simp only [writeHere_cntHeld]
@[simp] theorem writeKeys_cntReload (s : State) (ks : List Nat) (bs : List Byte) : (s.writeKeys ks bs).cntReload = s.cntReload := by
  unfold writeKeys
  dsimp only
  split <;> simp only [writeHere_cntReload]
@[simp] theorem writeKeys_cntCapture (s : State) (ks : List Nat) (bs : List Byte) : (s.writeKeys ks bs).cntCapture = s.cntCapture := by
  unfold writeKeys
  dsimp only
  split <;> simp only [writeHere_cntCapture]
@[simp] theorem writeKeys_cntLevel (s : State) (ks : List Nat) (bs : List Byte) : (s.writeKeys ks bs).cntLevel = s.cntLevel := by
  unfold writeKeys
  dsimp only
  split <;> simp only [writeHere_cntLevel]
@[simp] theorem writeKeys_evs (s : State) (ks : List Nat) (bs : List Byte) : (s.writeKeys ks bs).evs = s.evs := by
  unfold writeKeys
  dsimp only
  split <;> simp only [writeHere_evs]
@[simp] theorem writeKeys_start (s : State) (ks : List Nat) (bs : List Byte) : (s.writeKeys ks bs).start = s.start := by
  unfold writeKeys
  dsimp only
  split <;> simp only [writeHere_start]
@[simp] theorem writeKeys_svc (s : State) (ks : List Nat) (bs : List Byte) : (s.writeKeys ks bs).svc = s.svc := by
  unfold writeKeys
  dsimp only
  split <;> simp only [writeHere_svc]
@[simp] theorem writeKeys_tiles (s : State) (ks : List Nat) (bs : List Byte) : (s.writeKeys ks bs).tiles = s.tiles := by
  unfold writeKeys
  dsimp only
  split <;> simp only [writeHere_tiles]
@[simp] theorem writeKeys_disp (s : State) (ks : List Nat) (bs : List Byte) : (s.writeKeys ks bs).disp = s.disp := by
  unfold writeKeys
  dsimp only
  split <;> simp only [writeHere_disp]
@[simp] theorem writeKeys_ledger (s : State) (ks : List Nat) (bs : List Byte) : (s.writeKeys ks bs).ledger = s.ledger := by
  unfold writeKeys
  dsimp only
  split <;> simp only [writeHere_ledger]
@[simp] theorem writeKeys_ilk (s : State) (ks : List Nat) (bs : List Byte) : (s.writeKeys ks bs).ilk = s.ilk := by
  unfold writeKeys
  dsimp only
  split <;> simp only [writeHere_ilk]
@[simp] theorem writeKeys_safety (s : State) (ks : List Nat) (bs : List Byte) : (s.writeKeys ks bs).safety = s.safety := by
  unfold writeKeys
  dsimp only
  split <;> simp only [writeHere_safety]
@[simp] theorem writeKeys_ports (s : State) (ks : List Nat) (bs : List Byte) : (s.writeKeys ks bs).ports = s.ports := by
  unfold writeKeys
  dsimp only
  split <;> simp only [writeHere_ports]
@[simp] theorem writeKeys_convoy (s : State) (ks : List Nat) (bs : List Byte) : (s.writeKeys ks bs).convoy = s.convoy := by
  unfold writeKeys
  dsimp only
  split <;> simp only [writeHere_convoy]
@[simp] theorem writeKeys_sec (s : State) (ks : List Nat) (bs : List Byte) : (s.writeKeys ks bs).sec = s.sec := by
  unfold writeKeys
  dsimp only
  split <;> simp only [writeHere_sec]
@[simp] theorem writeKeys_power (s : State) (ks : List Nat) (bs : List Byte) : (s.writeKeys ks bs).power = s.power := by
  unfold writeKeys
  dsimp only
  split <;> simp only [writeHere_power]
@[simp] theorem writeKeys_links (s : State) (ks : List Nat) (bs : List Byte) : (s.writeKeys ks bs).links = s.links := by
  unfold writeKeys
  dsimp only
  split <;> simp only [writeHere_links]
@[simp] theorem writeKeys_signals (s : State) (ks : List Nat) (bs : List Byte) : (s.writeKeys ks bs).signals = s.signals := by
  unfold writeKeys
  dsimp only
  split <;> simp only [writeHere_signals]
@[simp] theorem writeKeys_arbs (s : State) (ks : List Nat) (bs : List Byte) : (s.writeKeys ks bs).arbs = s.arbs := by
  unfold writeKeys
  dsimp only
  split <;> simp only [writeHere_arbs]
@[simp] theorem writeKeys_mon (s : State) (ks : List Nat) (bs : List Byte) : (s.writeKeys ks bs).mon = s.mon := by
  unfold writeKeys
  dsimp only
  split <;> simp only [writeHere_mon]
@[simp] theorem writeKeys_pins (s : State) (ks : List Nat) (bs : List Byte) : (s.writeKeys ks bs).pins = s.pins := by
  unfold writeKeys
  dsimp only
  split <;> simp only [writeHere_pins]

@[simp] theorem devWrite_pending (s : State) (a : Nat) (bs : List Byte) : (s.devWrite a bs).pending = s.pending := writeKeys_pending _ _ _
@[simp] theorem devWrite_clk (s : State) (a : Nat) (bs : List Byte) : (s.devWrite a bs).clk = s.clk := writeKeys_clk _ _ _
@[simp] theorem devWrite_now (s : State) (a : Nat) (bs : List Byte) : (s.devWrite a bs).now = s.now := writeKeys_now _ _ _
@[simp] theorem devWrite_free (s : State) (a : Nat) (bs : List Byte) : (s.devWrite a bs).free = s.free := writeKeys_free _ _ _
@[simp] theorem devWrite_fuses (s : State) (a : Nat) (bs : List Byte) : (s.devWrite a bs).fuses = s.fuses := writeKeys_fuses _ _ _
@[simp] theorem devWrite_flash (s : State) (a : Nat) (bs : List Byte) : (s.devWrite a bs).flash = s.flash := writeKeys_flash _ _ _
@[simp] theorem devWrite_errq (s : State) (a : Nat) (bs : List Byte) : (s.devWrite a bs).errq = s.errq := writeKeys_errq _ _ _
@[simp] theorem devWrite_errOvf (s : State) (a : Nat) (bs : List Byte) : (s.devWrite a bs).errOvf = s.errOvf := writeKeys_errOvf _ _ _
@[simp] theorem devWrite_cnt (s : State) (a : Nat) (bs : List Byte) : (s.devWrite a bs).cnt = s.cnt := writeKeys_cnt _ _ _
@[simp] theorem devWrite_cntHeld (s : State) (a : Nat) (bs : List Byte) : (s.devWrite a bs).cntHeld = s.cntHeld := writeKeys_cntHeld _ _ _
@[simp] theorem devWrite_cntReload (s : State) (a : Nat) (bs : List Byte) : (s.devWrite a bs).cntReload = s.cntReload := writeKeys_cntReload _ _ _
@[simp] theorem devWrite_cntCapture (s : State) (a : Nat) (bs : List Byte) : (s.devWrite a bs).cntCapture = s.cntCapture := writeKeys_cntCapture _ _ _
@[simp] theorem devWrite_cntLevel (s : State) (a : Nat) (bs : List Byte) : (s.devWrite a bs).cntLevel = s.cntLevel := writeKeys_cntLevel _ _ _
@[simp] theorem devWrite_evs (s : State) (a : Nat) (bs : List Byte) : (s.devWrite a bs).evs = s.evs := writeKeys_evs _ _ _
@[simp] theorem devWrite_start (s : State) (a : Nat) (bs : List Byte) : (s.devWrite a bs).start = s.start := writeKeys_start _ _ _
@[simp] theorem devWrite_svc (s : State) (a : Nat) (bs : List Byte) : (s.devWrite a bs).svc = s.svc := writeKeys_svc _ _ _
@[simp] theorem devWrite_tiles (s : State) (a : Nat) (bs : List Byte) : (s.devWrite a bs).tiles = s.tiles := writeKeys_tiles _ _ _
@[simp] theorem devWrite_disp (s : State) (a : Nat) (bs : List Byte) : (s.devWrite a bs).disp = s.disp := writeKeys_disp _ _ _
@[simp] theorem devWrite_ledger (s : State) (a : Nat) (bs : List Byte) : (s.devWrite a bs).ledger = s.ledger := writeKeys_ledger _ _ _
@[simp] theorem devWrite_ilk (s : State) (a : Nat) (bs : List Byte) : (s.devWrite a bs).ilk = s.ilk := writeKeys_ilk _ _ _
@[simp] theorem devWrite_safety (s : State) (a : Nat) (bs : List Byte) : (s.devWrite a bs).safety = s.safety := writeKeys_safety _ _ _
@[simp] theorem devWrite_ports (s : State) (a : Nat) (bs : List Byte) : (s.devWrite a bs).ports = s.ports := writeKeys_ports _ _ _
@[simp] theorem devWrite_convoy (s : State) (a : Nat) (bs : List Byte) : (s.devWrite a bs).convoy = s.convoy := writeKeys_convoy _ _ _
@[simp] theorem devWrite_sec (s : State) (a : Nat) (bs : List Byte) : (s.devWrite a bs).sec = s.sec := writeKeys_sec _ _ _
@[simp] theorem devWrite_power (s : State) (a : Nat) (bs : List Byte) : (s.devWrite a bs).power = s.power := writeKeys_power _ _ _
@[simp] theorem devWrite_links (s : State) (a : Nat) (bs : List Byte) : (s.devWrite a bs).links = s.links := writeKeys_links _ _ _
@[simp] theorem devWrite_signals (s : State) (a : Nat) (bs : List Byte) : (s.devWrite a bs).signals = s.signals := writeKeys_signals _ _ _
@[simp] theorem devWrite_arbs (s : State) (a : Nat) (bs : List Byte) : (s.devWrite a bs).arbs = s.arbs := writeKeys_arbs _ _ _
@[simp] theorem devWrite_mon (s : State) (a : Nat) (bs : List Byte) : (s.devWrite a bs).mon = s.mon := writeKeys_mon _ _ _
@[simp] theorem devWrite_pins (s : State) (a : Nat) (bs : List Byte) : (s.devWrite a bs).pins = s.pins := writeKeys_pins _ _ _

@[simp] theorem movePoison_pending (s : State) (t : Nat) (deps : List (Nat × List Nat)) : (s.movePoison t deps).pending = s.pending := rfl
@[simp] theorem movePoison_clk (s : State) (t : Nat) (deps : List (Nat × List Nat)) : (s.movePoison t deps).clk = s.clk := rfl
@[simp] theorem movePoison_now (s : State) (t : Nat) (deps : List (Nat × List Nat)) : (s.movePoison t deps).now = s.now := rfl
@[simp] theorem movePoison_free (s : State) (t : Nat) (deps : List (Nat × List Nat)) : (s.movePoison t deps).free = s.free := rfl
@[simp] theorem movePoison_fuses (s : State) (t : Nat) (deps : List (Nat × List Nat)) : (s.movePoison t deps).fuses = s.fuses := rfl
@[simp] theorem movePoison_flash (s : State) (t : Nat) (deps : List (Nat × List Nat)) : (s.movePoison t deps).flash = s.flash := rfl
@[simp] theorem movePoison_regs (s : State) (t : Nat) (deps : List (Nat × List Nat)) : (s.movePoison t deps).regs = s.regs := rfl
@[simp] theorem movePoison_errq (s : State) (t : Nat) (deps : List (Nat × List Nat)) : (s.movePoison t deps).errq = s.errq := rfl
@[simp] theorem movePoison_errOvf (s : State) (t : Nat) (deps : List (Nat × List Nat)) : (s.movePoison t deps).errOvf = s.errOvf := rfl
@[simp] theorem movePoison_cnt (s : State) (t : Nat) (deps : List (Nat × List Nat)) : (s.movePoison t deps).cnt = s.cnt := rfl
@[simp] theorem movePoison_cntHeld (s : State) (t : Nat) (deps : List (Nat × List Nat)) : (s.movePoison t deps).cntHeld = s.cntHeld := rfl
@[simp] theorem movePoison_cntReload (s : State) (t : Nat) (deps : List (Nat × List Nat)) : (s.movePoison t deps).cntReload = s.cntReload := rfl
@[simp] theorem movePoison_cntCapture (s : State) (t : Nat) (deps : List (Nat × List Nat)) : (s.movePoison t deps).cntCapture = s.cntCapture := rfl
@[simp] theorem movePoison_cntLevel (s : State) (t : Nat) (deps : List (Nat × List Nat)) : (s.movePoison t deps).cntLevel = s.cntLevel := rfl
@[simp] theorem movePoison_evs (s : State) (t : Nat) (deps : List (Nat × List Nat)) : (s.movePoison t deps).evs = s.evs := rfl
@[simp] theorem movePoison_mem (s : State) (t : Nat) (deps : List (Nat × List Nat)) : (s.movePoison t deps).mem = s.mem := rfl
@[simp] theorem movePoison_start (s : State) (t : Nat) (deps : List (Nat × List Nat)) : (s.movePoison t deps).start = s.start := rfl
@[simp] theorem movePoison_svc (s : State) (t : Nat) (deps : List (Nat × List Nat)) : (s.movePoison t deps).svc = s.svc := rfl
@[simp] theorem movePoison_disp (s : State) (t : Nat) (deps : List (Nat × List Nat)) : (s.movePoison t deps).disp = s.disp := rfl
@[simp] theorem movePoison_ledger (s : State) (t : Nat) (deps : List (Nat × List Nat)) : (s.movePoison t deps).ledger = s.ledger := rfl
@[simp] theorem movePoison_ilk (s : State) (t : Nat) (deps : List (Nat × List Nat)) : (s.movePoison t deps).ilk = s.ilk := rfl
@[simp] theorem movePoison_dram (s : State) (t : Nat) (deps : List (Nat × List Nat)) : (s.movePoison t deps).dram = s.dram := rfl
@[simp] theorem movePoison_safety (s : State) (t : Nat) (deps : List (Nat × List Nat)) : (s.movePoison t deps).safety = s.safety := rfl
@[simp] theorem movePoison_ports (s : State) (t : Nat) (deps : List (Nat × List Nat)) : (s.movePoison t deps).ports = s.ports := rfl
@[simp] theorem movePoison_convoy (s : State) (t : Nat) (deps : List (Nat × List Nat)) : (s.movePoison t deps).convoy = s.convoy := rfl
@[simp] theorem movePoison_sec (s : State) (t : Nat) (deps : List (Nat × List Nat)) : (s.movePoison t deps).sec = s.sec := rfl
@[simp] theorem movePoison_power (s : State) (t : Nat) (deps : List (Nat × List Nat)) : (s.movePoison t deps).power = s.power := rfl
@[simp] theorem movePoison_links (s : State) (t : Nat) (deps : List (Nat × List Nat)) : (s.movePoison t deps).links = s.links := rfl
@[simp] theorem movePoison_signals (s : State) (t : Nat) (deps : List (Nat × List Nat)) : (s.movePoison t deps).signals = s.signals := rfl
@[simp] theorem movePoison_arbs (s : State) (t : Nat) (deps : List (Nat × List Nat)) : (s.movePoison t deps).arbs = s.arbs := rfl
@[simp] theorem movePoison_mon (s : State) (t : Nat) (deps : List (Nat × List Nat)) : (s.movePoison t deps).mon = s.mon := rfl
@[simp] theorem movePoison_pins (s : State) (t : Nat) (deps : List (Nat × List Nat)) : (s.movePoison t deps).pins = s.pins := rfl

@[simp] theorem writeRow_pending (s : State) (t : Nat) (r : Nat) (bs : List Byte) : (s.writeRow t r bs).pending = s.pending := rfl
@[simp] theorem writeRow_clk (s : State) (t : Nat) (r : Nat) (bs : List Byte) : (s.writeRow t r bs).clk = s.clk := rfl
@[simp] theorem writeRow_now (s : State) (t : Nat) (r : Nat) (bs : List Byte) : (s.writeRow t r bs).now = s.now := rfl
@[simp] theorem writeRow_free (s : State) (t : Nat) (r : Nat) (bs : List Byte) : (s.writeRow t r bs).free = s.free := rfl
@[simp] theorem writeRow_fuses (s : State) (t : Nat) (r : Nat) (bs : List Byte) : (s.writeRow t r bs).fuses = s.fuses := rfl
@[simp] theorem writeRow_flash (s : State) (t : Nat) (r : Nat) (bs : List Byte) : (s.writeRow t r bs).flash = s.flash := rfl
@[simp] theorem writeRow_regs (s : State) (t : Nat) (r : Nat) (bs : List Byte) : (s.writeRow t r bs).regs = s.regs := rfl
@[simp] theorem writeRow_errq (s : State) (t : Nat) (r : Nat) (bs : List Byte) : (s.writeRow t r bs).errq = s.errq := rfl
@[simp] theorem writeRow_errOvf (s : State) (t : Nat) (r : Nat) (bs : List Byte) : (s.writeRow t r bs).errOvf = s.errOvf := rfl
@[simp] theorem writeRow_cnt (s : State) (t : Nat) (r : Nat) (bs : List Byte) : (s.writeRow t r bs).cnt = s.cnt := rfl
@[simp] theorem writeRow_cntHeld (s : State) (t : Nat) (r : Nat) (bs : List Byte) : (s.writeRow t r bs).cntHeld = s.cntHeld := rfl
@[simp] theorem writeRow_cntReload (s : State) (t : Nat) (r : Nat) (bs : List Byte) : (s.writeRow t r bs).cntReload = s.cntReload := rfl
@[simp] theorem writeRow_cntCapture (s : State) (t : Nat) (r : Nat) (bs : List Byte) : (s.writeRow t r bs).cntCapture = s.cntCapture := rfl
@[simp] theorem writeRow_cntLevel (s : State) (t : Nat) (r : Nat) (bs : List Byte) : (s.writeRow t r bs).cntLevel = s.cntLevel := rfl
@[simp] theorem writeRow_evs (s : State) (t : Nat) (r : Nat) (bs : List Byte) : (s.writeRow t r bs).evs = s.evs := rfl
@[simp] theorem writeRow_start (s : State) (t : Nat) (r : Nat) (bs : List Byte) : (s.writeRow t r bs).start = s.start := rfl
@[simp] theorem writeRow_svc (s : State) (t : Nat) (r : Nat) (bs : List Byte) : (s.writeRow t r bs).svc = s.svc := rfl
@[simp] theorem writeRow_tiles (s : State) (t : Nat) (r : Nat) (bs : List Byte) : (s.writeRow t r bs).tiles = s.tiles := rfl
@[simp] theorem writeRow_disp (s : State) (t : Nat) (r : Nat) (bs : List Byte) : (s.writeRow t r bs).disp = s.disp := rfl
@[simp] theorem writeRow_ledger (s : State) (t : Nat) (r : Nat) (bs : List Byte) : (s.writeRow t r bs).ledger = s.ledger := rfl
@[simp] theorem writeRow_ilk (s : State) (t : Nat) (r : Nat) (bs : List Byte) : (s.writeRow t r bs).ilk = s.ilk := rfl
@[simp] theorem writeRow_dram (s : State) (t : Nat) (r : Nat) (bs : List Byte) : (s.writeRow t r bs).dram = s.dram := rfl
@[simp] theorem writeRow_safety (s : State) (t : Nat) (r : Nat) (bs : List Byte) : (s.writeRow t r bs).safety = s.safety := rfl
@[simp] theorem writeRow_ports (s : State) (t : Nat) (r : Nat) (bs : List Byte) : (s.writeRow t r bs).ports = s.ports := rfl
@[simp] theorem writeRow_convoy (s : State) (t : Nat) (r : Nat) (bs : List Byte) : (s.writeRow t r bs).convoy = s.convoy := rfl
@[simp] theorem writeRow_sec (s : State) (t : Nat) (r : Nat) (bs : List Byte) : (s.writeRow t r bs).sec = s.sec := rfl
@[simp] theorem writeRow_power (s : State) (t : Nat) (r : Nat) (bs : List Byte) : (s.writeRow t r bs).power = s.power := rfl
@[simp] theorem writeRow_links (s : State) (t : Nat) (r : Nat) (bs : List Byte) : (s.writeRow t r bs).links = s.links := rfl
@[simp] theorem writeRow_signals (s : State) (t : Nat) (r : Nat) (bs : List Byte) : (s.writeRow t r bs).signals = s.signals := rfl
@[simp] theorem writeRow_arbs (s : State) (t : Nat) (r : Nat) (bs : List Byte) : (s.writeRow t r bs).arbs = s.arbs := rfl
@[simp] theorem writeRow_mon (s : State) (t : Nat) (r : Nat) (bs : List Byte) : (s.writeRow t r bs).mon = s.mon := rfl
@[simp] theorem writeRow_pins (s : State) (t : Nat) (r : Nat) (bs : List Byte) : (s.writeRow t r bs).pins = s.pins := rfl

@[simp] theorem irqCause_pending (s : State) (p : Nat) (bit : Nat) : (s.irqCause p bit).pending = s.pending := rfl
@[simp] theorem irqCause_clk (s : State) (p : Nat) (bit : Nat) : (s.irqCause p bit).clk = s.clk := rfl
@[simp] theorem irqCause_now (s : State) (p : Nat) (bit : Nat) : (s.irqCause p bit).now = s.now := rfl
@[simp] theorem irqCause_free (s : State) (p : Nat) (bit : Nat) : (s.irqCause p bit).free = s.free := rfl
@[simp] theorem irqCause_fuses (s : State) (p : Nat) (bit : Nat) : (s.irqCause p bit).fuses = s.fuses := rfl
@[simp] theorem irqCause_flash (s : State) (p : Nat) (bit : Nat) : (s.irqCause p bit).flash = s.flash := rfl
@[simp] theorem irqCause_errq (s : State) (p : Nat) (bit : Nat) : (s.irqCause p bit).errq = s.errq := rfl
@[simp] theorem irqCause_errOvf (s : State) (p : Nat) (bit : Nat) : (s.irqCause p bit).errOvf = s.errOvf := rfl
@[simp] theorem irqCause_cnt (s : State) (p : Nat) (bit : Nat) : (s.irqCause p bit).cnt = s.cnt := rfl
@[simp] theorem irqCause_cntHeld (s : State) (p : Nat) (bit : Nat) : (s.irqCause p bit).cntHeld = s.cntHeld := rfl
@[simp] theorem irqCause_cntReload (s : State) (p : Nat) (bit : Nat) : (s.irqCause p bit).cntReload = s.cntReload := rfl
@[simp] theorem irqCause_cntCapture (s : State) (p : Nat) (bit : Nat) : (s.irqCause p bit).cntCapture = s.cntCapture := rfl
@[simp] theorem irqCause_cntLevel (s : State) (p : Nat) (bit : Nat) : (s.irqCause p bit).cntLevel = s.cntLevel := rfl
@[simp] theorem irqCause_evs (s : State) (p : Nat) (bit : Nat) : (s.irqCause p bit).evs = s.evs := rfl
@[simp] theorem irqCause_mem (s : State) (p : Nat) (bit : Nat) : (s.irqCause p bit).mem = s.mem := rfl
@[simp] theorem irqCause_start (s : State) (p : Nat) (bit : Nat) : (s.irqCause p bit).start = s.start := rfl
@[simp] theorem irqCause_svc (s : State) (p : Nat) (bit : Nat) : (s.irqCause p bit).svc = s.svc := rfl
@[simp] theorem irqCause_tiles (s : State) (p : Nat) (bit : Nat) : (s.irqCause p bit).tiles = s.tiles := rfl
@[simp] theorem irqCause_disp (s : State) (p : Nat) (bit : Nat) : (s.irqCause p bit).disp = s.disp := rfl
@[simp] theorem irqCause_ledger (s : State) (p : Nat) (bit : Nat) : (s.irqCause p bit).ledger = s.ledger := rfl
@[simp] theorem irqCause_ilk (s : State) (p : Nat) (bit : Nat) : (s.irqCause p bit).ilk = s.ilk := rfl
@[simp] theorem irqCause_dram (s : State) (p : Nat) (bit : Nat) : (s.irqCause p bit).dram = s.dram := rfl
@[simp] theorem irqCause_safety (s : State) (p : Nat) (bit : Nat) : (s.irqCause p bit).safety = s.safety := rfl
@[simp] theorem irqCause_ports (s : State) (p : Nat) (bit : Nat) : (s.irqCause p bit).ports = s.ports := rfl
@[simp] theorem irqCause_convoy (s : State) (p : Nat) (bit : Nat) : (s.irqCause p bit).convoy = s.convoy := rfl
@[simp] theorem irqCause_sec (s : State) (p : Nat) (bit : Nat) : (s.irqCause p bit).sec = s.sec := rfl
@[simp] theorem irqCause_power (s : State) (p : Nat) (bit : Nat) : (s.irqCause p bit).power = s.power := rfl
@[simp] theorem irqCause_links (s : State) (p : Nat) (bit : Nat) : (s.irqCause p bit).links = s.links := rfl
@[simp] theorem irqCause_signals (s : State) (p : Nat) (bit : Nat) : (s.irqCause p bit).signals = s.signals := rfl
@[simp] theorem irqCause_arbs (s : State) (p : Nat) (bit : Nat) : (s.irqCause p bit).arbs = s.arbs := rfl
@[simp] theorem irqCause_mon (s : State) (p : Nat) (bit : Nat) : (s.irqCause p bit).mon = s.mon := rfl
@[simp] theorem irqCause_pins (s : State) (p : Nat) (bit : Nat) : (s.irqCause p bit).pins = s.pins := rfl

@[simp] theorem noticeTo_pending (s : State) (p : Nat) (ty : Nat) (code : Nat) (tenant : Nat) (arg : Nat) : (s.noticeTo p ty code tenant arg).pending = s.pending := by
  unfold noticeTo
  dsimp only
  rw [irqCause_pending, setReg_pending, updPort_pending, write_pending]
@[simp] theorem noticeTo_clk (s : State) (p : Nat) (ty : Nat) (code : Nat) (tenant : Nat) (arg : Nat) : (s.noticeTo p ty code tenant arg).clk = s.clk := by
  unfold noticeTo
  dsimp only
  rw [irqCause_clk, setReg_clk, updPort_clk, write_clk]
@[simp] theorem noticeTo_now (s : State) (p : Nat) (ty : Nat) (code : Nat) (tenant : Nat) (arg : Nat) : (s.noticeTo p ty code tenant arg).now = s.now := by
  unfold noticeTo
  dsimp only
  rw [irqCause_now, setReg_now, updPort_now, write_now]
@[simp] theorem noticeTo_free (s : State) (p : Nat) (ty : Nat) (code : Nat) (tenant : Nat) (arg : Nat) : (s.noticeTo p ty code tenant arg).free = s.free := by
  unfold noticeTo
  dsimp only
  rw [irqCause_free, setReg_free, updPort_free, write_free]
@[simp] theorem noticeTo_fuses (s : State) (p : Nat) (ty : Nat) (code : Nat) (tenant : Nat) (arg : Nat) : (s.noticeTo p ty code tenant arg).fuses = s.fuses := by
  unfold noticeTo
  dsimp only
  rw [irqCause_fuses, setReg_fuses, updPort_fuses, write_fuses]
@[simp] theorem noticeTo_flash (s : State) (p : Nat) (ty : Nat) (code : Nat) (tenant : Nat) (arg : Nat) : (s.noticeTo p ty code tenant arg).flash = s.flash := by
  unfold noticeTo
  dsimp only
  rw [irqCause_flash, setReg_flash, updPort_flash, write_flash]
@[simp] theorem noticeTo_errq (s : State) (p : Nat) (ty : Nat) (code : Nat) (tenant : Nat) (arg : Nat) : (s.noticeTo p ty code tenant arg).errq = s.errq := by
  unfold noticeTo
  dsimp only
  rw [irqCause_errq, setReg_errq, updPort_errq, write_errq]
@[simp] theorem noticeTo_errOvf (s : State) (p : Nat) (ty : Nat) (code : Nat) (tenant : Nat) (arg : Nat) : (s.noticeTo p ty code tenant arg).errOvf = s.errOvf := by
  unfold noticeTo
  dsimp only
  rw [irqCause_errOvf, setReg_errOvf, updPort_errOvf, write_errOvf]
@[simp] theorem noticeTo_cnt (s : State) (p : Nat) (ty : Nat) (code : Nat) (tenant : Nat) (arg : Nat) : (s.noticeTo p ty code tenant arg).cnt = s.cnt := by
  unfold noticeTo
  dsimp only
  rw [irqCause_cnt, setReg_cnt, updPort_cnt, write_cnt]
@[simp] theorem noticeTo_cntHeld (s : State) (p : Nat) (ty : Nat) (code : Nat) (tenant : Nat) (arg : Nat) : (s.noticeTo p ty code tenant arg).cntHeld = s.cntHeld := by
  unfold noticeTo
  dsimp only
  rw [irqCause_cntHeld, setReg_cntHeld, updPort_cntHeld, write_cntHeld]
@[simp] theorem noticeTo_cntReload (s : State) (p : Nat) (ty : Nat) (code : Nat) (tenant : Nat) (arg : Nat) : (s.noticeTo p ty code tenant arg).cntReload = s.cntReload := by
  unfold noticeTo
  dsimp only
  rw [irqCause_cntReload, setReg_cntReload, updPort_cntReload, write_cntReload]
@[simp] theorem noticeTo_cntCapture (s : State) (p : Nat) (ty : Nat) (code : Nat) (tenant : Nat) (arg : Nat) : (s.noticeTo p ty code tenant arg).cntCapture = s.cntCapture := by
  unfold noticeTo
  dsimp only
  rw [irqCause_cntCapture, setReg_cntCapture, updPort_cntCapture, write_cntCapture]
@[simp] theorem noticeTo_cntLevel (s : State) (p : Nat) (ty : Nat) (code : Nat) (tenant : Nat) (arg : Nat) : (s.noticeTo p ty code tenant arg).cntLevel = s.cntLevel := by
  unfold noticeTo
  dsimp only
  rw [irqCause_cntLevel, setReg_cntLevel, updPort_cntLevel, write_cntLevel]
@[simp] theorem noticeTo_evs (s : State) (p : Nat) (ty : Nat) (code : Nat) (tenant : Nat) (arg : Nat) : (s.noticeTo p ty code tenant arg).evs = s.evs := by
  unfold noticeTo
  dsimp only
  rw [irqCause_evs, setReg_evs, updPort_evs, write_evs]
@[simp] theorem noticeTo_start (s : State) (p : Nat) (ty : Nat) (code : Nat) (tenant : Nat) (arg : Nat) : (s.noticeTo p ty code tenant arg).start = s.start := by
  unfold noticeTo
  dsimp only
  rw [irqCause_start, setReg_start, updPort_start, write_start]
@[simp] theorem noticeTo_svc (s : State) (p : Nat) (ty : Nat) (code : Nat) (tenant : Nat) (arg : Nat) : (s.noticeTo p ty code tenant arg).svc = s.svc := by
  unfold noticeTo
  dsimp only
  rw [irqCause_svc, setReg_svc, updPort_svc, write_svc]
@[simp] theorem noticeTo_tiles (s : State) (p : Nat) (ty : Nat) (code : Nat) (tenant : Nat) (arg : Nat) : (s.noticeTo p ty code tenant arg).tiles = s.tiles := by
  unfold noticeTo
  dsimp only
  rw [irqCause_tiles, setReg_tiles, updPort_tiles, write_tiles]
@[simp] theorem noticeTo_disp (s : State) (p : Nat) (ty : Nat) (code : Nat) (tenant : Nat) (arg : Nat) : (s.noticeTo p ty code tenant arg).disp = s.disp := by
  unfold noticeTo
  dsimp only
  rw [irqCause_disp, setReg_disp, updPort_disp, write_disp]
@[simp] theorem noticeTo_ledger (s : State) (p : Nat) (ty : Nat) (code : Nat) (tenant : Nat) (arg : Nat) : (s.noticeTo p ty code tenant arg).ledger = s.ledger := by
  unfold noticeTo
  dsimp only
  rw [irqCause_ledger, setReg_ledger, updPort_ledger, write_ledger]
@[simp] theorem noticeTo_ilk (s : State) (p : Nat) (ty : Nat) (code : Nat) (tenant : Nat) (arg : Nat) : (s.noticeTo p ty code tenant arg).ilk = s.ilk := by
  unfold noticeTo
  dsimp only
  rw [irqCause_ilk, setReg_ilk, updPort_ilk, write_ilk]
@[simp] theorem noticeTo_dram (s : State) (p : Nat) (ty : Nat) (code : Nat) (tenant : Nat) (arg : Nat) : (s.noticeTo p ty code tenant arg).dram = s.dram := by
  unfold noticeTo
  dsimp only
  rw [irqCause_dram, setReg_dram, updPort_dram, write_dram]
@[simp] theorem noticeTo_safety (s : State) (p : Nat) (ty : Nat) (code : Nat) (tenant : Nat) (arg : Nat) : (s.noticeTo p ty code tenant arg).safety = s.safety := by
  unfold noticeTo
  dsimp only
  rw [irqCause_safety, setReg_safety, updPort_safety, write_safety]
@[simp] theorem noticeTo_convoy (s : State) (p : Nat) (ty : Nat) (code : Nat) (tenant : Nat) (arg : Nat) : (s.noticeTo p ty code tenant arg).convoy = s.convoy := by
  unfold noticeTo
  dsimp only
  rw [irqCause_convoy, setReg_convoy, updPort_convoy, write_convoy]
@[simp] theorem noticeTo_sec (s : State) (p : Nat) (ty : Nat) (code : Nat) (tenant : Nat) (arg : Nat) : (s.noticeTo p ty code tenant arg).sec = s.sec := by
  unfold noticeTo
  dsimp only
  rw [irqCause_sec, setReg_sec, updPort_sec, write_sec]
@[simp] theorem noticeTo_power (s : State) (p : Nat) (ty : Nat) (code : Nat) (tenant : Nat) (arg : Nat) : (s.noticeTo p ty code tenant arg).power = s.power := by
  unfold noticeTo
  dsimp only
  rw [irqCause_power, setReg_power, updPort_power, write_power]
@[simp] theorem noticeTo_links (s : State) (p : Nat) (ty : Nat) (code : Nat) (tenant : Nat) (arg : Nat) : (s.noticeTo p ty code tenant arg).links = s.links := by
  unfold noticeTo
  dsimp only
  rw [irqCause_links, setReg_links, updPort_links, write_links]
@[simp] theorem noticeTo_signals (s : State) (p : Nat) (ty : Nat) (code : Nat) (tenant : Nat) (arg : Nat) : (s.noticeTo p ty code tenant arg).signals = s.signals := by
  unfold noticeTo
  dsimp only
  rw [irqCause_signals, setReg_signals, updPort_signals, write_signals]
@[simp] theorem noticeTo_arbs (s : State) (p : Nat) (ty : Nat) (code : Nat) (tenant : Nat) (arg : Nat) : (s.noticeTo p ty code tenant arg).arbs = s.arbs := by
  unfold noticeTo
  dsimp only
  rw [irqCause_arbs, setReg_arbs, updPort_arbs, write_arbs]
@[simp] theorem noticeTo_mon (s : State) (p : Nat) (ty : Nat) (code : Nat) (tenant : Nat) (arg : Nat) : (s.noticeTo p ty code tenant arg).mon = s.mon := by
  unfold noticeTo
  dsimp only
  rw [irqCause_mon, setReg_mon, updPort_mon, write_mon]
@[simp] theorem noticeTo_pins (s : State) (p : Nat) (ty : Nat) (code : Nat) (tenant : Nat) (arg : Nat) : (s.noticeTo p ty code tenant arg).pins = s.pins := by
  unfold noticeTo
  dsimp only
  rw [irqCause_pins, setReg_pins, updPort_pins, write_pins]

@[simp] theorem notice_pending (s : State) (ty : Nat) (code : Nat) (tenant : Nat) (arg : Nat) : (s.notice ty code tenant arg).pending = s.pending := by
  unfold notice
  rw [noticeTo_pending, noticeTo_pending]
@[simp] theorem notice_clk (s : State) (ty : Nat) (code : Nat) (tenant : Nat) (arg : Nat) : (s.notice ty code tenant arg).clk = s.clk := by
  unfold notice
  rw [noticeTo_clk, noticeTo_clk]
@[simp] theorem notice_now (s : State) (ty : Nat) (code : Nat) (tenant : Nat) (arg : Nat) : (s.notice ty code tenant arg).now = s.now := by
  unfold notice
  rw [noticeTo_now, noticeTo_now]
@[simp] theorem notice_free (s : State) (ty : Nat) (code : Nat) (tenant : Nat) (arg : Nat) : (s.notice ty code tenant arg).free = s.free := by
  unfold notice
  rw [noticeTo_free, noticeTo_free]
@[simp] theorem notice_fuses (s : State) (ty : Nat) (code : Nat) (tenant : Nat) (arg : Nat) : (s.notice ty code tenant arg).fuses = s.fuses := by
  unfold notice
  rw [noticeTo_fuses, noticeTo_fuses]
@[simp] theorem notice_flash (s : State) (ty : Nat) (code : Nat) (tenant : Nat) (arg : Nat) : (s.notice ty code tenant arg).flash = s.flash := by
  unfold notice
  rw [noticeTo_flash, noticeTo_flash]
@[simp] theorem notice_errq (s : State) (ty : Nat) (code : Nat) (tenant : Nat) (arg : Nat) : (s.notice ty code tenant arg).errq = s.errq := by
  unfold notice
  rw [noticeTo_errq, noticeTo_errq]
@[simp] theorem notice_errOvf (s : State) (ty : Nat) (code : Nat) (tenant : Nat) (arg : Nat) : (s.notice ty code tenant arg).errOvf = s.errOvf := by
  unfold notice
  rw [noticeTo_errOvf, noticeTo_errOvf]
@[simp] theorem notice_cnt (s : State) (ty : Nat) (code : Nat) (tenant : Nat) (arg : Nat) : (s.notice ty code tenant arg).cnt = s.cnt := by
  unfold notice
  rw [noticeTo_cnt, noticeTo_cnt]
@[simp] theorem notice_cntHeld (s : State) (ty : Nat) (code : Nat) (tenant : Nat) (arg : Nat) : (s.notice ty code tenant arg).cntHeld = s.cntHeld := by
  unfold notice
  rw [noticeTo_cntHeld, noticeTo_cntHeld]
@[simp] theorem notice_cntReload (s : State) (ty : Nat) (code : Nat) (tenant : Nat) (arg : Nat) : (s.notice ty code tenant arg).cntReload = s.cntReload := by
  unfold notice
  rw [noticeTo_cntReload, noticeTo_cntReload]
@[simp] theorem notice_cntCapture (s : State) (ty : Nat) (code : Nat) (tenant : Nat) (arg : Nat) : (s.notice ty code tenant arg).cntCapture = s.cntCapture := by
  unfold notice
  rw [noticeTo_cntCapture, noticeTo_cntCapture]
@[simp] theorem notice_cntLevel (s : State) (ty : Nat) (code : Nat) (tenant : Nat) (arg : Nat) : (s.notice ty code tenant arg).cntLevel = s.cntLevel := by
  unfold notice
  rw [noticeTo_cntLevel, noticeTo_cntLevel]
@[simp] theorem notice_evs (s : State) (ty : Nat) (code : Nat) (tenant : Nat) (arg : Nat) : (s.notice ty code tenant arg).evs = s.evs := by
  unfold notice
  rw [noticeTo_evs, noticeTo_evs]
@[simp] theorem notice_start (s : State) (ty : Nat) (code : Nat) (tenant : Nat) (arg : Nat) : (s.notice ty code tenant arg).start = s.start := by
  unfold notice
  rw [noticeTo_start, noticeTo_start]
@[simp] theorem notice_svc (s : State) (ty : Nat) (code : Nat) (tenant : Nat) (arg : Nat) : (s.notice ty code tenant arg).svc = s.svc := by
  unfold notice
  rw [noticeTo_svc, noticeTo_svc]
@[simp] theorem notice_tiles (s : State) (ty : Nat) (code : Nat) (tenant : Nat) (arg : Nat) : (s.notice ty code tenant arg).tiles = s.tiles := by
  unfold notice
  rw [noticeTo_tiles, noticeTo_tiles]
@[simp] theorem notice_disp (s : State) (ty : Nat) (code : Nat) (tenant : Nat) (arg : Nat) : (s.notice ty code tenant arg).disp = s.disp := by
  unfold notice
  rw [noticeTo_disp, noticeTo_disp]
@[simp] theorem notice_ledger (s : State) (ty : Nat) (code : Nat) (tenant : Nat) (arg : Nat) : (s.notice ty code tenant arg).ledger = s.ledger := by
  unfold notice
  rw [noticeTo_ledger, noticeTo_ledger]
@[simp] theorem notice_ilk (s : State) (ty : Nat) (code : Nat) (tenant : Nat) (arg : Nat) : (s.notice ty code tenant arg).ilk = s.ilk := by
  unfold notice
  rw [noticeTo_ilk, noticeTo_ilk]
@[simp] theorem notice_dram (s : State) (ty : Nat) (code : Nat) (tenant : Nat) (arg : Nat) : (s.notice ty code tenant arg).dram = s.dram := by
  unfold notice
  rw [noticeTo_dram, noticeTo_dram]
@[simp] theorem notice_safety (s : State) (ty : Nat) (code : Nat) (tenant : Nat) (arg : Nat) : (s.notice ty code tenant arg).safety = s.safety := by
  unfold notice
  rw [noticeTo_safety, noticeTo_safety]
@[simp] theorem notice_convoy (s : State) (ty : Nat) (code : Nat) (tenant : Nat) (arg : Nat) : (s.notice ty code tenant arg).convoy = s.convoy := by
  unfold notice
  rw [noticeTo_convoy, noticeTo_convoy]
@[simp] theorem notice_sec (s : State) (ty : Nat) (code : Nat) (tenant : Nat) (arg : Nat) : (s.notice ty code tenant arg).sec = s.sec := by
  unfold notice
  rw [noticeTo_sec, noticeTo_sec]
@[simp] theorem notice_power (s : State) (ty : Nat) (code : Nat) (tenant : Nat) (arg : Nat) : (s.notice ty code tenant arg).power = s.power := by
  unfold notice
  rw [noticeTo_power, noticeTo_power]
@[simp] theorem notice_links (s : State) (ty : Nat) (code : Nat) (tenant : Nat) (arg : Nat) : (s.notice ty code tenant arg).links = s.links := by
  unfold notice
  rw [noticeTo_links, noticeTo_links]
@[simp] theorem notice_signals (s : State) (ty : Nat) (code : Nat) (tenant : Nat) (arg : Nat) : (s.notice ty code tenant arg).signals = s.signals := by
  unfold notice
  rw [noticeTo_signals, noticeTo_signals]
@[simp] theorem notice_arbs (s : State) (ty : Nat) (code : Nat) (tenant : Nat) (arg : Nat) : (s.notice ty code tenant arg).arbs = s.arbs := by
  unfold notice
  rw [noticeTo_arbs, noticeTo_arbs]
@[simp] theorem notice_mon (s : State) (ty : Nat) (code : Nat) (tenant : Nat) (arg : Nat) : (s.notice ty code tenant arg).mon = s.mon := by
  unfold notice
  rw [noticeTo_mon, noticeTo_mon]
@[simp] theorem notice_pins (s : State) (ty : Nat) (code : Nat) (tenant : Nat) (arg : Nat) : (s.notice ty code tenant arg).pins = s.pins := by
  unfold notice
  rw [noticeTo_pins, noticeTo_pins]

end Sys2Proof.Machine.State
end

