-- ==== Sys2Proof/Laws/Slots.lean ====
section
/-! SUPPORT. A slot that runs alone in its bundle: the state that the issue answers, and what the walk of the bundle address leaves alone. -/

set_option Elab.async false

namespace Sys2Proof.Machine

open Sys2Proof

/-! ### The slot of each instruction -/

@[simp] theorem slotOf_loop (i : Issue) (creg : BitVec 6) (cimm : BitVec 20) (skip : BitVec 16) : slotOf (.loop i creg cimm skip) = some (i, slotLoop creg cimm skip) := rfl
@[simp] theorem slotOf_endloop (i : Issue)  : slotOf (.endloop i) = some (i, slotEndloop) := rfl
@[simp] theorem slotOf_br (i : Issue) (pop : BitVec 2) (off : BitVec 16) : slotOf (.br i pop off) = some (i, slotBr pop off) := rfl
@[simp] theorem slotOf_brc (i : Issue) (reg : BitVec 6) (cond : BitVec 3) (bit : BitVec 6) (pop : BitVec 2) (off : BitVec 16) : slotOf (.brc i reg cond bit pop off) = some (i, slotBrc reg cond bit pop off) := rfl
@[simp] theorem slotOf_waitEvent (i : Issue) (imm : Word) : slotOf (.waitEvent i imm) = some (i, slotWaitEvent imm) := rfl
@[simp] theorem slotOf_waitDock (i : Issue) (dock : BitVec 4) (rf : Bool) (sreg : BitVec 5) (imm : Word) : slotOf (.waitDock i dock rf sreg imm) = some (i, slotWaitDock dock rf sreg imm) := rfl
@[simp] theorem slotOf_waitTime (i : Issue) (sreg : BitVec 5) : slotOf (.waitTime i sreg) = some (i, slotWaitTime sreg) := rfl
@[simp] theorem slotOf_waitTags (i : Issue) (imm : Word) : slotOf (.waitTags i imm) = some (i, slotWaitTags imm) := rfl
@[simp] theorem slotOf_signalEvent (i : Issue) (rf : Bool) (sreg : BitVec 5) (tile : BitVec 6) (num : BitVec 4) : slotOf (.signalEvent i rf sreg tile num) = some (i, slotSignalEvent rf sreg tile num) := rfl
@[simp] theorem slotOf_signalDockOpen (i : Issue) (num : BitVec 4) : slotOf (.signalDockOpen i num) = some (i, slotSignalDockOpen num) := rfl
@[simp] theorem slotOf_signalDockClose (i : Issue) (num : BitVec 4) : slotOf (.signalDockClose i num) = some (i, slotSignalDockClose num) := rfl
@[simp] theorem slotOf_sets (i : Issue) (dst : BitVec 6) (imm : Addr) : slotOf (.sets i dst imm) = some (i, slotSets dst imm) := rfl
@[simp] theorem slotOf_adds (i : Issue) (dst : BitVec 6) (srca : BitVec 6) (srcb : BitVec 6) (imm : Word) : slotOf (.adds i dst srca srcb imm) = some (i, slotAdds dst srca srcb imm) := rfl
@[simp] theorem slotOf_roster (i : Issue) (sb : BitVec 5) (table : RowOp) (n1 : BitVec 8) (chunk : BitVec 13) (skip : BitVec 16) : slotOf (.roster i sb table n1 chunk skip) = some (i, slotRoster sb table n1 chunk skip) := rfl
@[simp] theorem slotOf_budget (i : Issue) (sd : BitVec 5) (thresh : Word) : slotOf (.budget i sd thresh) = some (i, slotBudget sd thresh) := rfl
@[simp] theorem slotOf_fence (i : Issue) (mask : BitVec 3) : slotOf (.fence i mask) = some (i, slotFence mask) := rfl
@[simp] theorem slotOf_mark (i : Issue) (value : BitVec 16) : slotOf (.mark i value) = some (i, slotMark value) := rfl
@[simp] theorem slotOf_endWaybill (i : Issue) (code : BitVec 16) : slotOf (.endWaybill i code) = some (i, slotEndWaybill code) := rfl
@[simp] theorem slotOf_ldrow (i : Issue) (tag : BitVec 4) (an : BitVec 4) (dst : RowOp) (n1 : BitVec 8) (sf : Bool) (ss : BitVec 5) (off : BitVec 20) : slotOf (.ldrow i tag an dst n1 sf ss off) = some (i, slotLdrow tag an dst n1 sf ss off) := rfl
@[simp] theorem slotOf_strow (i : Issue) (tag : BitVec 4) (an : BitVec 4) (src : RowOp) (n1 : BitVec 8) (sf : Bool) (ss : BitVec 5) (off : BitVec 20) : slotOf (.strow i tag an src n1 sf ss off) = some (i, slotStrow tag an src n1 sf ss off) := rfl
@[simp] theorem slotOf_ldledger (i : Issue) (tag : BitVec 4) (an : BitVec 4) (dst : RowOp) (n1 : BitVec 8) (sd : BitVec 5) (off : BitVec 20) : slotOf (.ldledger i tag an dst n1 sd off) = some (i, slotLdledger tag an dst n1 sd off) := rfl
@[simp] theorem slotOf_dockwr (i : Issue) (tag : BitVec 4) (src : RowOp) (n1 : BitVec 3) (seatf : Bool) (seat : BitVec 8) (tile : BitVec 6) (dock : BitVec 4) (doff : BitVec 11) : slotOf (.dockwr i tag src n1 seatf seat tile dock doff) = some (i, slotDockwr tag src n1 seatf seat tile dock doff) := rfl
@[simp] theorem slotOf_platcpy (i : Issue) (tag : BitVec 4) (dan : BitVec 4) (san : BitVec 4) (lreg : BitVec 5) : slotOf (.platcpy i tag dan san lreg) = some (i, slotPlatcpy tag dan san lreg) := rfl
@[simp] theorem slotOf_gather (i : Issue) (tag : BitVec 4) (an : BitVec 4) (dst : RowOp) (idx : RowOp) (n1 : BitVec 7) (sm : Bool) (ss : BitVec 5) : slotOf (.gather i tag an dst idx n1 sm ss) = some (i, slotGather tag an dst idx n1 sm ss) := rfl
@[simp] theorem slotOf_ldw (i : Issue) (tag : BitVec 4) (mode : BitVec 2) (sc : Bool) (n1 : BitVec 6) (src : LdwSrc) : slotOf (.ldw i tag mode sc n1 src) = some (i, slotLdw tag mode sc n1 src) := rfl
@[simp] theorem slotOf_commit (i : Issue) (tag : BitVec 4) (an : BitVec 4) (se : BitVec 5) (sn : BitVec 5) (sd : BitVec 5) (seatf : Bool) (seat : BitVec 8) (off : BitVec 20) : slotOf (.commit i tag an se sn sd seatf seat off) = some (i, slotCommit tag an se sn sd seatf seat off) := rfl
@[simp] theorem slotOf_mma (i : Issue) (act : RowOp) (acc : AccOp) (m1 : BitVec 8) (fmt : BitVec 4) (scl : RowOp) : slotOf (.mma i act acc m1 fmt scl) = some (i, slotMma act acc m1 fmt scl) := rfl
@[simp] theorem slotOf_mmaz (i : Issue) (act : RowOp) (acc : AccOp) (m1 : BitVec 8) (fmt : BitVec 4) (scl : RowOp) : slotOf (.mmaz i act acc m1 fmt scl) = some (i, slotMmaz act acc m1 fmt scl) := rfl
@[simp] theorem slotOf_conv (i : Issue) (act : RowOp) (acc : AccOp) (sd : BitVec 5) (fmt : BitVec 4) (scl : RowOp) : slotOf (.conv i act acc sd fmt scl) = some (i, slotConv act acc sd fmt scl) := rfl
@[simp] theorem slotOf_dconv (i : Issue) (act : RowOp) (acc : AccOp) (sd : BitVec 5) (fmt : BitVec 4) (scl : RowOp) (g : BitVec 3) : slotOf (.dconv i act acc sd fmt scl g) = some (i, slotDconv act acc sd fmt scl g) := rfl
@[simp] theorem slotOf_swapw (i : Issue)  : slotOf (.swapw i) = some (i, slotSwapw) := rfl
@[simp] theorem slotOf_accrd (i : Issue) (acc : AccOp) (m1 : BitVec 8) (dst : RowOp) (ofmt : BitVec 4) (epi : RowOp) (sr : Bool) (relu : Bool) : slotOf (.accrd i acc m1 dst ofmt epi sr relu) = some (i, slotAccrd acc m1 dst ofmt epi sr relu) := rfl
@[simp] theorem slotOf_vopMov (i : Issue) (v : VecOp) : slotOf (.vopMov i v) = some (i, slotVopMov v) := rfl
@[simp] theorem slotOf_vopAdd (i : Issue) (v : VecOp) : slotOf (.vopAdd i v) = some (i, slotVopAdd v) := rfl
@[simp] theorem slotOf_vopSub (i : Issue) (v : VecOp) : slotOf (.vopSub i v) = some (i, slotVopSub v) := rfl
@[simp] theorem slotOf_vopMul (i : Issue) (v : VecOp) : slotOf (.vopMul i v) = some (i, slotVopMul v) := rfl
@[simp] theorem slotOf_vopMax (i : Issue) (v : VecOp) : slotOf (.vopMax i v) = some (i, slotVopMax v) := rfl
@[simp] theorem slotOf_vopMin (i : Issue) (v : VecOp) : slotOf (.vopMin i v) = some (i, slotVopMin v) := rfl
@[simp] theorem slotOf_vopAbs (i : Issue) (v : VecOp) : slotOf (.vopAbs i v) = some (i, slotVopAbs v) := rfl
@[simp] theorem slotOf_vopNeg (i : Issue) (v : VecOp) : slotOf (.vopNeg i v) = some (i, slotVopNeg v) := rfl
@[simp] theorem slotOf_vopRelu (i : Issue) (v : VecOp) : slotOf (.vopRelu i v) = some (i, slotVopRelu v) := rfl
@[simp] theorem slotOf_vopRcp (i : Issue) (v : VecOp) : slotOf (.vopRcp i v) = some (i, slotVopRcp v) := rfl
@[simp] theorem slotOf_vopRsqrt (i : Issue) (v : VecOp) : slotOf (.vopRsqrt i v) = some (i, slotVopRsqrt v) := rfl
@[simp] theorem slotOf_vopAnd (i : Issue) (v : VecOp) : slotOf (.vopAnd i v) = some (i, slotVopAnd v) := rfl
@[simp] theorem slotOf_vopOr (i : Issue) (v : VecOp) : slotOf (.vopOr i v) = some (i, slotVopOr v) := rfl
@[simp] theorem slotOf_vopXor (i : Issue) (v : VecOp) : slotOf (.vopXor i v) = some (i, slotVopXor v) := rfl
@[simp] theorem slotOf_vopShl (i : Issue) (v : VecOp) : slotOf (.vopShl i v) = some (i, slotVopShl v) := rfl
@[simp] theorem slotOf_vopShr (i : Issue) (v : VecOp) : slotOf (.vopShr i v) = some (i, slotVopShr v) := rfl
@[simp] theorem slotOf_vopZero (i : Issue) (v : VecOp) : slotOf (.vopZero i v) = some (i, slotVopZero v) := rfl
@[simp] theorem slotOf_vfma (i : Issue) (v : VecOp) : slotOf (.vfma i v) = some (i, slotVfma v) := rfl
@[simp] theorem slotOf_vsel (i : Issue) (v : VecOp) : slotOf (.vsel i v) = some (i, slotVsel v) := rfl
@[simp] theorem slotOf_vcmpEq (i : Issue) (v : VecOp) : slotOf (.vcmpEq i v) = some (i, slotVcmpEq v) := rfl
@[simp] theorem slotOf_vcmpNe (i : Issue) (v : VecOp) : slotOf (.vcmpNe i v) = some (i, slotVcmpNe v) := rfl
@[simp] theorem slotOf_vcmpLt (i : Issue) (v : VecOp) : slotOf (.vcmpLt i v) = some (i, slotVcmpLt v) := rfl
@[simp] theorem slotOf_vcmpLe (i : Issue) (v : VecOp) : slotOf (.vcmpLe i v) = some (i, slotVcmpLe v) := rfl
@[simp] theorem slotOf_vcmpGt (i : Issue) (v : VecOp) : slotOf (.vcmpGt i v) = some (i, slotVcmpGt v) := rfl
@[simp] theorem slotOf_vcmpGe (i : Issue) (v : VecOp) : slotOf (.vcmpGe i v) = some (i, slotVcmpGe v) := rfl
@[simp] theorem slotOf_vexp2 (i : Issue) (v : VecOp) : slotOf (.vexp2 i v) = some (i, slotVexp2 v) := rfl
@[simp] theorem slotOf_vtabEval (i : Issue) (v : VecOp) : slotOf (.vtabEval i v) = some (i, slotVtabEval v) := rfl
@[simp] theorem slotOf_vtabLoad (i : Issue) (v : VecOp) : slotOf (.vtabLoad i v) = some (i, slotVtabLoad v) := rfl
@[simp] theorem slotOf_vredSum (i : Issue) (v : VecOp) (lanes : Bool) : slotOf (.vredSum i v lanes) = some (i, slotVredSum v lanes) := rfl
@[simp] theorem slotOf_vredMax (i : Issue) (v : VecOp) (lanes : Bool) : slotOf (.vredMax i v lanes) = some (i, slotVredMax v lanes) := rfl
@[simp] theorem slotOf_vredMin (i : Issue) (v : VecOp) (lanes : Bool) : slotOf (.vredMin i v lanes) = some (i, slotVredMin v lanes) := rfl
@[simp] theorem slotOf_vcvt (i : Issue) (v : VecOp) (src : BitVec 4) (dst : BitVec 4) : slotOf (.vcvt i v src dst) = some (i, slotVcvt v src dst) := rfl
@[simp] theorem slotOf_vxpose (i : Issue) (v : VecOp) : slotOf (.vxpose i v) = some (i, slotVxpose v) := rfl
@[simp] theorem slotOf_vmerge (i : Issue) (v : VecOp) (init : Bool) (final : Bool) : slotOf (.vmerge i v init final) = some (i, slotVmerge v init final) := rfl
@[simp] theorem slotOf_vpoolMax (i : Issue) (v : VecOp) (countPad : Bool) : slotOf (.vpoolMax i v countPad) = some (i, slotVpoolMax v countPad) := rfl
@[simp] theorem slotOf_vpoolAvg (i : Issue) (v : VecOp) (countPad : Bool) : slotOf (.vpoolAvg i v countPad) = some (i, slotVpoolAvg v countPad) := rfl

/-- A slot alone in its bundle is the bundle. -/
theorem bundleSlots_lone {s : State} {i : Issue} {ins : Instr} {x : Slot} (ho : slotOf ins = some (i, x)) (h : slotLone s i x = true) :
    s.bundleSlots i ((s.tile i.tile).bundle ++ [ins]) = [x] := by
  simp only [slotLone, Bool.and_eq_true, List.all_cons, List.all_nil, Bool.or_eq_true, decide_eq_true_eq, List.isEmpty_iff, Option.isNone_iff_eq_none,
    Bool.and_true] at h
  obtain ⟨⟨⟨-, -⟩, hb⟩, h1, h2, h3, h4⟩ := h
  rw [hb]
  cases hx : x.pos <;> simp_all [State.bundleSlots]

/-- A slot that issues alone runs on its tile, and in a pair on the follower after it (R101). -/
theorem handSlot_issues {ins : Instr} {i : Issue} {x : Slot} {s : State} (ho : slotOf ins = some (i, x)) (h : slotIssues s i x = true) :
    ∃ l f : List (Nat × Bool), (i.ecc = [] → l = []) ∧
      handSlot i ins s = .next (if (s.tile i.tile).coupled then s.runPair [x] l f i.tile else s.runBundle [x] l i.tile) := by
  simp only [slotIssues, Bool.and_eq_true, Bool.not_eq_true', Option.isNone_iff_eq_none] at h
  obtain ⟨⟨⟨⟨⟨h1, h2⟩, h3⟩, h4⟩, h5⟩, h6⟩ := h
  have hg : s.gated i.tile = false := by
    simp only [State.bundleHeld, Bool.or_eq_false_iff] at h6
    exact h6.1.1.1
  have hl := h4
  simp only [slotLone, Bool.and_eq_true, decide_eq_true_eq] at hl
  refine ⟨i.ecc.filter (fun e => (s.readRows i.tile (([x].filter (·.pos ≠ .mov)).flatMap (fun y => (y.plan s i.tile).ranges))).contains e.1),
    i.eccF.filter (fun e => (s.readRows i.tile (([x].filter (·.pos ≠ .mov)).flatMap (fun y => (y.plan s i.tile).ranges))).contains e.1),
    fun he => by simp [he], ?_⟩
  simp only [handSlot, whenLive, h1, h2, h3, hl.1.1.1, Bool.not_true, Bool.or_self, Bool.false_eq_true, if_true, if_false, State.issueBundle, hl.1.1.2,
    State.passNops, bundleSlots_lone ho h4, State.issueSlots, List.map_cons, List.map_nil, List.any_cons, List.any_nil, Bool.or_false, h5, h6, hg]

/-- Without findings of the corrector, a bundle of one slot that is no CTL slot is its effect and the walk of the bundle address. -/
theorem runBundle_eff (s : State) (x : Slot) (t : Nat) (h : x.pos ≠ .ctl) :
    s.runBundle [x] [] t = ((x.eff (s.updTile t (fun T => { T.snap with bundle := [] })) t).advance t).countEvent (pgTileCnt t) 3 := by
  cases hx : x.pos <;> simp_all [State.runBundle, State.runSlots, State.runNext, State.effectOrder, State.markEcc, State.applyEcc, forEach]

/-- A CTL slot walks the bundle address itself. -/
theorem runBundle_ctl (s : State) (x : Slot) (t : Nat) (h : x.pos = .ctl) :
    s.runBundle [x] [] t = (x.eff (s.updTile t (fun T => { T.snap with bundle := [] })) t).countEvent (pgTileCnt t) 3 := by
  simp [State.runBundle, State.runSlots, State.runNext, State.effectOrder, State.markEcc, State.applyEcc, forEach, h]

/-- A slot of a single tile, without findings of the corrector. -/
theorem handSlot_alone {ins : Instr} {i : Issue} {x : Slot} {s : State} (ho : slotOf ins = some (i, x)) (h : slotIssues s i x = true)
    (hc : (s.tile i.tile).coupled = false) (he : i.ecc = []) : handSlot i ins s = .next (s.runBundle [x] [] i.tile) := by
  obtain ⟨l, f, hl, hr⟩ := handSlot_issues ho h
  rw [hr, hl he, hc]
  simp only [Bool.false_eq_true, if_false]

/-- The next bundle inside the share: the bundle address moves, and nothing else. -/
theorem advance_inside {s : State} {t : Nat} (h : (s.tile t).pc + 1 < s.ibufSize t (s.berth t)) :
    s.advance t = s.updTile t (fun T => { T with pc := (s.tile t).pc + 1 }) := by
  unfold State.advance State.fetchAt
  have e : (((s.tile t).pc : Int) + 1).toNat = (s.tile t).pc + 1 := by omega
  rw [e, if_pos ⟨by omega, h⟩]

/-- Berth, shares and instruction share depend on the registers alone. -/
theorem berth_congr {s t : State} (h : t.regs = s.regs) (hs : t.fuses = s.fuses) (u : Nat) : t.berth u = s.berth u := fld_congr h hs _ _ _
theorem ibufSize_congr {s t : State} (h : t.regs = s.regs) (hs : t.fuses = s.fuses) (u n : Nat) : t.ibufSize u n = s.ibufSize u n := by
  rw [State.ibufSize, State.ibufSize, fld_congr h hs]
theorem absRow_congr {s t : State} (h : t.regs = s.regs) (hs : t.fuses = s.fuses) (u r : Nat) : t.absRow u r = s.absRow u r := by
  rw [State.absRow, State.absRow, State.shareBase, State.shareBase, berth_congr h hs, fld_congr h hs]

/-- A slot of a single tile, not of the CTL position, whose effect keeps the registers and the bundle address: the state that it answers. -/
theorem handSlot_eff {ins : Instr} {i : Issue} {x : Slot} {s : State} (ho : slotOf ins = some (i, x)) (h : slotIssues s i x = true)
    (hx : x.pos ≠ .ctl) (ha : slotAlone s i = true) {v : State} (hv : x.eff (s.updTile i.tile (fun T => { T.snap with bundle := [] })) i.tile = v)
    (hr : v.regs = s.regs) (hf : v.fuses = s.fuses) (hp : (v.tile i.tile).pc = (s.tile i.tile).pc) :
    handSlot i ins s = .next ((v.updTile i.tile (fun T => { T with pc := (s.tile i.tile).pc + 1 })).countEvent (pgTileCnt i.tile) 3) := by
  simp only [slotAlone, Bool.and_eq_true, Bool.not_eq_true', decide_eq_true_eq] at ha
  rw [handSlot_alone ho h ha.1.1 ha.1.2, runBundle_eff _ _ _ hx, hv, advance_inside, hp]
  rw [hp, berth_congr hr hf, ibufSize_congr hr hf]
  exact ha.2

end Sys2Proof.Machine
end

