-- ==== Sys2Proof/Laws/Rows.lean ====
section
/-! SUPPORT. Rows and vector registers after a write, and what a vector result leaves alone. -/

set_option Elab.async false

namespace Sys2Proof.Machine

open Sys2Proof

theorem smGet_foldl_ne {α : Type} (d : α) (f : Nat → Nat) (g : Nat → α) (l : List Nat) (m : SMap α) (k : Nat) (h : ∀ x ∈ l, f x ≠ k) :
    smGet (l.foldl (fun m i => smPut m (f i) (g i)) m) d k = smGet m d k := by
  induction l generalizing m with
  | nil => rfl
  | cons x l ih =>
    rw [List.foldl_cons, ih _ (fun y hy => h y (List.mem_cons_of_mem _ hy)), smGet_smPut_ne _ _ _ (fun e => h x List.mem_cons_self e.symm)]

theorem smGet_foldl_range {α : Type} (d : α) (f : Nat → Nat) (hf : ∀ x y, f x = f y → x = y) (g : Nat → α) (n : Nat) (m : SMap α) (j : Nat) (h : j < n) :
    smGet ((List.range n).foldl (fun m i => smPut m (f i) (g i)) m) d (f j) = g j := by
  induction n with
  | zero => omega
  | succ n ih =>
    rw [List.range_succ, List.foldl_append, List.foldl_cons, List.foldl_nil]
    by_cases e : j = n
    · subst e; rw [smGet_smPut_same]
    · rw [smGet_smPut_ne _ _ _ (fun h' => e (hf _ _ h')), ih (by omega)]

theorem vregs_setVreg (T : Tile) (v : Nat) (bs : List Byte) :
    (T.setVreg v bs).vregs = (List.range 512).foldl (fun m i => smPut m (v * 512 + i) (bs.getD i 0)) T.vregs := by
  simp only [Tile.setVreg]

/-- A vector register reads the 512 bytes that were written to it. -/
theorem vreg_setVreg_same (T : Tile) (v : Nat) (bs : List Byte) (h : bs.length = 512) : (T.setVreg v bs).vreg v = bs := by
  have hv : (T.setVreg v bs).vwritten.contains v = true := by
    unfold Tile.setVreg
    dsimp only
    split
    · assumption
    · simp
  unfold Tile.vreg
  rw [if_pos hv]
  refine List.ext_getElem (by rw [List.length_map, List.length_range, h]) fun i h1 h2 => ?_
  rw [List.getElem_map, List.getElem_range]
  rw [vregs_setVreg]
  have hi : i < 512 := by omega
  rw [smGet_foldl_range 0 (fun i => v * 512 + i) (fun x y e => by simpa using e) (fun i => bs.getD i 0) 512 T.vregs i hi]
  rw [List.getD_eq_getElem?_getD, List.getElem?_eq_getElem h2, Option.getD_some]

theorem length_natLE (n v : Nat) : (natLE n v).length = n := by
  induction n generalizing v with
  | zero => rfl
  | succ n ih => simp [natLE, ih]

theorem length_flatMap_natLE (n : Nat) (l : List Nat) : (l.flatMap (natLE n)).length = l.length * n := by
  induction l with
  | nil => simp
  | cons x l ih => rw [List.flatMap_cons, List.length_append, ih, length_natLE, List.length_cons, Nat.add_mul, Nat.one_mul, Nat.add_comm]

/-- A row of lane patterns is 512 bytes. -/
theorem length_rowOf (y : VTy) (l : List Nat) (h : l.length = y.lanes) : (y.rowOf l).length = 512 := by
  cases y
  case fp32 => exact (length_flatMap_natLE 4 l).trans (h ▸ rfl)
  all_goals exact (length_flatMap_natLE 2 l).trans (h ▸ rfl)

theorem length_lanesOf (y : VTy) (bs : List Byte) : (y.lanesOf bs).length = y.lanes := by
  unfold VTy.lanesOf unpackElems
  split <;> simp

/-- Rows of different numbers share no byte. -/
theorem rowBytes_writeRow_ne (s : State) (t : Nat) {r q : Nat} (bs : List Byte) (hb : bs.length = 512) (h : q ≠ r) :
    (s.writeRow t r bs).rowBytes t q = s.rowBytes t q := by
  refine List.ext_getElem (by simp [State.rowBytes, State.bytes, memBytes]) fun i h1 h2 => ?_
  simp only [State.rowBytes, State.bytes, memBytes, List.getElem_map, List.getElem_range, State.writeRow, State.write]
  have hi : i < 512 := by simpa [State.rowBytes, State.bytes, memBytes] using h1
  refine memByte_memWrite_outside _ _ _ ?_
  simp only [rowAddr]
  rcases Nat.lt_or_gt_of_ne h with h | h <;> omega

theorem rowBytes_writeRow_same (s : State) (t r : Nat) (bs : List Byte) (hb : bs.length = 512) (hm : MemInv s) :
    (s.writeRow t r bs).rowBytes t r = bs := by
  rw [State.rowBytes, ← hb]
  exact bytes_write_same s _ bs hm

theorem memInv_writeRow (s : State) (t r : Nat) (bs : List Byte) (hm : MemInv s) : MemInv (s.writeRow t r bs) := wf_memWrite _ _ hm

/-- Memory rows after a run of writes to consecutive rows. -/
theorem rowBytes_writeRows (t d0 : Nat) (l : List (List Byte)) (hl : ∀ b ∈ l, b.length = 512) (n : Nat) (s : State) (hm : MemInv s) (q : Nat) :
    ((l.zipIdx n).foldl (fun s r => s.writeRow t (d0 + r.2) r.1) s).rowBytes t q =
      if h : d0 + n ≤ q ∧ q < d0 + n + l.length then l[q - (d0 + n)]'(by omega) else s.rowBytes t q := by
  induction l generalizing n s with
  | nil => rw [dif_neg (by simp)]; rfl
  | cons b l ih =>
    have hb := hl b List.mem_cons_self
    rw [List.zipIdx_cons, List.foldl_cons, ih (fun x hx => hl x (List.mem_cons_of_mem _ hx)) _ _ (memInv_writeRow _ _ _ _ hm)]
    by_cases h1 : d0 + (n + 1) ≤ q ∧ q < d0 + (n + 1) + l.length
    · rw [dif_pos h1, dif_pos (by simp only [List.length_cons]; omega)]
      rw [List.getElem_cons, dif_neg (by omega)]
      congr 1
    · rw [dif_neg h1]
      by_cases h2 : q = d0 + n
      · subst h2
        rw [dif_pos (by simp only [List.length_cons]; omega)]
        rw [rowBytes_writeRow_same _ _ _ _ hb hm, List.getElem_cons, dif_pos (by omega)]
      · rw [dif_neg (by simp only [List.length_cons]; omega), rowBytes_writeRow_ne _ _ _ hb h2]

/-! ### What a vector result writes -/

theorem foldl_rows_keeps {γ : Type} (g : State → γ) (hg : ∀ s t r bs, g (State.writeRow s t r bs) = g s) (t d0 : Nat) (l : List (VecRow × Nat)) (s : State) :
    g (l.foldl (fun s r => s.writeRow t (d0 + r.2) r.1.bytes) s) = g s := State.foldl_keeps g _ l (fun v _ => hg v t _ _)

/-- The state before poison moves and the event is counted. -/
theorem vecWrite_regs (s : State) (t : Nat) (v : VecOp) (sh : VecShape) (src : Nat → List Nat) (rows : List VecRow) : (s.vecWrite t v sh src rows).regs = s.regs := by
  unfold State.vecWrite
  simp only [State.countEvent_regs, State.movePoison_regs, State.updTile_regs]
  split
  · rfl
  · exact foldl_rows_keeps (·.regs) (fun _ _ _ _ => rfl) _ _ _ _

theorem vecWrite_fuses (s : State) (t : Nat) (v : VecOp) (sh : VecShape) (src : Nat → List Nat) (rows : List VecRow) : (s.vecWrite t v sh src rows).fuses = s.fuses := by
  unfold State.vecWrite
  simp only [State.countEvent_fuses, State.movePoison_fuses, State.updTile_fuses]
  split
  · rfl
  · exact foldl_rows_keeps (·.fuses) (fun _ _ _ _ => rfl) _ _ _ _

/-- Moving poison changes a tile's poison list alone. -/
theorem movePoison_tile (s : State) (t : Nat) (deps : List (Nat × List Nat)) : ∃ p, (s.movePoison t deps).tile t = { s.tile t with poison := p } := by
  unfold State.movePoison
  rw [tile_updTile_same]
  split
  · exact ⟨(s.tile t).poison, rfl⟩
  · exact ⟨_, rfl⟩

theorem vreg_congr {T U : Tile} (h1 : U.vregs = T.vregs) (h2 : U.vwritten = T.vwritten) (v : Nat) : U.vreg v = T.vreg v := by
  unfold Tile.vreg
  rw [h1, h2]

theorem rowBytes_congr {s t : State} (h : t.mem = s.mem) (u r : Nat) : t.rowBytes u r = s.rowBytes u r := by
  unfold State.rowBytes State.bytes
  rw [h]

/-- The tile record after a vector result: its destination register, ST and poison apart, it is as it was. -/
theorem vecWrite_tile (s : State) (t : Nat) (v : VecOp) (sh : VecShape) (src : Nat → List Nat) (rows : List VecRow) :
    ∃ st p, (s.vecWrite t v sh src rows).tile t = { (if vecReg v.d then (s.tile t).setVreg v.d.toNat (rows.headD { bytes := [], sat := false, nan := false }).bytes
      else s.tile t) with st := st, poison := p } := by
  unfold State.vecWrite
  dsimp only
  rw [tile_congr (State.countEvent_tiles _ _ _ _ _)]
  generalize hw : (if vecReg v.d then s.updTile t (fun T => T.setVreg v.d.toNat (rows.headD { bytes := [], sat := false, nan := false }).bytes)
    else rows.zipIdx.foldl (fun u r => u.writeRow t (s.absRow t ((s.tile t).vecFirst v.d) + r.2) r.1.bytes) s) = w
  have ht : w.tile t = if vecReg v.d then (s.tile t).setVreg v.d.toNat (rows.headD { bytes := [], sat := false, nan := false }).bytes else s.tile t := by
    subst hw
    split
    · rw [tile_updTile_same]
    · rw [tile_congr (foldl_rows_keeps (·.tiles) (fun _ _ _ _ => rfl) t _ _ s)]
  rw [← ht]
  generalize hu : w.updTile t _ = u
  have htu : ∃ st, u.tile t = { w.tile t with st := st } := by
    subst hu
    rw [tile_updTile_same]
    exact ⟨_, rfl⟩
  obtain ⟨st, htu⟩ := htu
  obtain ⟨p, hp⟩ := movePoison_tile u t _
  exact ⟨st, p, by rw [hp, htu]⟩

/-- Row `j` of the destination of a vector result. -/
theorem vecWrite_out (s : State) (t : Nat) (v : VecOp) (sh : VecShape) (src : Nat → List Nat) (rows : List VecRow) (hm : MemInv s) (hr : ∀ r ∈ rows, r.bytes.length = 512)
    (j : Nat) (hj : j < rows.length) (h1 : vecReg v.d = true → j = 0) :
    (if vecReg v.d then ((s.vecWrite t v sh src rows).tile t).vreg v.d.toNat
      else (s.vecWrite t v sh src rows).rowBytes t (s.absRow t ((s.tile t).vecFirst v.d) + j)) = (rows[j]).bytes := by
  by_cases hv : vecReg v.d = true
  · rw [if_pos hv]
    obtain ⟨st, p, hT⟩ := vecWrite_tile s t v sh src rows
    rw [hT, if_pos hv]
    have h0 := h1 hv
    subst h0
    obtain ⟨r, rs, rfl⟩ : ∃ r rs, rows = r :: rs := by
      cases rows with
      | nil => simp at hj
      | cons r rs => exact ⟨r, rs, rfl⟩
    have hw := vreg_setVreg_same (s.tile t) v.d.toNat r.bytes (hr r List.mem_cons_self)
    rw [List.headD_cons]
    generalize (s.tile t).setVreg v.d.toNat r.bytes = W at hw ⊢
    exact (vreg_congr (T := W) rfl rfl _).trans hw
  · rw [if_neg hv]
    have hmem : (s.vecWrite t v sh src rows).mem
        = ((rows.map (·.bytes)).zipIdx.foldl (fun u r => u.writeRow t (s.absRow t ((s.tile t).vecFirst v.d) + r.2) r.1) s).mem := by
      unfold State.vecWrite
      simp only [State.countEvent_mem, State.movePoison_mem, State.updTile_mem, hv, Bool.false_eq_true, if_false]
      rw [List.zipIdx_map, List.foldl_map]
      rfl
    rw [rowBytes_congr hmem, rowBytes_writeRows t _ _ (fun b hb => ?_) 0 s hm, dif_pos ⟨by omega, by rw [List.length_map]; omega⟩]
    · simp
    · obtain ⟨r, h, rfl⟩ := List.mem_map.mp hb
      exact hr r h

end Sys2Proof.Machine
end

