-- ==== Sys2Proof/Machine/Tables.lean ====
section
/-! DEFINITION. The tables of the drive reserve as the bytes that they are there (R44): Ledger entries (R199), sequence descriptors (R203), ring
descriptors (R224), the tenant table (R233) and the page owner maps (R296). The model keeps their records typed, by number. -/

namespace Sys2Proof.Machine

open Sys2Proof

/-- The 64 bits of a Ledger entry (R199). -/
def LedgerEntry.word (e : LedgerEntry) : Nat :=
  b2n e.valid * 2 ^ 63 + b2n e.dropped * 2 ^ 62 + b2n e.lock * 2 ^ 61 + b2n e.keygen * 2 ^ 60 + e.tenant % 2 ^ 12 * 2 ^ 48 + e.seqTag % 2 ^ 16 * 2 ^ 32
    + e.age % 2 ^ 10 * 2 ^ 22 + e.ppn % 2 ^ 22

/-- The Ledger entry of 64 bits. -/
def LedgerEntry.ofWord (w : Nat) : LedgerEntry :=
  { valid := bitAt w 63, dropped := bitAt w 62, lock := bitAt w 61, keygen := bitAt w 60, tenant := w / 2 ^ 48 % 2 ^ 12, seqTag := w / 2 ^ 32 % 2 ^ 16,
    age := w / 2 ^ 22 % 2 ^ 10, ppn := w % 2 ^ 22 }

/-- STATE of a sequence descriptor. -/
def SeqState.code : SeqState → Nat
  | .free => 0
  | .opened => 1
  | .closing => 2

/-- The 64 bytes of a sequence descriptor (R203). -/
def Seq.bytes (q : Seq) : List Byte :=
  natLE 4 (q.state.code + 4 * b2n q.evictable + 8 * b2n q.pinned + q.tenant % 2 ^ 12 * 2 ^ 8) ++ natLE 4 (q.region % 2 ^ 23) ++ natLE 4 (q.pages % 2 ^ 23)
    ++ natLE 2 q.layers ++ natLE 2 q.tpKib ++ natLE 4 q.lmax ++ natLE 4 q.tokens ++ natLE 4 q.kvLen ++ natLE 4 q.mappedSpans ++ natLE 8 q.toklog
    ++ natLE 8 q.lastServed ++ natLE 4 q.droppedSpans ++ natLE 12 0

/-- The 32 bytes of a ring descriptor (R224). -/
def Ring.bytes (r : Ring) : List Byte :=
  natLE 8 (r.base % 2 ^ 40) ++ natLE 1 r.sizeLog2 ++ natLE 1 (r.kind % 4 + 4 * b2n r.enable) ++ natLE 6 0 ++ natLE 4 r.head.toNat ++ natLE 4 r.tail.toNat
    ++ natLE 4 r.dbseq.toNat ++ natLE 4 r.inflight

/-- The 16 bytes of a tenant's entry: WEIGHT, TOPCLASS and RESERVE (R233). -/
def tenantBytes (e : Nat × Nat × Nat) : List Byte := natLE 1 e.1 ++ natLE 1 e.2.1 ++ natLE 2 0 ++ natLE 4 (e.2.2 % 2 ^ 23) ++ natLE 8 0

/-- The 16 bits of an owner map entry (R296). -/
def Owner.word (o : Owner) : Nat := o.tenant % 2 ^ 12 + b2n o.keygen * 2 ^ 12 + b2n o.assigned * 2 ^ 13

namespace State

/-- Addresses of entry `i` of each table: its base register times its unit, and on. -/
def ledgerAddr (s : State) (i : Nat) : Nat := s.fld (pgLedger + 0x100) 13 0 * 2 ^ 26 + 8 * i
def seqAddr (s : State) (n : Nat) : Nat := s.fld (pgLedger + 0x104) 17 0 * 2 ^ 22 + 64 * n
def ringAddr (s : State) (r : Nat) : Nat := s.fld (pgDispatch + 0x108) 13 0 * 2 ^ 26 + 32 * r
def tenantAddr (s : State) (t : Nat) : Nat := s.fld (pgDispatch + 0x10C) 23 0 * 2 ^ 16 + 16 * t
def ownerAddr (s : State) (d p : Nat) : Nat := s.fld (pgDramc d + 0x110) 18 0 * 2 ^ 21 + 2 * p

/-- Byte of a record of `len` bytes per entry, where an address lies in a table of `n` entries from `base` on. -/
def recordByte (base len n a : Nat) (rec : Nat → List Byte) : Option Byte :=
  if base ≤ a ∧ a < base + len * n then some ((rec ((a - base) / len)).getD ((a - base) % len) 0) else none

/-- What a table of the drive reserve gives for a byte address. -/
def tableByte (s : State) (a : Nat) : Option Byte :=
  (recordByte (s.ledgerAddr 0) 8 8388608 a (fun i => natLE 8 (s.entry i).word)).orElse (fun _ =>
  (recordByte (s.seqAddr 0) 64 65536 a (fun n => (s.seq n).bytes)).orElse (fun _ =>
  (recordByte (s.ringAddr 0) 32 2097152 a (fun r => (s.ring r).bytes)).orElse (fun _ =>
  (recordByte (s.tenantAddr 0) 16 4096 a (fun t => tenantBytes (smGet s.disp.tenants (0, 0, 0) t))).orElse (fun _ =>
  s.sites.findSome? (fun d => recordByte (s.ownerAddr d 0) 2 1048576 a (fun p => natLE 2 (s.owner (d * stackPages + p)).word))))))

/-- What the Stationmaster reads at a DRAM address: among the requesters of R29 it alone reaches the drive reserve (R44). -/
def reserveByte (s : State) (a : Nat) : Byte := (s.tableByte a).getD (memByte s.mem (s.devKey a))

/-- The descriptor that a tenant reads through the Stationmaster: one of its own sequences (R203). -/
def ownDescriptor (s : State) (t n : Nat) : Option (List Byte) :=
  if (s.seq n).state ≠ .free ∧ (s.seq n).tenant = t then some (s.seq n).bytes else none

end State

end Sys2Proof.Machine
end

