-- ==== Sys2Proof/Tests/Slice0.lean ====
section
/-! SUPPORT. Our own tests: an ill-formed command for each check of `wellFormed`, single commands on small states with results
worked out from the spec, and for every statement a state and operands that meet its hypotheses. -/

set_option Elab.async false

namespace Sys2Proof.Tests

open Sys2Proof Sys2Proof.Machine Sys2Proof.Claims

/-! ### Small states -/

/-- A device in drive service whose start-up has ended, with both pins released. -/
def liveState : State := { State.reset with start := { Start.held with hold := .none }, pins := { Pins.held with safeA := false, safeB := false } }

/-- Tile 0 runs a waybill in berth 0, which has the whole store and instruction buffer; every segment is ready. -/
def tileState (T : Tile) : State :=
  ((((((liveState.setTile 0 { T with wid := some 0 }).setFld (pgTile 0) 2 0 0).setFld (pgTile 0 + 0x100) 2 0 2).setFld (pgTile 0 + 0x104) 15 0 0xFFFF).setReg
    (State.berthReg 0 0 0) 0x500000).setReg (State.berthReg 0 0 4) 0x200000).setReg (State.berthReg 0 0 8) 0x30001

/-- A slot of tile 0, the last of its bundle. -/
def slot0 : Issue := { tile := 0, last := true, nops := 0, ecc := [], eccF := [] }

/-- A vector instruction on register v0 alone, with every other field 0. -/
def vec0 (ty : BitVec 2) : VecOp := { ty := ty, d := 0, a := 0, b := 0, c := 0, n1 := 0, satf := false, bi := false, bs := false, imm := 0 }

/-- A waybill of one tile. -/
def wb0 : Waybill :=
  { ring := 0, tenant := 0, store16 := 80, ibuf64 := 32, handle := 0, tiles := 1, tag := 7, budget := 1000, seed := 0, deadline := 0, cring := 1,
    arg2 := 0, commit := 0, arg0 := 0, arg1 := 0 }

/-- It runs on tile 0. -/
def place0 : Placement :=
  { wid := 0, wb := wb0, index := 0, entry := none, units := [0], pairs := false, started := true, readyAt := none, ended := false, status := csOk, code := 0,
    stlo := 0, value := 0, serving := false, pinned := [], releaseClk := 0, aborting := false, waiting := false, ord := 0, latest := 0, toTick := 0 }

/-- A state whose placements are these. -/
def placing (s : State) (ps : List Placement) : State := { s with disp := { s.disp with placements := ps } }

/-- Whether a command answers a next state with a property. -/
def after (c : Instr) (s : State) (p : State → Bool) : Bool :=
  match exec c s with
  | .next t => p t
  | _ => false

/-- A device whose tile 0 can issue. -/
def busy : State := tileState { Tile.initial with aregs := [(0, 0), (1, 640)] }

/-- Row operands and accumulator operands with offset alone. -/
def rowAt (n : Nat) : RowOp := { r := false, a := 0, off := BitVec.ofNat 11 n }
def accAt (n : Nat) : AccOp := { r := false, a := 0, off := BitVec.ofNat 8 n }

/-- A ring of 16 entries at an address. -/
def ringAt (base kind : Nat) (head tail : Word) : Ring :=
  { base := base, sizeLog2 := 4, kind := kind, enable := true, head := head, tail := tail, dbseq := 0, inflight := 0 }

/-- The bytes of a waybill of ring 0 for one tile or pair: 16 units of 16 rows, 4 of 64 bundles, completions to ring 1. -/
def bill : List Byte :=
  natLE 6 0 ++ [16, 4] ++ natLE 4 0 ++ [1, 0] ++ natLE 2 7 ++ natLE 4 1000 ++ natLE 12 0 ++ natLE 4 1 ++ natLE 28 0

/-- The program image of handle 0. -/
def image0 : Handle := { handle := 0, digest := [], dest := 0, len := 0x8000, serving := false }

/-- A service with drive-ready, PARK_OK high on both islands or on neither. -/
def serving (svc : Nat) (parked : Bool) : State :=
  let s := (liveState.setFld (pgService + 0x104) 1 0 svc).setFld (pgService + 0x104) 3 2 3
  let i : Island := { Island.initial with park := { level := parked, run := 0 } }
  { s with safety := { s.safety with islA := i, islB := i } }

/-! ### The VEC slot -/

/-- The operand codes of a vector instruction on v0, with 31 for the operands that it lacks. -/
def vecsOn (ty : BitVec 2) : List VecOp :=
  [(31, 31, 31), (0, 31, 31), (0, 0, 31), (0, 0, 0)].map (fun c => { vec0 ty with a := c.1, b := c.2.1, c := c.2.2 })

/-- VecLanesFollowOperation, VecLanesChangeOnlyDestination, VecLanesSetStickyStatus: each of the 27 commands runs. -/
theorem test_every_lane_command_runs : (List.range 27).all (fun k => [(0 : BitVec 2), 1, 2, 3].any (fun ty => (vecsOn ty).any (fun v =>
    match (laneCommands v)[k]? with
    | some e => slotRuns busy (e.cmd slot0) && slotAlone busy slot0
    | none => false))) = true := by decide +kernel

/-- A store operand and a store destination of 16 rows: rows 0 to 15 into rows 640 to 655. -/
theorem test_lane_command_runs_on_store_rows :
    let v : VecOp := { vec0 0 with a := 8, d := 9, b := 31, c := 31, n1 := 15 }
    slotRuns busy (.vopMov slot0 v) = true ∧ Memory.wf busy.mem = true := by decide +kernel

/-- HeldSlotsChangeNothing: a bundle that a gated cycle holds, one that takes a destination register for an operand, a slot that is not its bundle's last, and a
tile that does not issue. -/
theorem test_held_and_failing_bundles :
    let ins : Instr := .vopMov slot0 { vec0 0 with b := 31, c := 31 }
    let bad : Instr := .vopMov slot0 { vec0 0 with b := 0, c := 31 }
    let hot := { busy.setFld (pgTile 0 + 0x108) 4 0 0 with now := 40 }
    hot.live = true ∧ hot.tileIssues 0 = true ∧ hot.follows 0 = false ∧ bundleFinds hot slot0 (bundleOf hot slot0 ins) = none ∧
    hot.gated 0 = true ∧ busy.gated 0 = false ∧ hot.bundleHeld 0 ((bundleOf hot slot0 ins).map (·.plan hot 0)) = true ∧ bundleFinds busy slot0 (bundleOf busy slot0 bad) = some (eIllegalField, noUnit) ∧
    busy.tileIssues 0 = true ∧ busy.follows 0 = false ∧ liveState.tileIssues 0 = false ∧ liveState.live = true := by decide +kernel

/-- Tile 0 with a SETS of s[31] in its bundle, and the vector MOV that completes it. -/
def halfBundle : State := busy.updTile 0 (fun T => { T with bundle := [.sets { slot0 with last := false } 31 0xFFFFFFFF] })
def lastMov : Instr := .vopMov slot0 { vec0 0 with a := 8, b := 31, c := 31 }

/-- BundledSlotsActTogether: the bundle issues. -/
theorem test_bundles_issue :
    (halfBundle.tileIssues 0 && !halfBundle.follows 0 && slotAlone halfBundle slot0 && (halfBundle.slotFetched slot0 .mov).isNone &&
      (halfBundle.slotFetched slot0 .mat).isNone && (bundleFinds halfBundle slot0 (bundleOf halfBundle slot0 lastMov)).isNone &&
      !halfBundle.bundleHeld 0 ((bundleOf halfBundle slot0 lastMov).map (·.plan halfBundle 0)) && Memory.wf halfBundle.mem) = true := by decide +kernel

/-- BundledSlotsActTogether: SETS writes its register, and the bundle address goes on. -/
theorem test_bundles_act_together :
    after lastMov halfBundle (fun t => (t.tile 0).s 31 = 0xFFFFFFFF && (t.tile 0).pc = 1 && (t.tile 0).bundle.isEmpty) = true := by decide +kernel

/-- R80, R107, R109, R134: SWAPW is opcode 5 in bits 63–58 of the MAT word, a word of zeros is a NOP, and opcode 0 with a set bit names no instruction. -/
theorem test_slot_words_decode :
    decodeSlot slot0 .mat (0x1400000000000000 : BitVec 64) = .op (.swapw slot0) ∧ decodeSlot slot0 .mat 0 = .nop ∧ decodeSlot slot0 .ctl (1 : BitVec 64) = .illegalOp := by
  decide +kernel

/-- VecReductionsAndShuffles: VRED over the rows and across the lanes, VXPOSE of 16 rows, and VCVT BF16 to FP8. -/
theorem test_reductions_and_shuffles_run :
    let v : VecOp := { vec0 0 with a := 8, b := 31, c := 31 }
    let w : VecOp := { v with d := 9 }
    (∀ lanes ∈ [true, false], slotRuns busy (.vredSum slot0 v lanes) = true) ∧
    slotRuns busy (.vxpose slot0 { w with n1 := 15 }) = true ∧
    slotRuns busy (.vcvt slot0 w 1 2) = true ∧ slotAlone busy slot0 = true := by decide +kernel
/-- Tile 0 with a window descriptor of one 4,096-bit pixel in s[0] to s[7]; `k` is its fourth word, `z` its fifth. -/
def windowTile (k z : Word) : State :=
  tileState { Tile.initial with sregs := [(0, 0x10000), (1, 1), (2, 0x10001), (3, k), (4, z), (5, 1)], aregs := [(0, 0), (1, 640)] }

/-- VecTablesMergesAndPools: a table load, a merge of one partial, and a pool of a window that is empty and of one that is not. -/
theorem test_tables_merges_and_pools_run :
    let ld : VecOp := { vec0 2 with d := 31, a := 8, b := 31, c := 31, imm := 1 }
    let mg : VecOp := { vec0 3 with a := 8, b := 31, c := 31 }
    let pl : VecOp := { vec0 3 with d := 9, a := 8, b := 0, c := 31 }
    slotRuns busy (.vtabLoad slot0 ld) = true ∧ slotRuns busy (.vmerge slot0 mg true true) = true ∧
    (let s := windowTile 0 0x60000
     slotRuns s (.vpoolMax slot0 pl false) = true ∧ ((s.tile 0).window 0).empty = false) ∧
    (let s := windowTile 1 0x60000
     slotRuns s (.vpoolMax slot0 pl false) = true ∧ ((s.tile 0).window 0).empty = true) := by decide +kernel

/-- R167: 32,767 + 1 clamps with SATF and wraps without; −32,768 has no magnitude in the range. -/
theorem test_int16_clamps_and_wraps :
    addLane .int16 true 0x7FFF 1 = { bits := 0x7FFF, sat := true, nan := false } ∧ addLane .int16 false 0x7FFF 1 = { bits := 0x8000, sat := false, nan := false } ∧
    absLane .int16 true 0x8000 = { bits := 0x7FFF, sat := true, nan := false } ∧ mulLane .int16 false 0x100 0x100 = { bits := 0, sat := false, nan := false } := by
  decide +kernel

/-! ### The MAT slot -/

/-- MatrixProductsAccumulate: one vector, and 256 vectors with the accumulator's last row. -/
theorem test_products_run : ∀ m1 ∈ [(0 : BitVec 8), 255], ∀ fmt ∈ [(0 : BitVec 4)],
    slotRuns busy (.mma slot0 (rowAt 0) (accAt 0) m1 fmt (rowAt 0)) = true ∧ slotAlone busy slot0 = true := by decide +kernel

/-- A tile that runs a convolution over the window of `k`, which is empty or not. -/
def convRuns (c : Instr) (s : State) (empty : Bool) : Bool :=
  slotRuns s c && ((s.tile 0).window 0).empty == empty

/-- ConvolutionsFollowWindow: CONV over a window that is empty and one that is not. -/
theorem test_convolutions_run : (convRuns (.conv slot0 (rowAt 0) (accAt 0) 0 0 (rowAt 0)) (windowTile 0 0x20000) false && convRuns (.conv slot0 (rowAt 0) (accAt 0) 0 0 (rowAt 0)) (windowTile 1 0x20000) true) = true := by decide +kernel

/-- ConvolutionsFollowWindow: DCONV over the same windows, depthwise. -/
theorem test_depthwise_convolutions_run :
    (convRuns (.dconv slot0 (rowAt 0) (accAt 0) 0 0 (rowAt 0) 1) (windowTile 0 0x400000) false && convRuns (.dconv slot0 (rowAt 0) (accAt 0) 0 0 (rowAt 0) 1) (windowTile 1 0x400000) true) = true := by decide +kernel

/-- WeightSwapAndAccumulatorRead: SWAPW with no weight load in flight, and ACCRD of one row in INT8. -/
theorem test_swap_and_read_run :
    slotRuns busy (.swapw slot0) = true ∧ slotAlone busy slot0 = true ∧
    slotRuns busy (.accrd slot0 (accAt 0) 0 (rowAt 0) 0 noEpi false false) = true := by decide +kernel

/-- ModeMismatchWritesNothing: the buffer records the 8-bit mode, FP8's is another, and the error is found on a tile whose waybill has no entry. -/
theorem test_mode_mismatch_is_met :
    let s := placing busy [place0]
    (s.tile 0).active.mode ≠ fmtMode 12 ∧ s.live = true ∧ s.tileIssues 0 = true ∧ s.follows 0 = false ∧ (s.tile 0).bundle = [] ∧
    bundleFinds s slot0 (bundleOf s slot0 (.mma slot0 (rowAt 0) (accAt 0) 0 12 (rowAt 0))) = some (eModeMismatch, noUnit) ∧ (s.tile 0).wid = some 0 ∧
    s.placed 0 = some place0 ∧ 0 ∈ place0.tiles := by decide +kernel

/-! ### The CTL slot -/

/-- A tile with one open loop level, at bundle 4, with a pending event, an even pair of scalars and a dock of its own. -/
def loopTile : Tile :=
  { Tile.initial with
    pc := 4
    loops := [{ count := 2, index := 0, body := 3, roster := none }]
    events := 5
    sregs := [(1, 1)] }

/-- Tile 0 in that state. -/
def looping : State := tileState loopTile

/-- LoopsAndBranchesMove: a LOOP of 1 and of 0, an ENDLOOP with iterations left and without, BR and BRC with 1 level to pop, taken and not. -/
theorem test_loops_and_branches_run :
    let done := tileState { loopTile with loops := [{ count := 2, index := 1, body := 3, roster := none }] }
    slotRuns looping (.loop slot0 1 0 0xFFFC) = true ∧ loopCount (looping.tile 0) 1 0 = 1 ∧ ctlTo looping slot0 (pcNext looping slot0) = true ∧
    slotRuns looping (.loop slot0 63 0 0xFFFC) = true ∧ loopCount (looping.tile 0) 63 0 = 0 ∧ ctlTo looping slot0 ((looping.tile 0).target 0xFFFC) = true ∧
    slotRuns looping (.endloop slot0) = true ∧ slotRuns done (.endloop slot0) = true ∧ ctlTo looping slot0 3 = true ∧ slotRuns looping (.br slot0 1 0xFFFC) = true ∧
    slotRuns looping (.brc slot0 1 0 0 1 0xFFFC) = true ∧ brcTest (looping.tile 0).snap 1 0 0 ≠ brcTest (looping.tile 0).snap 1 1 0 ∧
    slotRuns looping (.brc slot0 1 1 0 1 0xFFFC) = true := by decide +kernel

/-- RosterWalksSequences: a table of 2 sequences with none to run, and one whose second has 300 tokens. -/
theorem test_roster_runs :
    let p : Instr := .roster slot0 29 (rowAt 0) 1 8191 0xFFFC
    let s := { looping with mem := [(rowAddr 0 0 + 2, 44), (rowAddr 0 0 + 3, 1)] }
    slotRuns looping p = true ∧ slotRuns s p = true ∧ (looping.tile 0).loops.length < 4 ∧
    leNat ((s.bytes (rowAddr 0 0) 4).drop 2) = 300 ∧ leNat (s.bytes (rowAddr 0 0) 2) = 0 ∧ s.absRow 0 ((s.tile 0).row (rowAt 0)) = 0 := by decide +kernel

/-- WaitsEndWhenConditionHolds: events 0 and 2, a dock of berth 0 with nothing to wait for, a time that has come, tags and fences with no move. -/
theorem test_waits_end :
    let T := looping.tile 0
    slotRuns looping (.waitEvent slot0 5) = true ∧ slotRuns looping (.waitDock slot0 15 false 0 0) = true ∧ slotRuns looping (.waitTime slot0 30) = true ∧
    slotRuns looping (.waitTags slot0 0xFFFF) = true ∧ slotRuns looping (.fence slot0 7) = true ∧ T.events &&& BitVec.ofNat 16 (bitsOf 5 15 0) = BitVec.ofNat 16 (bitsOf 5 15 0) ∧
    looping.fld (State.dockReg 0 15 0) 10 8 = looping.berth 0 ∧ (0 : Word).toNat ≤ (looping.reg (State.dockReg 0 15 8)).toNat ∧
    T.pair 30 ≤ looping.now ∧ (∀ m ∈ T.moves, bitAt (0xFFFF : Word).toNat m.tag = false) ∧ T.moves = [] := by decide +kernel

/-- ControlWritesTakeEffect: a dock that may open, one that may not, and an open one; every scalar and address register's code. -/
theorem test_control_writes_run :
    let s := looping.setReg (State.dockReg 0 0 4) 0x10000
    let o := s.setFld (State.dockReg 0 0 0) 1 0 1
    s.dockOwn 0 0 = true ∧ s.dockOpenOk 0 0 = true ∧ o.dockOpenOk 0 0 = false ∧ o.fld (State.dockReg 0 0 0) 1 0 = 1 ∧ slotRuns s (.signalDockOpen slot0 0) = true ∧
    slotRuns o (.signalDockOpen slot0 0) = true ∧ slotRuns o (.signalDockClose slot0 0) = true ∧ slotRuns s (.signalDockClose slot0 0) = true ∧
    slotRuns s (.signalEvent slot0 true 31 0 15) = true ∧ slotRuns s (.budget slot0 31 0xFFFFFFFF) = true ∧ slotRuns s (.mark slot0 0xFFFF) = true ∧
    (∀ d ∈ [(0 : BitVec 6), 31, 32, 47], slotRuns s (.adds slot0 d 31 47 1) = true) ∧
    (∀ c ∈ [0, 31, 32, 47], codeReads c = true) := by decide +kernel

/-- SETS s[31], then ADDS of it and 1 into a[15]: the sum is kept to 40 bits. -/
theorem test_sets_and_adds :
    after (.sets slot0 31 0xFFFFFFFF) looping (fun t => (t.tile 0).s 31 = 0xFFFFFFFF && (t.tile 0).pc = 5) = true ∧
    after (.adds slot0 47 31 31 1) (tileState { loopTile with sregs := [(31, 0xFFFFFFFF)] }) (fun t => (t.tile 0).a 15 = 0x1FFFFFFFF) = true ∧
    after (.adds slot0 31 31 31 1) (tileState { loopTile with sregs := [(31, 0xFFFFFFFF)] }) (fun t => (t.tile 0).s 31 = 0xFFFFFFFF) = true := by
  decide +kernel

/-- EndCompletesWaybill: the waybill of tile 0, whose last move has completed. -/
theorem test_end_runs :
    let s := placing busy [place0]
    slotRuns s (.endWaybill slot0 0x1234) = true ∧ (s.tile 0).coupled = false ∧ (s.tile 0).moves = [] ∧ (s.tile 0).wid = some 0 ∧ s.placed 0 = some place0 ∧
    after (.endWaybill slot0 0x1234) s (fun t => (t.disp.completions.map (·.code)) = [0x1234] && (t.tile 0).stopped) = true := by decide +kernel

/-- Tiles 0 and 1 coupled at the same bundle. -/
def paired : State :=
  let s := tileState { Tile.initial with coupled := true }
  ((((s.setTile 1 (s.tile 0)).setFld (pgTile 1 + 0x100) 2 0 2).setFld (pgTile 1 + 0x104) 15 0 0xFFFF).setReg (State.berthReg 1 0 0) 0x500000).setReg
    (State.berthReg 1 0 4) 0x200000

/-- PairsRunEverySlotOnBothTiles. -/
theorem test_pairs_run :
    slotRuns paired (.sets slot0 3 9) = true ∧ slotRuns paired (.swapw slot0) = true ∧ (paired.tile 0).coupled = true ∧ (paired.tile 1).stopped = false ∧ (∀ u ∈ [0, 1], (paired.tile u).pc + 1 < paired.ibufSize u (paired.berth u)) ∧
    after (.sets slot0 3 9) paired (fun t => (t.tile 0).s 3 = 9 && (t.tile 1).s 3 = 9) = true := by decide +kernel

/-! ### The MOV slot -/

/-- MovesQueueWithTheirChecks, LedgerLoadTranslatesAtIssue: each move may issue, at rows 0 and 1,279 of the store and with s and a pairs at their ends. -/
theorem test_moves_issue :
    slotAlone busy slot0 = true ∧
    (∀ dst ∈ [0, 1279], slotRuns busy (.ldrow slot0 15 0 (rowAt dst) 0 false 0 0) = true) ∧ slotRuns busy (.strow slot0 15 0 (rowAt 0) 255 false 0 0) = true ∧
    slotRuns busy (.platcpy slot0 15 0 15 31) = true ∧ slotRuns busy (.gather slot0 15 0 (rowAt 16) (rowAt 0) 0 true 0) = true ∧
    slotRuns busy (.gather slot0 15 0 (rowAt 16) (rowAt 0) 0 false 0) = true ∧
    slotRuns busy (.dockwr slot0 15 (rowAt 0) 7 false 0 63 15 2047) = true ∧ slotRuns busy (.ldw slot0 15 0 false 63 (.store (rowAt 0))) = true ∧
    slotRuns busy (.ldw slot0 15 2 false 31 (.device 15 0)) = true ∧ slotRuns busy (.commit slot0 15 0 30 30 30 false 0 0) = true ∧
    (rowList (busy.absRow 0 ((busy.tile 0).row (rowAt 0))) (ldwRows 0 false 63)).all (fun x => busy.segReady 0 (x / 160)) = true := by decide +kernel

/-- LedgerLoadTranslatesAtIssue: a page of the Ledger aperture that the checks let pass. -/
theorem test_ledger_loads_issue :
    let l := tileState { Tile.initial with aregs := [(0, BitVec.ofNat 40 ledgerBase)] }
    slotRuns l (.ldledger slot0 15 0 (rowAt 0) 0 31 0) = true ∧ slotAlone l slot0 = true ∧
    (l.moveCheck 0 [{ addr := (l.tile 0).devAddr 0 0, len := 512, want := .ledger }] true (rowList 0 1)).1 = none := by decide +kernel

/-- One move in flight on tile 0. -/
def moving (k : MoveKind) (st : Option Nat) : State := tileState { Tile.initial with moves := [{ State.newMove 3 k [] with status := st }] }

/-- MovesLandWhenTheyComplete: a move that a check failed, a load, a store, a copy and a COMMIT that may complete. -/
theorem test_moves_complete :
    (∀ k ∈ [MoveKind.load 0 512 0 1, .store 0x8000 512 0 1, .platCopy 0 (psramBase 0) 64, .commit 0 0 5 2 none, .gather false [0] 0, .gather true [1279] 0,
        .weights false 0 0 1 false, .weights true 0 0 1 false], ∀ st ∈ [none, some msUnmapped],
      let s := moving k st
      s.live = true ∧ s.moveReady 0 { State.newMove 3 k [] with status := st } 0 = true ∧ s.wrongGen { State.newMove 3 k [] with status := st } = [] ∧
      s.follows 0 = false ∧ (s.tile 0).coupled = false ∧ (s.tile 0).moves = [{ State.newMove 3 k [] with status := st }] ∧
      (s.tile 0).stopped = false ∧ s.placed 0 = none ∧ Memory.wf s.mem = true ∧ s.dram.marked = [] ∧ State.failRegs { State.newMove 3 k [] with status := st } = [] ∧
      s.sealedCopy 0 = false) ∧
    inOwnStore 0 0 = false ∧ inOwnStore 0 ledgerBase = false ∧ inOwnStore 0 (wrapAddr 0) = false ∧ inOwnStore 0 (wrapAddr 0x8000) = false ∧
    (let m := State.newMove 3 (.platCopy 0 (psramBase 0) 64) []
     ((moving m.kind none).moveKeys m 0 64).Nodup ∧ ∀ k ∈ (moving m.kind none).moveKeys m 0 64, (moving m.kind none).twinKey k = none) ∧
    (let m := State.newMove 3 (.commit 0 0 5 2 none) []
     ((moving m.kind none).moveKeys m 0 8).Nodup ∧ ∀ k ∈ (moving m.kind none).moveKeys m 0 8, (moving m.kind none).twinKey k = none) := by decide +kernel

/-- MovesLandWhenTheyComplete: a Ledger load, a dock write that has landed, and a COMMIT that another seat has answered. -/
theorem test_answered_moves_complete :
    ∀ k ∈ [MoveKind.ledgerLoad ledgerBase 0 1 0, .dockWrite 0 1 none 0 0 0, .commit 0 0 5 2 (some 3)],
      let m := { State.newMove 3 k [] with landed := true }
      let s := tileState { Tile.initial with moves := [m] }
      s.live = true ∧ s.moveReady 0 m 0 = true ∧ s.wrongGen m = [] ∧ s.follows 0 = false ∧ (s.tile 0).coupled = false ∧ (s.tile 0).moves = [m] ∧ (s.tile 0).stopped = false ∧
      s.placed 0 = none ∧ m.status = none ∧ s.dram.marked = [] := by decide +kernel

/-- A COMMIT whose expected value is there writes the new one, and returns the old one in s[2] and s[3]. -/
theorem test_commit_completes :
    after (.moveComplete 0 0 [] [] []) (moving (.commit 8 0 5 2 none) none)
      (fun t => memByte t.mem 8 = 5 && (t.tile 0).moves = [] && (t.tile 0).s 2 = 0) = true ∧
    after (.moveComplete 0 0 [] [] []) (moving (.commit 8 1 5 2 none) none) (fun t => t.mem = []) = true := by decide +kernel

/-! ### A tile's pages -/

/-- StoreSegmentsFollowPowerBits: the Stationmaster may write the page; segment 7 goes down unused, or comes up. -/
theorem test_segments_change :
    let s := tileState { Tile.initial with poweringDown := [7] }
    let r := tileState { Tile.initial with poweringUp := [0, 7] }
    mayWrite s (.stationmaster .a) (pgTile 0 + 0x104) = true ∧ s.segInUse 0 7 = false ∧ s.live = true ∧ 7 ∈ (s.tile 0).poweringDown ∧ 7 ∈ (r.tile 0).poweringUp ∧
    r.live = true := by decide +kernel

/-- ScrubberWalksTheStore: a queued row, and a walk at its last row. -/
theorem test_scrubber_walks :
    let s := tileState { Tile.initial with scrubQueue := [5] }
    let e := tileState { Tile.initial with scrubWalk := 1279 }
    s.tilePresent 0 = true ∧ (s.tile 0).scrubQueue = [5] ∧ (e.tile 0).scrubQueue = [] ∧
    after (.rowScrub 0 .clean) e (fun t => (t.tile 0).scrubWalk = 0 && t.reg (pgTile 0 + 0x114) = 1) = true := by decide +kernel

/-- BerthWritesFollowTheirStates: an EMPTY, a RESIDENT and a RUNNING berth; shares at the end of the store and buffer, and one row past it. -/
theorem test_berth_writes_run :
    let s := (liveState.setReg (State.berthReg 3 0 8) 0x20001).setReg (State.berthReg 3 1 8) 0x30001
    (∀ o ∈ [0, 4, 8, 12], mayWrite s (.stationmaster .a) (State.berthReg 3 0 o) = true) ∧
    s.berthIdle 3 0 = true ∧ s.berthState 3 0 = 2 ∧ s.berthIdle 3 7 = true ∧ s.berthState 3 1 = 3 ∧
    bitsOf 0x10004F 6 0 + bitsOf 0x10004F 22 16 = 95 ∧ bitsOf 0x1004F 6 0 + bitsOf 0x1004F 22 16 = 80 ∧
    (∀ k, k < 8 → State.sharesMeet 79 1 (s.fld (State.berthReg 3 k 0) 6 0) (s.fld (State.berthReg 3 k 0) 22 16) = false) ∧
    (∀ k, k < 8 → State.sharesMeet 31 1 (s.fld (State.berthReg 3 k 4) 4 0) (s.fld (State.berthReg 3 k 4) 21 16) = false) ∧
    bitsOf 0x10000 17 16 = 1 ∧ bitsOf 0x20000 17 16 = 2 ∧
    after (.berthStore (.stationmaster .a) 3 0 0x1004F) s (fun t => t.fld (State.berthReg 3 0 0) 6 0 = 79) = true ∧
    after (.berthStore (.stationmaster .a) 3 0 0x10004F) s (fun t => t.fld (State.berthReg 3 0 0) 6 0 = 0) = true := by decide +kernel

/-- Berth 7 of tile 3 loads for tenant 1, and is zeroed first or not; its handle names an image of no bytes with this digest. -/
def loadingBerth (zeroing : Bool) (digest : List Byte) : State :=
  ((liveState.setReg (State.berthReg 3 7 8) 0x10001).setTile 3 { Tile.initial with berths := [(7, { zeroing := zeroing, loading := true, lastRun := 0, emptying := false })] }).updSec
    (fun c => { c with handles := [{ image0 with digest := digest, len := 0 }] })

/-- LoadingBerthsTakeTheirImage: a berth that is zeroed, one whose image is sound, and one whose image is not and that no dock keeps. -/
theorem test_loading_berths_run :
    (∀ z ∈ [true, false], let s := loadingBerth z (sha512 [])
      s.live = true ∧ Memory.wf s.mem = true ∧ s.berthState 3 7 = 1 ∧ s.berthWork 3 7 = none ∧ (s.berthInfo 3 7).zeroing = z ∧ (s.berthInfo 3 7).loading = true) ∧
    (loadingBerth false (sha512 [])).imageSound 3 7 = true ∧ (loadingBerth false []).imageSound 3 7 = false ∧ (loadingBerth false []).devHeld 0 0 = false ∧
    (∀ k, k < 16 → (loadingBerth false []).fld (State.dockReg 3 k 0) 1 0 ≠ 2 ∧ (loadingBerth false []).fld (State.dockReg 3 k 0) 1 0 ≠ 1) := by decide +kernel

/-- R96: a berth whose dock is CLOSING waits for it before it is EMPTY. -/
theorem test_emptying_waits_for_docks :
    let s := ((liveState.setReg (State.berthReg 3 0 8) 0x20001).setReg (State.dockReg 3 15 0) 2)
    s.berthIdle 3 0 = true ∧ s.berthState 3 0 = 2 ∧
    after (.berthOwner (.stationmaster .a) 3 0 1) s (fun t => t.berthState 3 0 = 2 && (t.berthInfo 3 0).emptying) = true ∧
    after (.berthOwner (.stationmaster .a) 3 0 1) (s.setReg (State.dockReg 3 15 0) 0) (fun t => t.berthState 3 0 = 0) = true := by decide +kernel

/-- Dock 15 of tile 0, whose 1,280 rows lie in berth 0's share. -/
def docked (st : Nat) : State :=
  ((busy.setReg (State.dockReg 0 15 4) 0x5000000).setFld (State.dockReg 0 15 0) 1 0 st).setReg (State.dockReg 0 15 0x18) 2

/-- DockRegistersOpenAndClose: a dock that opens, one whose range leaves the share, one that closes, and ranges of 1 and 1,280 rows. -/
theorem test_dock_registers_run :
    let ctl := State.dockReg 0 15 0
    let s := docked 0
    mayWrite s (.stationmaster .a) ctl = true ∧ mayWrite s (.stationmaster .a) (State.dockReg 0 15 4) = true ∧ s.fld ctl 1 0 = 0 ∧ bitsOf 0x10 4 4 = 1 ∧ bitsOf 0x10 5 5 = 0 ∧
    (s.setFld ctl 10 8 (bitsOf 0x10 10 8)).dockOpenOk 0 15 = true ∧ (s.setFld ctl 10 8 (bitsOf 0x710 10 8)).dockOpenOk 0 15 = false ∧
    (docked 1).fld ctl 1 0 = 1 ∧ bitsOf 0x20 10 8 = (docked 1).fld ctl 10 8 ∧ bitsOf 0x10000 26 16 = 1 ∧ bitsOf 0x5000000 26 16 = 1280 := by decide +kernel

/-- DockWritesAreCheckedThenLand: a write of tile 1 that an open dock takes, one that a closed dock refuses, and a waiting write of a CLOSING dock. -/
theorem test_dock_writes_run :
    let m := State.newMove 1 (.dockWrite 0 8 none 0 15 1272) []
    let s := ((docked 1).setTile 1 { Tile.initial with moves := [m] }).setReg (State.berthReg 1 0 8) 0x30001
    let h : DockHeader := { src := .tile 1 s.convoy.nextOp, tenant := s.runTenant 1, dock := 15, offset := 1272, rows := (List.range 8).map (fun j => s.rowBytes 1 j) }
    let w : IngressWrite := { dock := 15, first := 1279, rows := [List.replicate 512 7], src := .tile 1 0 }
    let c := (docked 2).updTile 0 (fun T => { T with ingress := [w] })
    s.live = true ∧ (s.tile 0).coupled = false ∧ s.follows 1 = false ∧ (s.tile 1).moves[0]? = some m ∧ s.ingressTile 0 = 0 ∧
    (∀ j, j < 8 → (s.tile 1).poison.contains (0 + j) = false) ∧ s.dockCheck 0 h = none ∧ s.ingressRows 0 + 8 ≤ 32 ∧ (docked 0).dockCheck 0 h = some msDockClosed ∧
    (c.tile 0).ingress = [w] ∧ Memory.wf c.mem = true := by decide +kernel

/-- EventsAndBudgetsReachTheirTile: an event of tenant 1 for tile 0 and one of another, and a budget that has run out. -/
theorem test_events_and_budgets :
    let s := { placing (tileState Tile.initial) [place0] with signals := [(0, 15, 1), (0, 0, 2)] }
    (0, 15, 1) ∈ s.signals ∧ s.runTenant 0 = 1 ∧ (s.tile 0).budget ≤ s.cyclesCharged 0 ∧ (s.tile 0).wid = some 0 ∧ s.placed 0 = some place0 ∧
    after (.eventArrival 0 15 1) s (fun t => (t.tile 0).events = 0x8000) = true ∧ after (.eventArrival 0 0 2) s (fun t => (t.tile 0).events = 0) = true ∧
    after (.budgetExhausted 0) s (fun t => t.disp.completions.map (·.status) = [csOverrun]) = true := by decide +kernel

/-! ### Services, start-up and the Viaducts -/

/-- A step report that finds nothing and places nothing. -/
def report0 : StepReport :=
  { ok := true, failTiles := [], badRows := [], injFailPairs := [], injFailLanes := [], injOncePairs := [], injOnceLanes := [], march := [], untrained := [], logBad := [], lanes := [], trngFails := 0, reserveAt := 0, image := [],
    slots := [], table := none, provision := { rings := [], pages := [], programs := [] } }

/-- A handover at a step. -/
def handing (toDepot : Bool) (step : Nat) : Handover :=
  { toDepot := toDepot, step := step, trigger := 0, request := 0, driveWanted := false, abandoned := 0, lateLogged := false, before := 0, failed := false }

/-- A device in a handover. -/
def inHandover (h : Handover) : State := { serving 3 true with svc := some h }

/-- ServiceRequestsStartOrAreRefused: both services, parked and not, a wrong guard, and a handover to depot at steps 1 and 2. -/
theorem test_service_requests_meet_their_premises :
    (∀ svc ∈ [1, 2], let s := serving svc true
      s.live = true ∧ mayWrite s (.stationmaster .a) (pgService + 0x100) = true ∧ s.svc = none ∧ s.service = svc ∧ s.driveReady = true ∧
      s.safety.holdAsked = false ∧ (∀ x ∈ [Side.a, .b], s.islandOk x = true ∧ (s.island x).park.level = true)) ∧
    ((serving 1 false).island .b).park.level = false ∧ (0x5E7C : BitVec 16).toNat = 0x5E7C ∧
    (∀ k ∈ [1, 2], let s := inHandover (handing true k)
      s.svc = some (handing true k) ∧ (handing true k).toDepot = true ∧ (handing true k).before < 2) ∧
    after (.serviceReqDepot (.stationmaster .a) true 0x5E7C) (serving 1 true) (fun t => t.service = 3 && svcDir t = 1) = true ∧
    after (.serviceReqDepot (.stationmaster .a) true 0x5E7D) (serving 1 true) (fun t => t.service = 1 && t.serviceResult = 0x14) = true := by decide +kernel

/-- ParkedConditionFollowsSamples: depot service, and a filter that has seen 0, 1 and 2 differing samples. -/
theorem test_parked_condition_meets_its_premises :
    let s := serving 2 true
    s.live = true ∧ mayWrite s (.stationmaster .a) (pgService + 0x100) = true ∧ s.svc = none ∧ s.service = 2 ∧
    (∀ r ∈ [0, 1, 2], let i : Island := { Island.initial with park := { level := true, run := r } }
      let u := { s with safety := { s.safety with islA := i } }
      u.islandOk .a = true ∧
      after (.parkOkSample false true) u (fun t => (t.island .a).park.level = decide (r < 2)) = true) := by decide +kernel

/-- HandoversStepAndFail: each step of both handovers, a checkpoint with drive wanted, a late step and a handover that has taken over a second. -/
theorem test_handovers_meet_their_premises :
    (∀ d ∈ [true, false], ∀ k ∈ [1, 2, 3, 4, 5, 6], let s := inHandover (handing d k)
      s.live = true ∧ s.svc = some (handing d k) ∧ (handing d k).failed = false ∧ s.safety.owed = [] ∧ s.start.step = 0 ∧ s.safety.phase = .none) ∧
    (inHandover (handing true 2)).driveDrained = true ∧ report0.ok = true ∧
    (let s := { inHandover (handing false 8) with disp := { liveState.disp with tt := some { slots := 2, floor := 0, internal := false, proofSlot := 1, reserve := 0, pools := [], entries := [], slack := [], digest := [] } } }
     s.live = true ∧ s.safety.owed = [] ∧ s.now ≤ (handing false 8).request + 1000000000 ∧ s.driveShort = false) ∧
    (let h := { handing true 3 with driveWanted := true }
     (inHandover h).svc = some h ∧ 3 ≤ h.step) ∧
    (let s := { inHandover (handing false 1) with now := 1000000001 }
     (handing false 1).trigger + 1000000 * State.handoverDeadline (handing false 1) < s.now ∧ (handing false 1).request + 1000000000 < s.now) := by decide +kernel

/-- ResetsBeginStartUp: each hold of the logic. -/
theorem test_resets_meet_their_premises :
    State.reset.start.hold = .porst ∧ State.reset.hotDiodes [(0, 0, 839)] 840 = [] ∧ State.reset.hotDiodes [(0, 0, 840)] 840 ≠ [] ∧
    (∀ h ∈ [Hold.hot, .none, .warm], let s := { liveState with start := { liveState.start with hold := h } }
      s.start.hold = h) ∧
    (∀ c ∈ [true, false], let s := { liveState with start := { liveState.start with hold := .warm, coldOwed := c } }
      s.start.hold = .warm ∧ s.start.coldOwed = c) ∧
    after (.porstNRelease false false 0 [(0, 0, 839)]) State.reset (fun t => t.live && t.start.step = 1) = true ∧
    after (.porstNRelease false false 0 [(0, 0, 840)]) State.reset (fun t => t.start.hold = .hot) = true := by decide +kernel

/-- StartUpRunsItsSteps: steps 1, 2, 4 and 8, a scrapped device, and one that starts late. -/
theorem test_start_up_meets_its_premises :
    (∀ k ∈ [1, 2, 4, 8], ∀ lc ∈ [3, 5],
      let s := { liveState with start := { liveState.start with step := k }, sec := { liveState.sec with life := lc }, now := 1000000001 }
      s.live = true ∧ s.start.stopped = false ∧ s.safety.phase = .none ∧ s.start.step = k ∧ s.loadsOverUart = false ∧ s.sec.life = lc ∧
      s.start.releasedAt + 1000000000 < s.now) ∧
    liveState.safety.owed = [] ∧ report0.ok = true ∧ report0.failTiles = [] ∧ liveState.start.role0 = false := by decide +kernel

/-- A body of 33 bytes whose ECDSA signature with r = s = e verifies under this key: u1 and u2 are 1, and the key is R − G for the point R whose x is e. -/
def signedBody : List Byte := List.replicate 32 0 ++ [3]
def signedSig : List Byte := natBE 66 (beNat (sha512 signedBody)) ++ natBE 66 (beNat (sha512 signedBody))
def signedKey : List Byte :=
  0x04 :: natBE 66 0x125E9300BD03A26F5D0DE7C83AA880C77284A4CB56DA21E99B1632546EEE7114F68CFCE5D8EEFB96560B9ED1BB6AE403F3833256363331325235370AEF1006D050C
    ++ natBE 66 0xA52A5DFA60B8D53F3B25A60B66504BE1C1717208C9B39272F1522A3838261EDB137FD588D1EACF2060988852C24F93A3034FF90959EF34ED7983558A8092AA43CA

/-- R399: that signature verifies, and not when it is cut short; as a Manifest of a device in Field it lets a joining device in (SeatsAreAdmittedAndHeard). -/
theorem test_signature_verifies : State.manifestGood (signedBody ++ signedSig) signedKey = true ∧ ecdsaOk signedKey signedBody signedSig = true ∧ ecdsaOk signedKey signedBody (signedSig.take 131) = false := by decide +kernel

/-- A data frame of zeros, with its CRC. -/
def frame0 (seq : BitVec 5) : ViaFrame :=
  let f : ViaFrame := { src := 3, flit := List.replicate 64 0, crc := 0, cls := 0, dest := 0, seq := seq, credit := 0, kind := 0 }
  { f with crc := BitVec.ofNat 16 (crc16 (f.flit ++ natLE 2 (sideband f))) }

/-- A half bundle that has been asked to resend more often than its threshold, and keeps that frame. -/
def link0 : Link :=
  { expect := 0, discarding := false, replay := [frame0 0], retries := 65, delivered := [], thresh := 64, credits := viaCredits, waiting := [], sinceDebug := 0, held := false, last := [0, 0, 0, 0],
    asked := none }

/-- ViaductFramesArriveInOrder: a running bundle of the first and last end; frames in and out of sequence, a bad one, a kept one, and both sides of the threshold. -/
theorem test_viaduct_frames_meet_their_premises :
    (∀ e ∈ [0, 13], let s := (liveState.setFld (viaPages.getD e 0 + 0x100) 3 0 15).setLink e 3 link0
      s.live = true ∧ s.bundleRuns e 3 = true ∧ s.bundleFor e 3 = some 3 ∧ s.atBound (frame0 0) = false ∧ (s.link (State.viaOther e) 3).asked = none ∧ (s.link e 3).replay.dropWhile (fun x => x.seq ≠ 0) = [frame0 0] ∧ (s.link (State.viaOther e) 3).expect = 0 ∧
      (s.link (State.viaOther e) 3).waiting = [] ∧ (s.link (State.viaOther e) 3).maySend 0 = true ∧
      ({ (s.link (State.viaOther e) 3) with credits := [0, 16, 96, 8] } : Link).maySend 0 = false ∧
      (s.link e 3).thresh < (s.link e 3).retries ∧ (s.link e 2).retries ≤ (s.link e 2).thresh) ∧
    frameOk (frame0 0) = true ∧ (frame0 0).kind = 0 ∧ (frame0 0).dest.toNat < 6 ∧ (frame0 0).flit.length = 64 ∧ (frame0 1).seq ≠ 0 ∧
    frameOk { frame0 0 with flit := 1 :: List.replicate 63 0 } = false := by decide +kernel

/-! ### Dispatch, ticks and the timetable -/

/-- Depot service with one waybill in ring 0, held by class 0. -/
def submitted : State :=
  let s := ((serving 2 true).write (psramBase 0) bill).updSec (fun c => { c with handles := [image0] })
  s.updDisp (fun d => { d with rings := [(0, ringAt (psramBase 0) 0 0 1), (1, ringAt 0x6000001000 1 0 0)],
                               classes := [(0, { tenant := 0, left := 0, rings := [], held := some 0 })] })

/-- PlacementTakesTheHeldWaybill: the waybill fits the first tile of the order; a frozen dispatcher. -/
theorem test_placement_meets_its_premises :
    let s := submitted
    let wb := s.headWaybill 0
    s.live = true ∧ s.dispatches = true ∧ s.disp.tt = none ∧ s.disp.ahead = [] ∧ (s.cursor 0).held = some 0 ∧ (s.ring 0).fill ≠ 0 ∧
    s.headHeld 0 = false ∧ s.headMarked 0 = false ∧ s.headPurge wb = none ∧
    s.headStays wb = false ∧ s.servingStep wb = false ∧ s.unitsFor wb = some [0] ∧ (State.takeBerths s s.disp.nextWid wb [0]).isSome = true ∧
    (s.updDisp (fun d => { d with frozen := true })).dispatches = false := by decide +kernel

/-- WaybillStartSetsItsTiles: the start of a waybill of tile 0 has come. -/
theorem test_waybill_start :
    let p := { place0 with started := false, readyAt := some 0, wb := { wb0 with arg2 := 5, arg0 := 0x100 } }
    let s := placing (serving 2 true) [p]
    s.live = true ∧ s.placed 0 = some p ∧ s.disp.stopped = false ∧ p.tiles.Nodup ∧
    after (.waybillStart 0) s (fun t => (t.tile 0).s 0 = 5 && (t.tile 0).a 0 = 0x100 && (t.tile 0).s 29 = 1 && (t.tile 0).s 30 = 0) = true := by decide +kernel

/-- A timetable of 2 slots: a safety-rank entry, a sheddable one and a proof entry, each of one pair of pool 0. -/
def entry0 : TTEntry :=
  { handle := 0, release := 0, deadline := 1, budget := 100, pairs := 1, pool := 0, rank := 0xFF, proof := false, store16 := 16, ibuf64 := 4, arg2 := 0, arg0 := 0 }
def table0 : Timetable :=
  { slots := 2, floor := 0, internal := false, proofSlot := 1, reserve := 0, pools := [3], entries := [entry0, { entry0 with rank := 1 }, { entry0 with proof := true }],
    slack := [], digest := [] }

/-- Drive service in frame 0 of that timetable at a station time, entries 0 and 1 released. -/
def framed (now : Nat) : State :=
  let s := (serving 1 true).updDisp (fun d => { d with tt := some table0, inFrame := true, runs := [(0, { phase := .released, overruns := 0 }), (1, { phase := .released, overruns := 0 })] })
  { s with now := now }

/-- FramesReleaseTheirEntries: an owed tick 1 µs back, and a slot whose entries are idle, with dispatch frozen. -/
theorem test_frames_release :
    let s := (framed 1000).updDisp (fun d => { d with lastTick := some 0, tickOwed := true, tickDelay := 1000 })
    let f := (framed 0).updDisp (fun d => { d with runs := [], frozen := true })
    s.live = true ∧ s.driveRuns = true ∧ s.disp.tickOwed = true ∧ s.disp.lastFrame = false ∧ f.driveRuns = true ∧ f.disp.tt = some table0 ∧ f.disp.inFrame = true ∧ placesNothing f = true ∧
    f.slotNow = 0 ∧ (f.entryRun 0).phase = .idle ∧
    after .tick s (fun t => t.disp.frameStart = 1000 && t.pins.frameOut = 2000) = true ∧
    after .slotStart f (fun t => (t.entryRun 0).phase = .released && (t.entryRun 2).phase = .idle) = true := by decide +kernel

/-- ShedAndAbortedWorkEnds: a sheddable entry at its latest start, a safety-rank one with no pair and with a busy one, and a pair that an abort empties. -/
theorem test_shed_and_aborted :
    let s := framed (50000 - 200)
    let c := (s.setTile 0 { Tile.initial with coupled := true, wid := some 0 }).setTile 1 { Tile.initial with coupled := true, wid := some 0 }
    let p := { place0 with pairs := true }
    let b := placing c [p]
    let a := placing c [{ p with aborting := true, status := csShed }]
    s.live = true ∧ s.entryAt 1 = some { entry0 with rank := 1 } ∧ (s.entryRun 1).phase = .released ∧ s.latestStart { entry0 with rank := 1 } ≤ s.now ∧
    s.entryAt 0 = some entry0 ∧ (s.entryRun 0).phase = .released ∧ (s.poolServes table0 entry0).length < entry0.pairs ∧ b.poolServes table0 entry0 = [0] ∧
    ((b.placeEntry 0).entryRun 0).phase = .released ∧ [0].filter (fun q => b.pairFree q true) = [] ∧ b.abortOrder table0 [0] = [p] ∧ b.placed 0 = some p ∧
    (((b.disp.placements.filter (fun p => p.aborting && !p.ended && (p.status = csShed || p.entry.isSome))).flatMap (·.units)).filter [0].contains).length < entry0.pairs ∧
    a.disp.placements.find? (fun p => p.aborting && !p.ended && p.status = csShed && p.units.contains 0) = some { p with aborting := true, status := csShed } ∧
    placesNothing (a.updDisp (fun d => { d with frozen := true })) = true := by decide +kernel

/-- ProvingRunsCompareEveryPair: slot 1, with pair 0 in service, and a pair that ends its run with and without its digest. -/
theorem test_proving_runs :
    let s := (framed 50000).updDisp (fun d => { d with runs := [] })
    let r := s.updDisp (fun d => { d with proving := [0, 31], provingBy := 100000 })
    s.live = true ∧ s.disp.tt = some table0 ∧ s.disp.inFrame = true ∧ s.driveRuns = true ∧ s.disp.stopped = false ∧ s.slotNow = table0.proofSlot ∧ s.disp.proving = [] ∧
    (List.range 3).find? (fun j => ((table0.entries[j]?).map (·.proof)).getD false) = some 2 ∧ (s.entryRun 2).phase = .idle ∧ r.disp.proving.contains 31 = true ∧
    s.disp.placements = [] ∧ r.now ≤ r.disp.provingBy ∧ (∀ p ∈ s.disp.placements, p.ended = true) ∧ r.safety.phase = .none ∧
    after (.provingRunEnd 31 [1]) { r with disp := { r.disp with tt := some { table0 with digest := sha512 [1] } } } (fun t => t.disp.proving = [0] && t.safety.phase = .none) = true ∧
    after (.provingRunEnd 31 [2]) { r with disp := { r.disp with tt := some { table0 with digest := sha512 [1] } } } (fun t => t.safety.phase = .quench) = true := by decide +kernel

/-- TickSourcesFallBackAndReturn: FRAME_SYNC watched with a last tick; a missing tick; the internal timebase with and without 8 good pulses. -/
theorem test_tick_sources :
    let s := ((framed 150000).updDisp (fun d => { d with lastTick := some 0 })).setFld (pgTick + 0x104) 1 0 0
    let p := s.framePeriod
    let i := (s.setFld (pgTick + 0x104) 1 0 1)
    s.live = true ∧ s.watchesSync = true ∧ s.tickSource = 0 ∧ p = 100000 ∧ 0 + 3 * p / 2 ≤ s.now ∧
    ((framed 50000).updDisp (fun d => { d with lastTick := some 0 })).watchesSync = true ∧ (2 * 0 + p ≤ 2 * 50000 ∧ 2 * 50000 < 2 * 0 + 3 * p) ∧ 2 * 49999 < 2 * 0 + p ∧
    i.tickSource = 1 ∧ i.disp.tt.isSome = true ∧ (i.setFld (pgTick + 0x104) 7 4 8).fld (pgTick + 0x104) 7 4 = 8 ∧
    after (.frameSyncEdge 199) s (fun t => t.reg (pgTick + 0x11C) = 1 && t.disp = s.disp) = true ∧
    after .missingTick s (fun t => t.disp.lastTick = some 150000 && t.tickSource = 0) = true := by decide +kernel

/-- DepotTicksAndPlacementOrders: a due depot tick, and an order that names every tile and one that does not. -/
theorem test_depot_ticks_and_orders :
    let s := (serving 2 true).setFld tickStat 1 0 2
    let o := s.setReg (pgDispatch + 0x110) 0
    s.live = true ∧ 2 ≤ s.tickSource ∧ s.depotTickDue = true ∧ mayWrite s (.stationmaster .a) (pgDispatch + 0x104) = true ∧
    (List.range 64).all (s.orderEntries (pgDispatch + 0x110) 16 6).contains = true ∧ (List.range 32).all (s.orderEntries (pgDispatch + 0x150) 8 5).contains = true ∧
    (List.range 64).all (o.orderEntries (pgDispatch + 0x110) 16 6).contains = false := by decide +kernel

/-! ### Rings, sequences and pages -/

/-- Port 0 serves a device-role host, and ring 0's doorbell on slot 255 carries the waybill. -/
def rung : State :=
  let s := ((((serving 2 true).setFld (pgPlat 0 + 0x100) 1 0 2).updPort 0 (fun P => { P with vacant := false })).write (State.slotAddr 0 255) bill).updSec
    (fun c => { c with handles := [image0] })
  s.updDisp (fun d => { d with rings := [(0, ringAt (psramBase 0) 0 0 0), (1, ringAt 0x6000001000 1 0 0)] })

/-- That doorbell, with a sequence number and CRC. -/
def bellOf (seq crc : Word) : Bell :=
  { slot := 255, ring := 0, count := 1, rsv := 0, seq := seq, crc := crc, reads := 0, waiting := false, order := 0 }

/-- DoorbellsQueueEntriesOrAnswer: the doorbell in sequence with its CRC, its waybill taken; a bad one, a bad waybill, and one of a completion ring. -/
theorem test_doorbells_meet_their_premises :
    let s := rung
    let crc := BitVec.ofNat 32 (crc32c bill)
    let b := bellOf 1 crc
    s.live = true ∧ Memory.wf s.mem = true ∧ s.portUp 0 = true ∧ s.allBells = [] ∧ s.bellBad b = false ∧ (s.ring 0).kind = 0 ∧ crc32c (s.bellBytes 0 b) = crc.toNat ∧
    crc32c (s.bellBytes 0 b) ≠ (crc + 1).toNat ∧ (1 : Word) = (s.ring 0).dbseq + 1 ∧ s.bellSealed b = false ∧ s.bellHeld b (s.bellBytes 0 b) = false ∧
    (s.bellSteps b (s.bellBytes 0 b)).all (fun wb => !s.devMarked wb.arg0 State.recordBytes) = true ∧
    (s.setRing 0 { s.ring 0 with dbseq := 1 }).waybillCheck 0 (s.bellBytes 0 b) = none ∧
    ((s.updSec (fun c => { c with handles := [] })).setRing 0 { s.ring 0 with dbseq := 1 }).waybillCheck 0 (s.bellBytes 0 b) = some csHandleBad ∧
    s.bellBad { b with count := 65 } = true ∧ (s.ring 1).kind = 1 ∧ (s.ring 1).fill < 1 ∧
    (let w := s.updPort 0 (fun P => { P with bells := [b] })
     w.allBells = [(0, b)]) := by decide +kernel

/-- A doorbell of tenant 1 whose seal does not open, since no session is open. -/
theorem test_unsealed_doorbell :
    let s := rung.setRing 128 (ringAt (psramBase 0) 0 0 0)
    let b0 : Bell := { bellOf 1 0 with ring := 128 }
    let b := { b0 with crc := BitVec.ofNat 32 (crc32c (s.bellBytes 0 b0)) }
    s.portUp 0 = true ∧ s.bellBad b = false ∧ (s.ring 128).kind = 0 ∧ crc32c (s.bellBytes 0 b) = b.crc.toNat ∧ b.seq = (s.ring 128).dbseq + 1 ∧
    (s.depotOpen && s.bellSealed b && !s.sealOpens b (s.bellBytes 0 b)) = true := by decide +kernel

/-- CompletionRecordsFollowTheirRing: a record whose ring has room, and one whose ring is full. -/
theorem test_completions_meet_their_premises :
    let c : Completion := { cring := 1, ring := 0, index := 0, status := csOk, code := 0, tag := 7, stlo := 0, value := 0, wid := none }
    let s := rung.updDisp (fun d => { d with completions := [c] })
    let R := s.ring 1
    s.live = true ∧ Memory.wf s.mem = true ∧ s.disp.completions[0]? = some c ∧ s.completionFirst 0 = true ∧ R.fill ≠ R.size ∧
    s.devMarked (R.entryAddr R.tail.toNat) 32 = false ∧
    (let keys := (List.range 32).map (fun k => s.devKey (R.entryAddr R.tail.toNat + k))
     (keys ++ keys.filterMap s.twinKey).Nodup) ∧ (ringAt 0x6000001000 1 0 16).fill = (ringAt 0x6000001000 1 0 16).size := by
  decide +kernel

/-- A control ring of tenant 1, or of tenant 0 where `t` is 0, whose head is an operation with a sequence tag, LMAX, flags and parameter. -/
def asking (t op seqTag lmax flags param : Nat) : State :=
  let r := 128 * t
  let bs := natLE 4 r ++ natLE 2 t ++ natLE 2 op ++ natLE 4 (r + 1) ++ natLE 2 9 ++ natLE 2 seqTag ++ natLE 2 1 ++ natLE 2 1 ++ natLE 4 lmax ++ natLE 8 flags ++
    natLE 8 param ++ natLE 24 0
  let s := ((serving 2 true).write (psramBase 1) bs).setOwner 0 { tenant := t, keygen := false, assigned := true }
  (s.updDisp (fun d => { d with rings := [(r, ringAt (psramBase 1) 2 0 1), (r + 1, ringAt 0x6000001000 1 0 0)] })).setBell r

/-- That ring's head is what `controlHead` asks for. -/
def headOk (s : State) (r op : Nat) : Bool :=
  s.live && s.nextControl = some r && !s.devHeld ((s.ring r).entryAddr (s.ring r).head.toNat) 64 && !s.devMarked ((s.ring r).entryAddr (s.ring r).head.toNat) 64 && (CtlEntry.of (s.ringEntry r (s.ring r).head.toNat)).op = op && State.controlListed r op

/-- A sequence of tenant 1 with 8 of 32 tokens. -/
def seq1 : Seq := { Seq.none with state := .opened, evictable := true, tenant := 1, pages := 2, layers := 1, tpKib := 1, lmax := 32, tokens := 8 }

/-- SequenceRequestsChangeTheirDescriptor: OPEN with a free tag and run; the requests on a tag of the tenant's own and on a foreign one; a pinned one to close. -/
theorem test_sequence_requests_meet_their_premises :
    (let s := asking 1 1 0 32 1 0
     let e := CtlEntry.of (s.ringEntry 128 0)
     let s1 := s.takeControl 128
     headOk s 128 1 = true ∧ s1.openBad { e with tenant := ringTenant 128 } = false ∧ e.evictable = true ∧ s1.freeTag = some 0 ∧ s1.freeRun 2 = some 0 ∧
     2 * e.layers * e.lmax * e.tpKib / 32 = 2) ∧
    (∀ op ∈ [2, 3, 4], ∀ lmax ∈ [24, 25], let s := (asking 1 op 65535 lmax 0 0).setSeq 65535 seq1
      headOk s 128 op = true ∧ s.seqForeign (ringTenant 128) 65535 = false ∧ (s.seq 65535).pinned = false ∧ s.seqForeign (ringTenant 128) 0 = true) ∧
    seq1.tokens + 24 ≤ seq1.lmax ∧ seq1.lmax < seq1.tokens + 25 := by decide +kernel

/-- OPEN with every tag in use. -/
theorem test_no_free_tag :
    let s := { liveState with ledger := { liveState.ledger with seqs := (List.range 65536).map (fun n => (n, seq1)) } }
    s.freeTag = none := by
  have h : ∀ n, (((List.range n).map (fun n => (n, seq1))).filter (fun e => decide (e.2.state ≠ .free))).foldl (fun n e => if e.1 = n then n + 1 else n) 0 = n := by
    intro n
    induction n with
    | zero => rfl
    | succ n ih => rw [List.range_succ, List.map_append, List.filter_append, List.foldl_append, ih]; simp [seq1]
  simp only [State.freeTag, h]
  rfl

/-- DropsAndReleasesFreePages: too few free pages with a candidate; a pending page that a move still uses and one that none does. -/
theorem test_drops_and_releases_meet_their_premises :
    let s := liveState.setSeq 5 { seq1 with mappedSpans := 1 }
    let p : PendingPage := { ppn := 3, apPage := 9, drop := false }
    let q := { liveState with ledger := { liveState.ledger with pending := [p] } }
    let h := q.setTile 0 { Tile.initial with moves := [{ State.newMove 0 (.load 0 512 0 1) [] with pages := [(9, 3)] }] }
    s.live = true ∧ s.ledger.dropTarget = 0 ∧ s.freePages < s.lowMark ∧ s.freePages + s.ledger.pending.length < s.highMark ∧ s.oldestCandidate = some 5 ∧
    ({ s with ledger := { s.ledger with pool := [(0, 100000000)] } }).lowMark ≤ ({ s with ledger := { s.ledger with pool := [(0, 100000000)] } }).freePages ∧
    q.ledger.pending[0]? = some p ∧ q.disp.placements.any (·.waiting) = false ∧ q.translationHeld p = false ∧ h.translationHeld p = true := by decide +kernel

/-! ### Sessions, handles, Manifests and key rotation -/

/-- An open session. -/
def session1 : Session :=
  { reserve := 0, quota := 0, pubKey := [], privKey := 1, clientKey := [], keys := { kIn := List.replicate 32 5, kOut := [], kSeal := [], saltIn := [1, 2, 3, 4], saltOut := [], saltSeal := [] },
    genKeys := (true, false), cur := false, sealCount := 0, nextSerial := 0, closing := false }

/-- SessionsOpenCloseAndAttest: SESSION_OPEN for tenant 1 whose point holds and whose point fails; SESSION_CLOSE with and without a session; MANIFEST. -/
theorem test_sessions_meet_their_premises :
    (∀ good ∈ [true, false],
     let key := if good then ecBytes (some ecG) else []
     let s0 := ((asking 0 5 0 0 0 (psramBase 1 + 0x1000)).write (psramBase 1 + 0x1000) ([1, 0, 1, 3] ++ natLE 12 0 ++ key)).setFld (pgSec + 0x10C) 1 0 3
     let s := { s0 with fuses := { s0.fuses with lifecycle := 3 } }
     let s1 := s.takeControl 0
     headOk s 0 5 = true ∧ (State.runPages [(3, 2)]).any s.pageHeld = false ∧ s1.depotOpen = true ∧ State.paramOk (psramBase 1 + 0x1000) = true ∧ s1.openSessionBad (psramBase 1 + 0x1000) = !good ∧
     (CtlEntry.of (s.ringEntry 0 0)).param = psramBase 1 + 0x1000) ∧
    (∀ op ∈ [6, 9], let s := (asking 1 op 0 0 0 (psramBase 1 + 0x1000)).write (psramBase 1 + 0x1000) [1, 0]
      let s1 := s.takeControl 128
      headOk s 128 op = true ∧ ringTenant 128 = s1.nat (psramBase 1 + 0x1000) 2 ∧ s1.depotOpen = true ∧ s1.sessionOpen 1 = false ∧ Memory.wf s.mem = true ∧
      ((s.setSession 1 session1).takeControl 128).sessionOpen 1 = true ∧ (((s.setSession 1 session1).takeControl 128).session 1).isSome = true) := by decide +kernel

/-- ClosedSessionsLeaveNothing: a tenant that closes, with a page and no work. -/
theorem test_closing_meets_its_premises :
    let d : Deferred := { cring := 1, ring := 0, index := 0, tag := 3, tenant := 1, param := 0 }
    let s := ((serving 2 true).setSession 1 { session1 with closing := true }).setOwner 7 { tenant := 1, keygen := false, assigned := true }
    let c := s.updSec (fun c => { c with closing := [d] })
    c.live = true ∧ c.sec.closing.find? (fun d => d.tenant = 1) = some d ∧ c.tenantBusy 1 = false ∧ (c.pagesOf 1).any c.pageHeld = false ∧ smSorted c.sec.sessions = true ∧ smSorted c.dram.keyTable = true ∧ c.pagesOf 1 = [7] := by decide +kernel

/-- The parameter block of a REGISTER part of 64 bytes for address 0, with flags, whose one record lies 4 KiB above. -/
def partBlock (flags : Byte) : List Byte := [0, flags] ++ natLE 6 0 ++ natLE 8 0 ++ natLE 8 64 ++ natLE 8 (psramBase 1 + 0x2000)

/-- A record of 64 zero bytes of tenant 1, sealed for `session1`. -/
def record0 : List Byte :=
  let head := natLE 8 1 ++ natLE 4 64 ++ natLE 2 1 ++ natLE 34 0
  let x := gcmSeal (List.replicate 32 5) ([1, 2, 3, 4] ++ natLE 8 1) head (List.replicate 64 0)
  head ++ x.2 ++ x.1

/-- RegisteredObjectsGetHandles: a first part, a part that is both first and last, a part that does not follow, and one whose record is not sealed. -/
theorem test_register_meets_its_premises : ∀ x ∈ [((1 : Byte), record0), (3, record0), (2, record0), (1, natLE 8 1 ++ natLE 4 64 ++ natLE 2 1)],
    let s := (((asking 1 7 0 0 0 (psramBase 1 + 0x1000)).write (psramBase 1 + 0x1000) (partBlock x.1)).write (psramBase 1 + 0x2000) x.2).setSession 1 session1
    let s1 := s.takeControl 128
    let p := s1.importPart (psramBase 1 + 0x1000) 1
    headOk s 128 7 = true ∧ Memory.wf s.mem = true ∧ s.dram.marked = [] ∧ s1.session 1 = some session1 ∧ s1.depotOpen = true ∧ p.bad = false ∧ s1.devHeld p.dest p.len = false ∧ State.paramOk (psramBase 1 + 0x1000) = true ∧
    s.anyMarked ((List.range p.len).map (p.dest + ·)) = false ∧ (∀ k, k < p.len → s.twinKey (p.dest + k) = none) ∧
    s1.partFollows 1 p = decide (x.1 ≠ 2) ∧ p.last = decide (x.1 ≠ 1) ∧ (s1.recordsOpen 1 p.src p.len).2 = decide (x.2.length = 128) := by decide +kernel

/-- RotationSweepsTheTenantsPages: ROTATE with a page and without; a sweep with two pages left, the first mapped or not. -/
theorem test_rotation_meets_its_premises :
    (∀ t ∈ [1], let s := ((asking t 8 0 0 0 0).setSession t session1).setFld (pgSec + 0x10C) 1 0 3
      let s1 := s.takeControl (128 * t)
      headOk s (128 * t) 8 = true ∧ s1.session t = some session1 ∧ s1.depotOpen = true ∧ s1.keysServed = true ∧ s.sec.sweeps.any (fun w => w.tenant = t) = false ∧ s.pagesOf t = [0]) ∧
    (let w : Sweep := { tenant := 1, pages := [7, 8], op := { cring := 1, ring := 0, index := 0, tag := 3, tenant := 1, param := 0 }, locked := none }
     let s := (((serving 2 true).setSession 1 { session1 with cur := true }).setOwner 7 { tenant := 1, keygen := false, assigned := true }).updSec (fun c => { c with sweeps := [w] })
     let m := s.setEntry 40 { LedgerEntry.unmapped with valid := true, tenant := 1, ppn := 7 }
     s.live = true ∧ s.safety.phase = .none ∧ s.sec.sweeps = [w] ∧ s.pageOwned 7 1 = true ∧ (s.owner 7).keygen ≠ s.tenantGen 1 ∧
     s.ledger.pending.any (fun x => x.ppn = 7) = false ∧ s.mappedAt 7 = none ∧ m.mappedAt 7 = some 40 ∧ m.translationHeld { ppn := 7, apPage := 40, drop := false } = false ∧
     s.pageHeld 7 = false ∧ (m.entry 40).valid = true ∧ (m.entry 40).ppn = 7 ∧ smSorted m.ledger.entries = true ∧
     after (.rekeyPage false) m (fun u => (u.entry 40).lock && u.sec.sweeps.map (·.locked) = [some (40, u.clk)]) = true ∧
     after (.rekeyPage false) { m.updSec (fun c => { c with sweeps := [{ w with locked := some (40, 0) }] }) with clk := 1000 }
       (fun u => !(u.entry 40).lock && u.sec.sweeps.map (·.pages) = [[8, 7]]) = true) := by decide +kernel

/-! ### The Interlocking engine -/

/-- A request row of tenant 0 for event 3 at tile 0's slot: one candidate of two waypoints at address 8, its result at 0x4000, RECHECK 65,536, a deadline of one
second, one footprint box, TREF 0; from byte 0x108 on a primitive image without primitives and bins of 50 ms. -/
def ilkRow (kind : Byte) : List Byte :=
  natLE 4 1 ++ [kind, 3] ++ natLE 2 0 ++ [0, 1, 2, 0] ++ natLE 2 1 ++ natLE 6 0 ++ natLE 4 65536 ++ natLE 8 8 ++ natLE 8 0x4000 ++ natLE 8 0 ++ natLE 8 1000000000 ++
    List.replicate 160 0 ++ natLE 28 0 ++ natLE 12 0 ++ natLE 8 0x6000 ++ natLE 16 0 ++ natLE 4 0x1000032 ++ natLE 2 50 ++ List.replicate 226 0

/-- That request once accepted from a tile that runs tenant 0. -/
def request (kind : Byte) : IlkRun :=
  { slot := 0, row := ilkRow kind, writer := some 0, epoch := 0, buf := 0, start := 0, checked := false, late := false, fault := false, results := [], todo := [],
    tried := 0, tests := 0 }

/-- A world of no primitives. -/
def world0 : World :=
  { prim := true, nodes := 0, nprim := 0, nmesh := 0, ntri := 0, leafMm := 50, depth := 1, binMs := 500, t0 := 2 ^ 40, ox := 0, oy := 0, oz := 0 }

/-- Drive service with that world current, pages 0 and 1 tenant 0's own, and the candidate's second waypoint 10 ms after the first. -/
def interlocking (f : Ilk → Ilk) : State :=
  let s := (((serving 1 true).setOwner 0 { tenant := 0, keygen := false, assigned := true }).setOwner 1 { tenant := 0, keygen := false, assigned := true }).write 24 (natLE 8 (2 ^ 54))
  { s with ilk := f { s.ilk with current := true, epochCount := 1, worlds := [(0, world0)] } }

/-- InterlockingRequestsStartInOrder: a new row in a free slot and in a busy one; a PLAN and a CHECK that keep R267, one of another tenant; a load that runs, one that
waits and one that supersedes another. -/
theorem test_interlocking_requests_meet_their_premises :
    let s := (interlocking id).write (ilkBase + 0x1000000 + 0x200 * 63) ((ilkRow 2).take 8)
    let row := s.bytes (ilkBase + 0x1000000 + 0x200 * 63) 512
    let other := { request 2 with writer := none }
    s.live = true ∧ bytesNat row 0 4 = 1 ∧ smGet s.ilk.lastSeq 0 63 = 0 ∧ s.ilkOutstanding.any (fun r => r.slot = 63) = false ∧ bytesNat row 4 1 = 2 ∧
    (interlocking (fun i => { i with queue := [request 2] })).ilkOutstanding.any (fun r => r.slot = 0) = true ∧ s.ilkRuns = true ∧
    (∀ k ∈ [(1 : Byte), 2], let q := interlocking (fun i => { i with queue := [request k] })
      q.ilk.running = none ∧ q.nextCheck = some (request k) ∧ (request k).kind = k.toNat ∧ q.ilkTenantOk (request k) = true ∧ (request k).checkBad = false ∧
      q.checkRanges (request k) = true ∧ q.inTime (request k) = true) ∧
    (interlocking (fun i => { i with queue := [other] })).nextCheck = some other ∧ s.ilkTenantOk other = false ∧
    (let q := interlocking (fun i => { i with queue := [request 3] })
     q.nextLoad = some (request 3) ∧ q.ilk.pendingLoad = none ∧ q.ilk.loading = none ∧ q.bufBound q.inactive = false ∧ q.ilkTenantOk (request 3) = true ∧
     q.loadOk (request 3) = true) ∧
    (interlocking (fun i => { i with queue := [request 3], loading := some (request 3) })).ilk.loading.isSome = true ∧
    (interlocking (fun i => { i with queue := [request 3], pendingLoad := some (request 3) })).ilk.pendingLoad = some (request 3) := by decide +kernel

/-- LoadsChangeTheWorldWhole: a primitive image that holds and one whose bins are shorter than 50 ms. -/
theorem test_loads_meet_their_premises :
    let bad := { request 3 with row := (ilkRow 3).set 0x11C 49 }
    (∀ r ∈ [request 3, bad], let s := interlocking (fun i => { i with loading := some r })
      s.ilk.loading = some r ∧ s.devHeld (r.n 0x100 8) r.imageBytes = false ∧ s.devMarked (r.n 0x100 8) r.imageBytes = false) ∧ (interlocking id).ilkRuns = true ∧
    (worldOf (request 3)).prim = true ∧ (worldOf bad).prim = true ∧ (interlocking id).primOk (request 3) = true ∧ (interlocking id).primOk bad = false := by decide +kernel

/-- A span of the local view, with no marked line and no drive reserve, is plain. -/
theorem plainSpan_of_low (s : State) (a n : Nat) (h : a + n ≤ 0x2000000000) (hm : s.dram.marked = []) (hr : s.dram.reserveSites = []) : plainSpan s a n := by
  have hk : ∀ i, i < n → s.devKey (a + i) = a + i := fun i hi => if_neg (by omega)
  refine ⟨?_, by simp [State.devMarked, hm], fun i _ => by simp [State.twinKey, State.inReserve, hr]⟩
  rw [List.map_congr_left (fun i hi => hk i (List.mem_range.mp hi))]
  exact List.pairwise_map.mpr (List.nodup_range.imp (fun h hxy => h (Nat.add_left_cancel hxy)))

/-- The result area of the request of these tests is one that a check's results may go to. -/
theorem test_result_area : let r := { request 2 with epoch := 1 }
    let s := interlocking (fun i => { i with running := some r })
    Memory.wf s.mem = true ∧ s.resultOk r = true ∧ plainSpan s r.result (0x1400 + 64) := by
  intro r s
  exact ⟨by decide +kernel, by decide +kernel, plainSpan_of_low s r.result _ (by decide +kernel) (by decide +kernel) (by decide +kernel)⟩

/-- ChecksEndWithTheirResults: a CHECK and a PLAN in time whose candidate is CLEAR, and a check stop that has come. -/
theorem test_checks_meet_their_premises :
    (∀ k ∈ [(1 : Byte), 2], let r := { request k with epoch := 1 }
      let s := interlocking (fun i => { i with running := some r })
      let full := checkAll (r.nwp - 1) s.lanes r.stopFirst (s.candTraces r)
      s.ilkRuns = true ∧ s.checking = some r ∧ s.ilk.pendingLoad = none ∧ s.inTime r = true ∧ s.timetablingOut = false ∧ s.devHeld r.cand r.candBytes = false ∧ s.devMarked r.cand r.candBytes = false ∧
      s.clearByCost { r with results := full, checked := true, tests := full.foldl (fun n c => n + c.cycles) 0 } = [0]) ∧
    (let s := { interlocking (fun i => { i with running := some { request 2 with epoch := 1 } }) with now := 1000000000 }
     s.checking = some { request 2 with epoch := 1 } ∧ (request 2).deadline ≤ s.now) := by decide +kernel

/-- A PLAN request with a CLEAR candidate to try, bound to an epoch. -/
def trying (epoch : Nat) (todo : List Nat) : IlkRun := { request 1 with epoch := epoch, checked := true, todo := todo }

/-- Whether an attempt at candidate 0 is CLEAR within its bound. -/
def attemptGood (s : State) (r : IlkRun) : Bool :=
  let tr := pathTrace s.mem (worldBase r.buf) (s.boundWorld r.epoch r.buf) (checkReqOf r.row r.tref)
    (State.sampleWays (planSamples (timePath (limitsOf r.row) (s.candWays r 0))))
  (candOf 199 tr 199 (traceCycles tr)).status = 1 && decide (traceCycles tr ≤ r.recheck)

/-- Every segment of a path is tested clear in no cycles in the world of no primitives, and untested without a world. -/
theorem trace_in_world0 (m : SMap Byte) (base : Nat) (c : CheckReq) (hc : c.tref = 0) (ws : List Waypoint) :
    (∀ w ∈ ws, w.t < 1024) → pathTrace m base (some world0) c ws = List.replicate (ws.length - 1) (.tested { cycles := 0, hit := none }) := by
  induction ws with
  | nil => intro _; rfl
  | cons w0 ws ih =>
    intro h
    cases ws with
    | nil => rfl
    | cons w1 ws =>
      have ht := h w0 List.mem_cons_self
      have hs : segTest m base (some world0) c w0 w1 = .tested { cycles := 0, hit := none } := by
        have h0 : ¬ world0.t0 + 16 * world0.binMs * 1000000 ≤ c.tref + w0.t * 10000000 := by
          rw [hc]; exact fun hx => absurd hx (by show ¬ (1099511627776 + 8000000000 ≤ 0 + w0.t * 10000000); omega)
        simp only [segTest]
        rw [if_neg h0, if_pos (show world0.prim = true from rfl)]
        rfl
      rw [pathTrace, hs]
      simp only [Option.isSome_none, Bool.false_eq_true, if_false, ih (fun w hw => h w (List.mem_cons_of_mem _ hw)), List.length_cons, Nat.add_sub_cancel]
      rw [← List.replicate_succ]

theorem trace_without_world (m : SMap Byte) (base : Nat) (c : CheckReq) (ws : List Waypoint) :
    pathTrace m base none c ws = List.replicate (ws.length - 1) .unchecked := by
  induction ws with
  | nil => rfl
  | cons w0 ws ih =>
    cases ws with
    | nil => rfl
    | cons w1 ws =>
      rw [pathTrace]
      simp only [segTest, ih, List.length_cons, Nat.add_sub_cancel]
      rw [← List.replicate_succ]

theorem test_attempt_good : attemptGood (interlocking id) (trying 1 [0]) = true := by
  have hw : (interlocking id).boundWorld (trying 1 [0]).epoch (trying 1 [0]).buf = some world0 := by decide +kernel
  have hr : (trying 1 [0]).recheck = 65536 := by decide +kernel
  unfold attemptGood
  rw [hw, hr, trace_in_world0 _ _ _ (by decide +kernel) _ (fun w h => by
    simp only [State.sampleWays, List.mem_map] at h
    obtain ⟨p, -, rfl⟩ := h
    exact Nat.mod_lt _ (by decide))]
  simp only [State.sampleWays, planSamples, List.length_map, List.length_range]
  decide +kernel

theorem test_attempt_not_good : attemptGood (interlocking id) (trying 0 [0, 1]) = false := by
  have hw : (interlocking id).boundWorld (trying 0 [0, 1]).epoch (trying 0 [0, 1]).buf = none := by decide +kernel
  have hr : (trying 0 [0, 1]).recheck = 65536 := by decide +kernel
  unfold attemptGood
  rw [hw, hr, trace_without_world]
  simp only [State.sampleWays, planSamples, List.length_map, List.length_range]
  decide +kernel

/-- AttemptsAndWatchesDecideThePlan: an attempt in an empty world and one without a world; a watched plan that is CLEAR. -/
theorem test_attempts_and_watches_meet_their_premises :
    (∀ r ∈ [trying 1 [0], trying 0 [0, 1]], let s := interlocking (fun i => { i with running := some r })
      s.ilkRuns = true ∧ s.ilk.running = some r ∧ r.checked = true ∧ s.ilk.pendingLoad = none ∧ s.inTime r = true ∧ s.timetablingOut = false) ∧
    (let s := interlocking (fun i => { i with watch := true, planStatus := .clear })
     s.ilk.watch = true ∧ s.ilk.planStatus ≠ .none ∧ Memory.wf s.mem = true) := by decide +kernel

/-- OwnerChangesScrubTheStore: depot service with nothing outstanding, drive service, and depot service with a request outstanding. -/
theorem test_owner_changes_meet_their_premises :
    let s := serving 2 true
    s.live = true ∧ mayWrite s (.stationmaster .a) (pgIlk + 0x110) = true ∧ s.service = 2 ∧ s.ilkOutstanding = [] ∧ bitsOf 4095 11 0 ≠ s.fld (pgIlk + 0x110) 11 0 ∧
    (serving 1 true).service ≠ 2 ∧ ({ s with ilk := { s.ilk with queue := [request 2] } }).ilkOutstanding ≠ [] := by decide +kernel

/-! ### Stacked DRAM, temperature and power -/

/-- Drive service with the stack of a die ready, its patrol at a line, and lines marked. -/
def patrolling (d at_ : Nat) (marked : List Nat) : State :=
  let s := ((serving 1 true).setFld (pgDramc d + 0x100) 4 0 1).updStack d (fun k => { k with patrolAt := at_ })
  { s with dram := { s.dram with marked := marked } }

/-- StackLinesAreCorrectedOrCleared: the first and last line of the first and last stack; a line of the drive reserve with its other copy and without. -/
theorem test_patrol_meets_its_premises :
    (∀ d ∈ [0, 3], ∀ l ∈ [0, stackLines - 1], let s := patrolling d l []
      s.live = true ∧ s.stackUp d = true ∧ s.fld (pgDramc d + 0x100) 3 3 = 0 ∧ (s.stack d).patrolAt = l ∧ l < stackLines ∧ d * stackLines + l ∉ s.dram.marked ∧
      s.inReserve (d * stackLines + l) = false) ∧
    lineDie ((4 * 0x800000000 - 64) / 64) = 3 ∧ (patrolling 3 0 []).safety.phase = .none ∧
    (∀ m ∈ [([] : List Nat), [stackLines]], let s := patrolling 0 0 m
      let r := { s with dram := { s.dram with reserveSites := [0, 1], reservePages := 1 } }
      r.inReserve (64 / 64) = true ∧ lineDie 0 = 0 ∧ r.inReserve 0 = true ∧ r.otherCopyGood 0 = decide (m = [])) ∧
    (let s := patrolling 0 0 [5]
     5 ∈ s.dram.marked ∧ s.inReserve 5 = false ∧ 6 ∉ s.dram.marked ∧ s.safety.phase = .none ∧ lineDie 5 = 0 ∧ lineDie 6 = 0) := by decide +kernel

/-- StackRepairsComplete: a corrected line waits, channel 31 fails, and a copy is being built. -/
theorem test_repairs_meet_their_premises :
    let s := (patrolling 3 0 []).updStack 3 (fun k => { k with rewrites := [7], failing := some (31, 0) })
    let c := { s with dram := { s.dram with building := some 2, reserveSites := [0], reserveAt := stackPages - 1, reservePages := 1 } }
    s.live = true ∧ (s.stack 3).rewrites = [7] ∧ (s.stack 3).failing = some (31, 0) ∧ s.stackUp 3 = true ∧ s.fld (pgDramc 3 + 0x100) 3 3 = 0 ∧
    c.dram.building = some 2 ∧ Memory.wf c.mem = true ∧ poolFit c.ledger.pool (2 * stackPages) (3 * stackPages) 1 = none ∧
    poolFit [(2 * stackPages, stackPages)] (2 * stackPages) (3 * stackPages) 1 = some (2 * stackPages) := by decide +kernel

/-- TemperatureSetsTheBand: a die from band 0 to 5 and back from 5, and a hub below, in and above the range from 100 to 105 °C. -/
theorem test_temperatures_meet_their_premises :
    let s := serving 1 true
    let five := s.updTherm 3 (fun t => { t with called := 5, cool := 9 })
    s.live = true ∧ 3 ∈ s.sites ∧ (State.bandNext (s.therm 3) (s.sampleSpots 3 (List.replicate 8 (1000, 1000))).2 []).1 = 5 ∧ (s.therm 3).called < 5 ∧
    (five.therm 3).called = 5 ∧ (State.bandNext (five.therm 3) (five.sampleSpots 3 (List.replicate 8 (400, 400))).2 []).1 < 5 ∧
    (∀ x ∈ [(799 : Int), 800, 839, 840], (s.sampleSpots 5 (List.replicate 4 (x, x))).2 = some x) := by decide +kernel

/-- PowerAndVoltageMoveByOneStep: power above, at and below nine tenths of the limit. -/
theorem test_power_meets_its_premises :
    let s := serving 1 true
    s.live = true ∧ s.coolLost = false ∧ s.hubBlind = false ∧ s.hubHot = false ∧ s.lowestLimit = 480 ∧ s.calEff pgPwr 1 10 = 0 ∧
    after (.powerSample 481) s (fun t => t.power.kc = 3) = true ∧ after (.powerSample 480) s (fun t => t.power.kc = 4) = true ∧
    after (.avsUpdate [700] 0) (s.setFld (pgPwr + 0x108) 9 0 700) (fun t => t.fld (pgPwr + 0x108) 9 0 = 705) = true ∧
    after (.avsUpdate [900] 0) (s.setFld (pgPwr + 0x108) 9 0 849) (fun t => t.fld (pgPwr + 0x108) 9 0 = 850) = true := by decide +kernel

/-- PowerAndHeatFaultsAct: lost coolant by its sensor, a tile below its slack, a die of this device, and a hold that is not PORST_N's. -/
theorem test_power_faults_meet_their_premises :
    let s := serving 1 true
    s.live = true ∧ s.coolLost = false ∧ s.fld (pgCool + 0x104) 18 18 = 0 ∧ s.tilePresent 63 = true ∧ (s.tile 63).worn = false ∧ 39 < 40 ∧ 3 ∈ s.sites ∧
    s.safety.phase = .none ∧ s.start.hold ≠ .porst ∧ s.hotDiodes [(0, 0, 920)] 920 ≠ [] ∧
    (let p : State := { (s.updTherm 0 (fun t => { t with samples := List.replicate 250 100 ++ List.replicate 50 0 })) with power := { s.power with watts := [100, 100] } }
     (p.powerSteady && (List.range 6).any (fun d => decide (200 < p.fineSlope d))) = true) ∧
    after (.coolingLost false) s (fun t => t.power.kc = 0) = true := by decide +kernel

/-! ### Recovery, self-tests and the islands -/

/-- Drive service with tiles 0 and 1 coupled in service, with and without work. -/
def coupledPair (wid : Option Nat) (h : Health) : State :=
  ((serving 1 true).setTile 0 { Tile.initial with coupled := true, wid := wid, health := h }).setTile 1 { Tile.initial with coupled := true, wid := wid, health := h }

/-- FaultsStartTheRecovery: a pair and a lane pair, busy and idle, and a die that is not quarantined. -/
theorem test_faults_meet_their_premises :
    let s := coupledPair (some 0) .inService
    let f := coupledPair none .inService
    let l := { s with ilk := { s.ilk with running := some (request 2) } }
    s.live = true ∧ s.safety.phase = .none ∧ s.pairServes 0 = true ∧ s.suspectBusy (.unit (.pair 0)) = true ∧ f.pairServes 0 = true ∧
    f.suspectBusy (.unit (.pair 0)) = false ∧ s.ilk.coupled = true ∧ 15 ∉ s.ilk.lanesOut ∧ l.suspectBusy (.unit (.lane 15)) = true ∧ s.suspectBusy (.unit (.lane 15)) = false ∧
    s.ilk.running = none ∧ s.timetablingOut = false ∧ 0 ∈ s.sites ∧ s.fld (pgDramc 0 + 0x100) 4 4 = 0 ∧ s.suspectBusy (.die 0) = true ∧ f.suspectBusy (.die 3) = false ∧ 3 ∈ s.sites ∧ s.fld (pgDramc 3 + 0x100) 4 4 = 0 := by decide +kernel

/-- A recovery of pair 0 in a phase. -/
def recovering (p : Phase) (restart : Option Nat) (now : Nat) : State :=
  let s := coupledPair none .inService
  { s with safety := { s.safety with phase := p, suspects := [.unit (.pair 0)], restart := restart }, now := now }

/-- RecoveryPhasesFollowOneAnother: every phase, with a later fault and without, in time and 1 ns late, on the first island and on the second. -/
theorem test_recovery_meets_its_premises :
    (∀ p ∈ [Phase.quench, .discard, .isolate, .spareLoad, .resume], ∀ r ∈ [none, some 70000], let s := recovering p r (State.phaseDeadline p + 1)
      s.live = true ∧ s.safety.phase = p ∧ s.safety.restart = r ∧ s.safety.suspects = [.unit (.pair 0)] ∧ s.tileJudged 0 = true ∧ s.tileJudged 1 = true ∧
      s.safety.detectedAt + State.phaseDeadline p < s.now ∧ s.fld (pgSafety + 0x100) 3 3 = 0 ∧ s.islandOk .b = true ∧
      (s.setFld (pgSafety + 0x100) 3 3 1).fld (pgSafety + 0x100) 3 3 = 1) := by decide +kernel

/-- TestsDecideUnits: a pair and a single tile in verdict, lane pair 7 out, the Timetabling stage at fault, a pair that waits for its injection test, a free tile at the
last segment of its self-test and one before, and a tile that has run too long. -/
theorem test_units_meet_their_premises :
    let v := coupledPair none .verdict
    let t := (serving 2 true).setTile 5 { Tile.initial with health := .verdict }
    let l := { v with ilk := { v.ilk with lanesOut := [7], timetablingFault := true } }
    let f := (serving 2 true).setTile 5 { Tile.initial with segsDone := 79 }
    let o := { f with now := f.diagInterval + 1 }
    v.live = true ∧ (v.tile 0).health = .verdict ∧ (v.tile 1).health = .verdict ∧ v.safety.phase = .none ∧ (t.tile 5).health = .verdict ∧ (t.tile 5).coupled = false ∧
    t.needsReload 5 = false ∧ t.dieHalted 5 = false ∧ 7 ∈ l.ilk.lanesOut ∧ 7 ∉ l.ilk.lanesLost ∧ l.ilk.timetablingFault = true ∧
    FaultUnit.timetabling ∉ l.safety.injFailed ∧ (coupledPair none .injecting).pairTested 0 = true ∧ (coupledPair none .injecting).dieHalted 0 = false ∧
    FaultUnit.pair 0 ∉ v.safety.injFailed ∧ f.tilePresent 5 = true ∧ f.tileTaken 5 = false ∧ (f.tile 5).health = .inService ∧ (f.tile 5).segsDone + 1 = 80 ∧
    (f.tile 6).segsDone + 1 ≠ 80 ∧ f.driveRuns = false ∧ 15 ∉ f.ilk.lanesOut ∧ smSorted f.ilk.laneSegs = true ∧ f.tilePresent 63 = true ∧ (o.tile 63).lastPass + o.diagInterval < o.now := by decide +kernel

/-- SparesGetTheirContexts: tile 0 joins tile 1, and tile 5 owes its contexts. -/
theorem test_spares_meet_their_premises :
    let f : Fill := { die := 0, tile := 0, survivor := 1, cut := false }
    let s := coupledPair none .injecting
    let s := { s with safety := { s.safety with fills := [f] } }
    let r := (serving 2 true).setTile 5 { Tile.initial with reload := true, health := .injecting }
    s.live = true ∧ Memory.wf s.mem = true ∧ s.safety.phase = .none ∧
    s.safety.fills.find? (fun f => f.die = 0 && !f.cut && (s.tile f.tile).health = .injecting && (s.tile f.survivor).health = .injecting && !(s.tile f.survivor).reload) = some f ∧
    (r.tile 5).reload = true ∧ (r.tile 5).health = .injecting ∧ r.safety.fills = [] ∧ r.dieHalted 5 = false := by decide +kernel

/-- An island that has missed state words and heartbeats, with a rail twice outside its window. -/
def worried : Island := { Island.initial with peerMissed := 2, beatMissedA := 2, railsOut := [(1, 2)] }

/-- IslandsSuperviseAndAct: both islands, and one; a first and a third miss; each pair of clocks that agrees; a rail inside and outside; a frame two periods back. -/
theorem test_islands_meet_their_premises :
    let s := serving 1 true
    let w := { s with safety := { s.safety with islA := worried } }
    let g := framed 200001
    let f := { s with safety := { s.safety with islB := { Island.initial with faulty := true } } }
    s.live = true ∧ s.islandOk .a = true ∧ s.islandOk .b = true ∧ f.islandOk .a = true ∧ f.islandOk .b = false ∧ s.safety.islA.peerMissed < 2 ∧
    w.safety.islB.peerMissed < 2 ∧ 2 ≤ w.safety.islA.peerMissed ∧ w.safety.islA.beatMissedA = 2 ∧
    clocksAgree 1000 1030 = true ∧ clocksAgree 1000 1031 = false ∧ clocksAgree 1030 1000 = true ∧ clocksAgree 1031 1000 = false ∧ clocksAgree 1031 1030 = true ∧
    clocksAgree 1000 2000 = false ∧ clocksAgree 2000 1000 = false ∧ clocksAgree 1000 1000 = true ∧
    s.progressMissing = false ∧ g.progressMissing = true ∧
    (∃ mv ∈ [1, 700, 800, 900, 1000, 1200], s.railOut 1 mv = false) ∧ s.railOut 1 1 = true ∧ smSorted s.safety.islA.railsOut = true ∧ 2 ≤ smGet w.safety.islA.railsOut 0 1 ∧
    g.service = 1 ∧ g.disp.frameStart + 2 * g.framePeriod < g.now ∧
    smFind g.safety.actions State.evFrameLost = none := by decide +kernel

/-! ### The Platform ports -/

/-- Port 0 serves a trained host that has opened the row of an offset. -/
def hosting (off : Nat) : State :=
  let s := (serving 2 true).setFld (pgPlat 0 + 0x100) 1 0 2
  s.updPort 0 (fun P => { P with vacant := false, trained := [.commandBus, .wck2ck, .readDq, .writeFifo].flatMap (fun f => (List.range 4).map (fun c => (c, f))),
                                 openRows := [(State.bankKey (s.sourceBits 0 off 26 2) (s.sourceBits 0 off 6 4), s.sourceBits 0 off 10 16)] })

/-- Such a burst is served. -/
def served (off : Nat) : Bool :=
  let s := hosting off
  s.live && s.portHears 0 && !(s.port 0).vacant && s.portTrained 0 && s.portSleep 0 (s.sourceBits 0 off 26 2) = .none && s.rowOpen 0 off (s.sourceBits 0 off 26 2) (s.sourceBits 0 off 6 4)

/-- HostBurstsReachTheirWindows: the ends of Platform SRAM, of its host part, of the vacant window, and a register of each hub. -/
theorem test_host_bursts_meet_their_premises :
    (∀ off ∈ [State.winSram, State.winSram + psramBytes - 64, State.winSram + 0x1F00000 - 64, State.winSram + 0x1F00000, State.winBellEnd, State.winSram - 64, 0x104, 0x800104],
      served off = true) ∧ (hosting 0).fld (pgPlat 0 + 0x100) 1 0 = 2 ∧ (0x104 : Nat) < State.winProxy ∧ 0x104 / 0x800000 = 0 ∧ 0x800104 / 0x800000 = 1 ∧
    ((hosting 0x104).block ((0x5000000000 + 0x104) / 0x1000 * 0x1000)).isSome = true ∧ ((hosting 0x104).regAt (0x5000000000 + 0x104)).isSome = true ∧
    Memory.wf (hosting 0).mem = true := by decide +kernel

/-- HostBurstsReachTheirWindows: the default map puts the other column of a BL32 burst in the same 64 bytes, from both ends of Platform SRAM. -/
theorem test_long_bursts_meet_their_premises :
    ∀ off ∈ [State.winSram, State.winSram + 0x1F00000 - 64, State.winSram + psramBytes - 64], let s := hosting off
      let col := s.withColumn 0 off ((s.sourceBits 0 off 0 6 + 1) % 64) / 32 * 32
      served off = true ∧ 32 - off % 32 < 64 ∧ col = off + 32 ∧ col ≠ off / 32 * 32 ∧ State.winSram ≤ col ∧ col < State.winSram + psramBytes := by decide +kernel

/-- PortCommandsSetTheirPart: a port awake with every bank closed and with an open one, and in each low-power state. -/
theorem test_port_commands_meet_their_premises :
    let s := (hosting 0).updPort 0 (fun P => { P with openRows := [] })
    let o := s.updPort 0 (fun P => { P with openRows := [(State.bankKey 3 15, 9)] })
    s.portHears 0 = true ∧ s.live = true ∧ s.portUp 0 = true ∧ smFind (s.port 0).openRows (State.bankKey 3 15) = none ∧ s.bankOpen 0 3 none = false ∧
    s.bankOpen 0 3 (some 15) = false ∧ o.bankOpen 0 3 (some 15) = true ∧ o.bankOpen 0 3 none = true ∧ o.portSleep 0 3 = .none ∧
    (∀ x ∈ [PortSleep.powerDown, .selfRefresh, .deepSleep], let t := s.updPort 0 (fun P => { P with sleep := [(3, x)] })
      t.portHears 0 = true ∧ t.portSleep 0 3 = x ∧ t.portSleep 0 2 = .none) := by decide +kernel

/-- ProxyInterruptsAndPeersAnswer: a waiting write, a free entry 15 and a busy one that reads the ends of Platform SRAM, an unreported completion, a controller port. -/
theorem test_proxies_and_peers_meet_their_premises :
    let s := hosting 0
    let f := s.updPort 0 (fun P => { P with forwards := [{ addr := 0x5000800104, value := 0 }], unreported := true })
    let b := s.setProxy 0 15 { busy := true, addr := BitVec.ofNat 64 (psramBase 0 + 0x4000000 - 4), wdata := 0, ctl := 1, resp := [] }
    let c := { s with start := { s.start with role0 := true } }
    s.live = true ∧ (f.port 0).forwards = [{ addr := 0x5000800104, value := 0 }] ∧ s.portUp 0 = true ∧ (s.proxyEntry 0 15).busy = false ∧ (b.proxyEntry 0 15).busy = true ∧
    b.safety.phase = .none ∧ bitsOf (b.proxyEntry 0 15).ctl 7 0 = 1 ∧ bitsOf (b.proxyEntry 0 15).ctl 31 16 = 0 ∧ psramBase 0 ≤ (b.proxyEntry 0 15).addr.toNat ∧
    (b.proxyEntry 0 15).addr.toNat < psramBase 0 + 0x4000000 ∧ (b.proxyEntry 0 15).addr.toNat % 4 = 0 ∧ (f.port 0).unreported = true ∧ c.controls 0 = true := by decide +kernel

/-! ### Register pages and counters -/

/-- RefusedWritesAreRecorded: a register that the host may not write, one that the Stationmaster may, an unmapped and a misaligned address, and both ends of 10 to 500. -/
theorem test_register_writes_meet_their_premises :
    let s := serving 2 true
    s.live = true ∧ (s.regAt (pgTile 0 + 0x108)).isSome = true ∧ mayWrite s (.host 0) (pgTile 0 + 0x108) = false ∧ s.regAt (pgTile 0 + 0xFFC) = none ∧ (s.regAt (pgTile 0 + 0x108 + 4)).isSome = true ∧
    mayWrite s (.stationmaster .a) (pgTick + 0x100) = true ∧
    after (.registerWrite (.stationmaster .a) (pgTick + 0x100) 10) s (fun t => t.fld (pgTick + 0x100) 8 0 = 10) = true ∧
    after (.registerWrite (.stationmaster .a) (pgTick + 0x100) 9) s (fun t => t.fld (pgTick + 0x100) 8 0 = 100) = true ∧
    after (.registerWrite (.stationmaster .a) (pgTick + 0x100) 501) s (fun t => t.fld (pgTick + 0x100) 8 0 = 100) = true := by decide +kernel

/-- ErrorRecordsAreReadAndCleared: a TILE_CTL page with one record queued and none; an injected code that its block detects and one that it does not. -/
theorem test_error_records_meet_their_premises :
    let s := serving 2 true
    let q := { s with errq := [(pgTile 0, [7])] }
    let on := BitVec.ofNat 32 (0x80000000 + State.codeLevel 0x201 * 4096 + 0x201)
    s.live = true ∧ pgTile 0 % 0x1000 = 0 ∧ s.block (pgTile 0) = some (.tileCtl, 0) ∧ smSorted q.errq = true ∧ smGet q.errq [] (pgTile 0) = [7] ∧
    (∀ o ∈ [0x20, 0x28, 0x34], mayWrite s (.stationmaster .a) (pgTile 0 + o) = true) ∧ bitsOf on 31 31 = 1 ∧ bitsOf on 30 30 = 0 ∧ s.fld (pgTile 0 + 0x34) 30 30 = 0 ∧
    State.detectsCode .tileCtl (bitsOf on 15 0) = true ∧ State.countedCode 0x201 = false ∧ (smGet s.errq [] (pgTile 0)).length < 8 ∧
    State.detectsCode .tileCtl 0x201 = false ∧ State.detectsCode .tileCtl 0x5401 = false := by decide +kernel

/-- CountersStartCaptureAndWrap: the last counter of a hub page, which wraps; a GO word that starts and stops it, and one that only starts it. -/
theorem test_counters_meet_their_premises :
    let s := serving 2 true
    let k := pgHubCnt 0 + 0x120 + 0x10 * 15 + 4
    let w := { s with cnt := [(k, 2 ^ 48)] }
    s.live = true ∧ pgHubCnt 0 % 0x1000 = 0 ∧ s.block (pgHubCnt 0) = some (.hubcnt, 0) ∧ 15 < blkCounters .hubcnt ∧ mayWrite s (.stationmaster .a) (pgHubCnt 0 + 0x100) = true ∧
    mayWrite s (.stationmaster .a) k = true ∧ (∀ j, j < 16 → bitsOf 0x8000 j j = 0 ∨ bitsOf 0x8000 (16 + j) (16 + j) = 0) ∧ bitsOf 0x80008000 15 15 = 1 ∧
    bitsOf 0x80008000 31 31 = 1 ∧ 2 ^ 48 ≤ smGet w.cnt 0 k := by decide +kernel

/-! ### Security and the serial monitor -/

/-- An owner command in progress, with its record in Platform SRAM, in a lifecycle state. -/
def owning (lc : Nat) (cmd arg signer : Byte) : State :=
  let s := ((serving 2 true).write (psramBase 0) [cmd, 0, arg, signer]).setFld (pgSec + 0x140) 2 0 1
  { s with fuses := { s.fuses with lifecycle := lc, ownerSet := [0, 2] } }

/-- OwnerCommandsBurnWhatTheyName: each command in a state that permits it, one made in a handover, and one of an unprovisioned device. -/
theorem test_owner_commands_meet_their_premises :
    (∀ c ∈ [((3 : Nat), (1 : Byte), (3 : Byte)), (3, 2, 1), (3, 3, 64), (2, 4, 0), (3, 5, 0), (3, 6, 0)],
      let s := owning c.1 c.2.1 c.2.2 0
      let bs := s.ownerRecord
      s.live = true ∧ s.service ≠ 3 ∧ s.fld (pgSec + 0x140) 2 0 = 1 ∧ State.orCmd bs = c.2.1.toNat ∧ s.orFresh bs = true ∧
      (∃ k ∈ [0, 1, 2, 3], k ≠ c.2.2.toNat ∧ s.slotGood k = true) ∧ State.orArg bs = c.2.2.toNat) ∧
    (∀ lc ∈ [2, 3], 3 ∉ (owning lc 1 3 0).fuses.ownerSet) ∧ (let s := owning 4 6 0 0
     s.fuses.lifecycle = 4 ∧ State.orCmd s.ownerRecord = 6 ∧ s.orFresh s.ownerRecord = true) ∧ (owning 3 1 3 0).orFresh (List.replicate 48 9) = false ∧ 3 ∉ (owning 3 1 3 0).fuses.ownerSet ∧ State.orSigner (owning 2 1 3 0).ownerRecord = 0 ∧ zeroAt (owning 2 1 3 0).ownerRecord 0x70 133 = true ∧
    zeroAt (owning 2 1 3 0).ownerRecord 0x100 132 = true ∧ (owning 3 3 64 0).fuses.rollback < 64 ∧
    ((owning 3 3 64 0).setFld (pgSec + 0x108) 11 5 64).fld (pgSec + 0x108) 11 5 = 64 ∧ (owning 2 4 0 0).fuses.ownerSet ≠ [] ∧
    (owning 3 5 0 0).safety.islA.park.level = true ∧ (owning 3 5 0 0).safety.islB.park.level = true ∧
    ((owning 3 2 1 0).setFld (pgService + 0x104) 1 0 3).service = 3 ∧ (owning 0 2 1 0).fuses.lifecycle = 0 ∧
    (∀ k ∈ [0, 6, 7], let s := { owning 3 5 0 0 with start := { liveState.start with hold := .erasing k } }
      s.start.hold = .erasing k ∧ s.pending = []) := by decide +kernel

/-- EntropyHealthIsKept. -/
theorem test_entropy_meets_its_premises : ((serving 2 true).setFld (pgSec + 0x10C) 1 0 3).fld (pgSec + 0x10C) 0 0 = 1 ∧ (serving 2 true).live = true ∧
    (serving 2 true).sec.drbgCount < 2 ^ 20 ∧ ((serving 2 true).updSec (fun c => { c with drbgCount := 2 ^ 20 })).sec.drbgCount = 2 ^ 20 := by decide +kernel

/-- The monitor of a parked depot, in a lifecycle state, with a token of every scope or none. -/
def monitored (lc : Nat) (token : Bool) : State :=
  let s := (serving 2 true).setFld (pgService + 0x100) 8 8 1
  { s with sec := { s.sec with life := lc }, mon := { s.mon with token := if token then some (15, 1000) else none } }

/-- A token for this device, of every scope, that ends at 1,000 ns. -/
def token0 : List Byte := natLE 4 0x4E4B4F54 ++ natLE 2 1 ++ [15, 0] ++ natLE 16 0 ++ natLE 8 0 ++ natLE 8 1000 ++ List.replicate 268 0

/-- MonitorServesItsCommands: with a token and without one, in Returned for UNLOCK; a rate that is listed and one that is not; pages and addresses that exist or not. -/
theorem test_monitor_meets_its_premises :
    let s := monitored 3 true
    let n := monitored 3 false
    (∀ c ∈ [MonCommand.ident, .baud, .token, .scoped .read, .scoped .write], s.live = true ∧ s.sec.life ≠ 5 ∧ s.mon.testing = none ∧ s.serves c = true) ∧
    (monitored 4 false).serves .unlock = true ∧ (monitored 4 false).mon.unlockAgainAt ≤ (monitored 4 false).now ∧ 115200 ∈ baudRates ∧ 115201 ∉ baudRates ∧
    s.mon.tokenAgainAt ≤ s.now ∧ token0.length = 308 ∧ s.tokenOk (0 :: token0) = false ∧ s.mon.token = some (15, 1000) ∧ (s.regAt pgMon).isSome = true ∧ s.regAt (pgMon + 0xFFC) = none ∧
    s.countersOf (pgHubCnt 0) ≠ 0 ∧ s.block pgSafety = some (.safety, 0) ∧ smGet s.errq [] pgSafety = [] ∧
    n.live = true ∧ n.sec.life = 3 ∧ n.romMonitor = false ∧ n.mon.testing = none ∧ n.mon.token = none := by decide +kernel

/-- A device whose monitor's ROM commands are served: BOOT_SEL 0b010 in lifecycle state 2 at step 2, an image of 512 bytes loaded at 64. -/
def booting : State :=
  let s := monitored 2 false
  { (s.setFld (pgService + 0x104) 1 0 1) with
    start := { s.start with step := 2, bootSel := 2 }
    mon := { s.mon with loaded := some (64, 512) } }

/-- MonitorLoadsBootsAndTests: LOAD and BOOT in the ROM, an image that verifies, TEST of a tile in service, and its report. -/
theorem test_monitor_loads_meet_their_premises :
    let l : LoadInput := { off := 0x1E00000 - 64, len := 4, data := [1, 2, 3, 4], crc := 0 }
    let s := monitored 3 true
    let r := { s with mon := { s.mon with testing := some (.tile 63) } }
    Memory.wf booting.mem = true ∧ booting.live = true ∧ booting.sec.life ≠ 5 ∧ booting.mon.testing = none ∧ booting.serves (.scoped .load) = true ∧
    booting.service ≠ 2 ∧ State.loadFits l.off l.len = true ∧ l.data.length = l.len ∧ crc32c l.data ≠ l.crc.toNat ∧ booting.serves .boot = true ∧
    booting.mon.loaded = some (64, 512) ∧ 64 + 512 ≤ 64 + 512 ∧ booting.start.step = 2 ∧ (∀ lc ∈ [2, 3], ({ booting with sec := { booting.sec with life := lc } }).serves .boot = decide (lc = 2)) ∧
    s.serves (.scoped .test) = true ∧ s.tileServes 63 = true ∧ s.safetyNeeds 31 = false ∧ r.mon.testing = some (.tile 63) ∧ r.tileServes 63 = true ∧
    r.tileTaken 63 = false ∧ (r.tile 63).coupled = false := by decide +kernel

/-! ### The convoy -/

/-- A live seat. -/
def seat0 : Seat :=
  { live := true, keyEpoch := 1, addrs := [9], manifest := [], attestKey := [], manifestOk := true, standby := false, lastBeat := 0 }

/-- A member of a convoy at seat 1 of the live seats 0 to 2, leading it or with seat 0 its leader, with port 3 up, at a station time. -/
def member (leads : Bool) (now : Nat) : State :=
  let s := ((((serving 2 true).setFld (pgCvy + 0x104) 1 0 2).setFld (pgCvy + 0x104) 2 2 (b2n leads)).setFld (pgCvy + 0x104) 15 8 1).setFld (pgEth 3 + 0x104) 0 0 1
  { s with now := now, convoy := { s.convoy with roster := [(0, seat0), (1, seat0), (2, seat0)], leaderSeat := if leads then 1 else 0, leaseOn := !leads, leaseAt := now } }

/-- A frame that a port accepts, of some content. -/
def frameOf (body : EthBody) : EthFrame := { len := 9216, tags := 1, fcsOk := true, fecCorr := 2, fecUncorr := 0, body := body }

/-- A Sync on port 0 at 10 ms that finds an offset, with no path delay. -/
def sync0 (offset : Int) : PtpSync :=
  { port := 0, domain := 0, ethernet := true, master := [1], origin := 10000000 - offset, request := offset, response := 0 }

/-- A member whose port 0 carries PTP, at 10 ms. -/
def synced : State := (member false 10000000).setFld (pgEth 0 + 0x104) 0 0 1

/-- ConvoyPortsAndTimeFollow: port 3 with its link up and down, with and without AN; frames that it takes and discards; a Sync that is followed and one that is not. -/
theorem test_convoy_ports_meet_their_premises :
    let s := member false 0
    let e := (serving 2 true).setFld (pgEth 3 + 0x100) 3 3 1
    let an := e.setFld (pgEth 3 + 0x100) 2 2 1
    s.live = true ∧ s.fld (pgEth 3 + 0x104) 0 0 = 1 ∧ e.fld (pgEth 3 + 0x100) 3 3 = 1 ∧ e.fld (pgEth 3 + 0x104) 0 0 = 0 ∧ (e.setFld (pgEth 3 + 0x100) 2 2 0).fld (pgEth 3 + 0x100) 2 2 = 0 ∧
    an.fld (pgEth 3 + 0x100) 2 2 = 1 ∧ (none : Option Nat) ≠ some (an.fld (pgEth 3 + 0x100) 1 0) ∧ s.ethAddr 3 = 0 ∧ (1 : BitVec 128) ≠ s.ethAddr 3 ∧
    (∀ b ∈ [EthBody.neighborSolicit 0, .neighborAdvert 5, .echoRequest 0 [7], .macControl, .other], State.frameTaken (frameOf b) = true) ∧
    State.frameTaken { frameOf .other with len := 9217 } = false ∧ State.frameTaken { frameOf .other with tags := 2 } = false ∧ State.frameTaken { frameOf .other with fecUncorr := 1 } = false ∧
    synced.ptpFollows (sync0 0) = true ∧ synced.ptpFollows { sync0 0 with domain := 1 } = false := by
  decide +kernel

/-- R369: an offset of −1 ms and below, and both sides of the bounds for PTP_LOCK, where 15 offsets were good. -/
theorem test_ptp_offsets :
    let g := { synced with convoy := { synced.convoy with ptpGood := 15 } }
    synced.ptpOffset (sync0 (-1000001)) = -1000001 ∧ synced.ptpOffset (sync0 (-1000000)) = -1000000 ∧ (synced.ptpOffset (sync0 100)).natAbs = 100 ∧
    (synced.ptpOffset (sync0 1001)).natAbs = 1001 ∧ 15 ≤ g.convoy.ptpGood ∧
    after (.ptpSync (sync0 (-1000001))) synced (fun t => t.now = 11000001) = true ∧ after (.ptpSync (sync0 (-1000000))) synced (fun t => t.now = 10000000 && t.convoy.slew = 1000000) = true ∧
    after (.ptpSync (sync0 100)) g (fun t => t.fld (pgCvy + 0x104) 3 3 = 1) = true := by
  decide +kernel

/-- SeatsAreAdmittedAndHeard: a JOIN as leader and as follower; a leader with seat 3 free, and one with none; a device that joins, with a roster that gives it seat 1 and one that
does not; a follower whose heartbeat is due. -/
theorem test_seats_meet_their_premises :
    let s := serving 2 true
    let l := s.setFld (pgCvy + 0x100) 1 0 2
    let j := (s.setFld (pgCvy + 0x104) 1 0 1).setFld (pgEth 3 + 0x104) 0 0 1
    let m := member true 0
    let f := member false 1000000
    let full := { m with convoy := { m.convoy with roster := (List.range 256).map (fun n => (n, seat0)) } }
    let info := fun l => ({ seat := 1, live := l, keyEpoch := 1, addrs := [], manifest := [], attestKey := [], chainOk := true, standby := false } : SeatInfo)
    s.live = true ∧ mayWrite s (.stationmaster .a) (pgCvy + 0x100) = true ∧ s.depotOpen = true ∧ s.cvyState = 0 ∧ l.fld (pgCvy + 0x100) 1 0 = 2 ∧ s.fld (pgCvy + 0x100) 1 0 ≠ 2 ∧
    l.depotOpen = true ∧ m.live = true ∧ m.leads = true ∧ (m.arrives 3 (m.fld (pgCvy + 0x120) 15 0) 1 0).1 = true ∧ (List.range 256).find? (fun n => !m.seatLive n) = some 3 ∧
    m.seatLive m.ownSeat = true ∧ (m.seat 3).keyEpoch ≠ m.memEpoch + 1 ∧ j.cvyState = 1 ∧ (j.arrives 3 (j.fld (pgCvy + 0x120) 15 0) 1 0).1 = true ∧
    [info true].find? (fun x => x.seat = 1 && x.live) = some (info true) ∧ [info false].find? (fun x => x.seat = 1 && x.live) = none ∧
    (List.range 256).find? (fun n => !full.seatLive n) = none ∧ full.leads = true ∧ State.manifestGood [] [] = false ∧ f.nextPort = some 3 ∧
    f.live = true ∧ f.isMember = true ∧ f.leads = false ∧ f.convoy.beatAt + 1000000 ≤ f.now ∧ (member false 999999).now < f.convoy.beatAt + 1000000 ∧ f.watchers = [0] ∧ f.roomFor 0 = true := by
  decide +kernel

/-- A packet of seat 2 for this seat by port 3, with an operation and a PSN. -/
def packetOf (s : State) (o : CaravanOp) (psn : Nat) : CaravanPacket :=
  { port := 3, udp := s.fld (pgCvy + 0x120) 15 0, version := 1, src := 2, dst := 1, convoy := 0, keyEpoch := 1, memEpoch := 5, psn := psn, ack := 0, sack := 0,
    len := (State.caravanData o).length, rsv := [], tenant := 1, op := o, tag := [] }

/-- A packet's tag does not count in what its tag is to be. -/
theorem caravanTag_tag (s : State) (p : CaravanPacket) (tag : List Byte) : s.caravanTag { p with tag := tag } = s.caravanTag p := by
  simp only [State.caravanTag, State.caravanSeal, State.caravanHeader]

/-- A packet carries its own tag, or another. -/
theorem tags_meet_their_premises (s : State) (p : CaravanPacket) :
    ({ p with tag := s.caravanTag p } : CaravanPacket).tag = s.caravanTag { p with tag := s.caravanTag p } ∧
    ({ p with tag := 0 :: s.caravanTag p } : CaravanPacket).tag ≠ s.caravanTag { p with tag := 0 :: s.caravanTag p } := by
  simp only [caravanTag_tag, true_and]
  exact List.cons_ne_self 0 (s.caravanTag p)

/-- A packet that a member takes is heard once it carries its own tag, where its PSN is new and nothing is unacknowledged. -/
theorem packet_is_heard (s : State) (p : CaravanPacket) (hp : packetTaken s p) (hu : (s.peer p.src).unacked = []) (hw : (s.peer p.src).waiting = [])
    (hn : State.psnSeen (s.peer p.src) p.psn = false) : heard s { p with tag := s.caravanTag p } := by
  have ht : ∀ tag, packetTaken s { p with tag := tag } := fun _ => hp
  have hq : ∀ tag, tag = s.caravanTag p → heard s { p with tag := tag } := fun tag h => ⟨ht tag, h.trans (caravanTag_tag s p tag).symm, hu, hw, hn⟩
  exact hq _ rfl

/-- A member takes a packet of a well-formed operation. -/
theorem packet_is_taken (leads : Bool) (o : CaravanOp) (ho : State.opBad o = false) : packetTaken (member leads 0) (packetOf (member leads 0) o 1) := by
  have h : (member leads 0).live = true ∧ ((member leads 0).arrives 3 ((member leads 0).fld (pgCvy + 0x120) 15 0) 1 0).1 = true ∧ (member leads 0).isMember = true ∧
      1 = (member leads 0).ownSeat ∧ 1 = ((member leads 0).seat 2).keyEpoch ∧ (member leads 0).seatLive 2 = true ∧ ((member leads 0).seat 2).manifestOk = true := by
    cases leads <;> decide +kernel
  exact ⟨h.1, h.2.1, h.2.2.1, h.2.2.2.1, h.2.2.2.2.1, h.2.2.2.2.2.1, h.2.2.2.2.2.2, ho, rfl⟩

/-- SeatsAreAdmittedAndHeard, SeatsAreFenced, CaravanPacketsLandOnce, ConsistSlotsBankTheirSteps: a message of each kind whose packet is heard. -/
theorem test_messages_are_heard : ∀ leads : Bool, ∀ o ∈ [CaravanOp.heartbeat [(3, 7)] [] [], .ack [] false, .ack [] true, .leave, .fence 1 2, .fence 2 2, .fence 2 1,
      .memWrite 5 0 (List.replicate 64 1), .bank 4 0 7, .bankLost 0 7],
    let s := member leads 0
    heard s { packetOf s o 1 with tag := s.caravanTag (packetOf s o 1) } := by
  intro leads o ho
  have hb : ∀ o ∈ [CaravanOp.heartbeat [(3, 7)] [] [], .ack [] false, .ack [] true, .leave, .fence 1 2, .fence 2 2, .fence 2 1,
      .memWrite 5 0 (List.replicate 64 1), .bank 4 0 7, .bankLost 0 7], State.opBad o = false := by decide +kernel
  have hq : ((member leads 0).peer 2).unacked = [] ∧ ((member leads 0).peer 2).waiting = [] ∧ State.psnSeen ((member leads 0).peer 2) 1 = false := by
    cases leads <;> decide +kernel
  exact packet_is_heard _ _ (packet_is_taken leads o (hb o ho)) hq.1 hq.2.1 hq.2.2

/-- A roster update to a joining device carries the tag that it lets it check. -/
theorem seated_tag (s : State) (p : CaravanPacket) (seats : List SeatInfo) (x : SeatInfo) :
    ({ p with tag := (s.seated p seats x).caravanTag p } : CaravanPacket).tag =
      (s.seated { p with tag := (s.seated p seats x).caravanTag p } seats x).caravanTag { p with tag := (s.seated p seats x).caravanTag p } := by
  have h : ∀ tag, s.seated { p with tag := tag } seats x = s.seated p seats x := fun _ => rfl
  have hq : ∀ tag, tag = (s.seated p seats x).caravanTag p →
      ({ p with tag := tag } : CaravanPacket).tag = (s.seated { p with tag := tag } seats x).caravanTag { p with tag := tag } := by
    intro tag ht
    rw [h, caravanTag_tag]
    exact ht
  exact hq _ rfl

/-- SeatsAreAdmittedAndHeard: the leader's roster update to a joining device that knows the leader's Manifest, under the tag that the update itself lets it check. -/
theorem test_joining_seat :
    let s := { ((serving 2 true).setFld (pgCvy + 0x104) 1 0 1).setFld (pgEth 3 + 0x104) 0 0 1 with convoy := { liveState.convoy with roster := [(2, seat0)] } }
    let x : SeatInfo := { seat := 1, live := true, keyEpoch := 2, addrs := [], manifest := [], attestKey := [], chainOk := true, standby := false }
    let p := packetOf s (.roster [x]) 1
    let q := { p with tag := (s.seated p [x] x).caravanTag p }
    ((s.seated q [x] x).seat q.src).manifestOk = true ∧ q.tag = (s.seated q [x] x).caravanTag q := by
  intro s x p q
  exact ⟨by decide +kernel, seated_tag s p [x] x⟩

/-- SeatsAreFenced: a leader whose seat 2 has been silent for 4 ms, a follower whose lease has run out, as standby with a majority heard and not, a leader without and with a
majority; epochs of packets and seats. -/
theorem test_fences_meet_their_premises :
    let m := member true 8000000
    let f := member false 4000000
    let h := { f with convoy := { f.convoy with roster := [(0, seat0), (1, seat0), (2, { seat0 with lastBeat := 3000000 }), (3, { seat0 with lastBeat := 3000000 }), (4, { seat0 with lastBeat := 3000000 })] } }
    let b := h.setFld (pgCvy + 0x100) 1 0 3
    m.live = true ∧ m.leads = true ∧ 2 ≠ m.ownSeat ∧ m.seatLive 2 = true ∧ (m.seat 2).lastBeat + 4000000 ≤ m.now ∧ m.isMember = true ∧ f.memEpoch < 5 ∧ (f.seat 2).keyEpoch < 2 ∧
    f.live = true ∧ f.isMember = true ∧ f.leads = false ∧ f.convoy.leaseOn = true ∧ f.convoy.leaseAt ≤ f.now ∧ (f.standsBy && f.majorityHeard 2000000 false) = false ∧
    b.standsBy = true ∧ b.majorityHeard 2000000 false = true ∧ m.convoy.leadSince + 8000000 ≤ m.now ∧ m.majorityHeard 8000000 true = false ∧
    ({ m with convoy := { m.convoy with roster := [(1, seat0)] } }).majorityHeard 8000000 true = true ∧ mayWrite m (.stationmaster .a) (pgCvy + 0x100) = true := by decide +kernel

/-- CaravanPacketsLandOnce: a grant for 64 bytes at address 0 and none; a PSN seen before; a packet with tries left and one without; an acknowledgement owed. -/
theorem test_packets_meet_their_premises :
    let g := pgCvy + 0x200
    let pk := fun n => ({ packetOf (member false 0) (.completion 5 0) n with src := 1, dst := 2 } : CaravanPacket)
    let one : Unacked := { pkt := pk 1, wire := [], tries := 7, sentAt := 0 }
    let two : Unacked := { pkt := pk 2, wire := [], tries := 8, sentAt := 0 }
    let s := ((((member false 0).setOwner 0 { tenant := 1, keygen := false, assigned := true }).setReg g 0).setReg (g + 4) 1).setReg (g + 8) 0x80020001
    let p := s.setPeer 2 { Peer.initial with unacked := [one, two], ackOwed := true, acked := 1 }
    s.live = true ∧ s.isMember = true ∧ State.psnSeen (s.peer 2) 1 = false ∧ State.psnSeen (p.peer 2) 1 = true ∧ (member false 0).granted 0 64 1 17 = false ∧
    Memory.wf s.mem = true ∧ s.dram.marked = [] ∧ s.granted 0 64 1 17 = true ∧ (p.peer 2).unacked.find? (fun u => u.pkt.psn = 1) = some one ∧ (p.peer 2).waiting = [] ∧
    (p.peer 2).unacked.find? (fun u => u.pkt.psn = 2) = some two ∧ p.fld (pgCvy + 0x124) 19 16 = 8 ∧ p.now < 0 + p.rtoNs 7 ∧ 0 + p.rtoNs 7 ≤ ({ p with now := 10 ^ 12 }).now ∧ 0 + p.rtoNs 8 ≤ 10 ^ 12 ∧
    s.devHeld 0 64 = false ∧ (∀ i, i < 64 → s.twinKey (0 + i) = none) ∧ (p.peer 2).ackOwed = true ∧ p.nextPort = some 3 ∧ (p.seat 2).manifestOk = true := by decide +kernel

/-- ConsistSlotsBankTheirSteps: slot 15 that may be armed, ACTIVE and ABORTED; its bank ring's head at a step; a late member 2; a running copy of a step. -/
theorem test_consists_meet_their_premises :
    let ctl := State.consistReg 15 0
    let s := ((((member true 0).updDisp (fun d => { d with rings := [(0, ringAt (psramBase 0) 0 0 1)] })).write (psramBase 0) bill).setFld (State.consistReg 15 0x10) 2 1 3).updSec (fun c => { c with handles := [image0] })
    let a := (s.setFld ctl 29 28 1).setFld (State.consistReg 15 8) 31 31 1
    let h := a.updConsist 15 (fun c => { c with halves := [(7, 0)], durations := [0] })
    let p := { place0 with serving := true }
    let r := placing a [p]
    s.live = true ∧ mayWrite s (.stationmaster .a) ctl = true ∧ s.consistState 15 ≠ 1 ∧ s.armOk 15 = true ∧ a.consistState 15 = 1 ∧ s.slotOfId 0 = none ∧ a.slotOfId 0 = some 15 ∧
    (s.setFld ctl 29 28 2).consistState 15 = 2 ∧ a.fld (State.consistReg 15 8) 31 31 = 1 ∧ (a.ring 0).fill ≠ 0 ∧ a.headHeld 0 = false ∧ a.headMarked 0 = false ∧ (a.headWaybill 0).tag = 7 ∧
    (a.updDisp (fun d => { d with frozen := true })).dispatches = false ∧ h.leads = true ∧
    h.consistHas 15 2 = true ∧ (h.consist 15).halves = [(7, 0)] ∧ (h.consist 15).durations ≠ [] ∧ smFind (h.consist 15).ended 2 = none ∧ (2, 7) ∉ (h.consist 15).banked ∧
    (h.setFld (pgCvy + 0x128) 7 0 1).fld (pgCvy + 0x128) 7 0 ≠ 0 ∧ 0 + medianOf (h.consist 15).durations * 1 / 100 ≤ h.now ∧
    h.fld (State.consistReg 15 8) 28 21 ≠ h.ownSeat ∧ h.roomFor 0 = true ∧ (h.setFld (State.consistReg 15 8) 28 21 1).fld (State.consistReg 15 8) 28 21 = h.ownSeat ∧
    (h.ring 5).fill = 0 ∧
    (r.disp.placements.find? (fun p => !p.ended && !p.aborting && p.started && p.serving && (r.consistRings 15).contains p.wb.ring && r.srStep p.wb.arg0 = 0)) = some p ∧
    r.placed p.wid = some p := by decide +kernel

/-! ### The block as a whole -/

/-- StepRunsTheFrontCommand, StepsKeepMemoryAndQueues, StationTimeNeverDecreases, NoTransitionLeadsOutOfReturned: the invariant holds of a device in service, whose step
with nothing waiting and with a command goes on; a device in Returned. -/
theorem test_steps_go_on :
    let s := serving 2 true
    let r := { s with fuses := { s.fuses with lifecycle := 4 } }
    Memory.wf s.mem = true ∧ (∀ e ∈ s.errq, e.2.length ≤ 8) ∧ s.pending = [] ∧ s.start.hold ≠ .porst ∧ r.fuses.lifecycle = 4 ∧
    (match step { s with pending := [.porstNAssert, .tick] } with
     | .next t => decide (t.now = 0) && decide (t.pending = [.tick])
     | _ => false) = true ∧
    (match step r with
     | .next t => t.fuses.lifecycle = 4 && t.clk = 1
     | _ => false) = true := by decide +kernel

/-! ### The table's words -/

/-- The table gives its rows no bits, so no word spells a command, and putting one in front changes nothing. -/
theorem test_no_word_spells_a_command : ∀ n ∈ [0, 8, 32, 128], ∀ w ∈ [0, 1, 0xFFFFFFFF], decodeTableWord n w = none := by decide

theorem test_withFetchWord_keeps_the_state : State.reset.withFetchWord 32 5 = State.reset := by decide +kernel

/-! ### Ill-formed commands -/

/-- Report and finding operands with nothing found. -/
def found0 : IlkFinding := { found := .clean, area := 0 }
def line0 : LineFinding := { line := 0, symbols := [], mac := false }
def unit0 : DramUnit := { channel := 0, bank := 0, column := false, index := 0 }
def seatInfo (n : Nat) : SeatInfo := { seat := n, live := true, keyEpoch := 0, addrs := [], manifest := [], attestKey := [], chainOk := true, standby := false }

/-- One command for each check of `wellFormed`, each with an operand one past its range, is refused: services, tiles and moves. -/
theorem test_ill_formed_tile_commands_are_refused :
    [Instr.serviceReqDrive (.host 2) true 0, .parked (.proxy 2) true, .endloop { slot0 with tile := 68 }, .swapw { slot0 with ecc := [(1280, false)] },
     .vfma { slot0 with eccF := [(1280, true)] } (vec0 0), .moveComplete 68 0 [] [] [], .moveComplete 0 0 [{ line0 with line := 0x2000000000 }] [] [],
     .moveComplete 0 0 [{ line0 with symbols := [72] }] [] [], .moveComplete 0 0 [] [(1280, false)] [], .rowScrub 68 .clean, .tileSegPwr (.stationmaster .a) 68 0, .segmentReady 0 8,
     .berthStore (.stationmaster .a) 0 8 0, .berthZeroed 68 0, .berthImageLoaded 0 8 [], .dockOpen (.stationmaster .a) 0 16 0, .dockRange (.stationmaster .a) 0 16 true 0,
     .remoteWrite 0 (.tile 68 0) [] [], .remoteWrite 0 (.seat 256 0 0 0 0 []) [] [], .remoteWrite 0 (.seat 0 0 0 16 0 []) [] [], .remoteWrite 0 (.seat 0 0 0 0 0 [[1]]) [] [],
     .eventArrival 0 16 0, .eventArrival 0 0 4096, .startUpStepEnd { report0 with failTiles := [68] }, .startUpStepEnd { report0 with badRows := [(0, 1280)] },
     .handoverStepEnd { report0 with injFailPairs := [32] }, .handoverStepEnd { report0 with injFailLanes := [16] }, .startUpStepEnd { report0 with injOncePairs := [32] },
     .startUpStepEnd { report0 with injOnceLanes := [16] }, .startUpStepEnd { report0 with march := [(4, unit0)] },
     .startUpStepEnd { report0 with march := [(0, { unit0 with column := true, index := 16 })] }, .startUpStepEnd { report0 with untrained := [(0, 33)] },
     .startUpStepEnd { report0 with logBad := [4] }, .startUpStepEnd { report0 with lanes := [{ page := 14, bundle := 0, margins := [] }] },
     .startUpStepEnd { report0 with slots := [none, none, none] }].all (fun c => !wellFormed c) = true := by decide +kernel

/-- The same of dispatch, the Interlocking engine, memory, recovery and the ports. -/
theorem test_ill_formed_device_commands_are_refused :
    [Instr.doorbell 2 0 0 0 0 0 0, .doorbellReread 0 256, .completionRingDoorbell 0 256 0 0 0 0 0, .latestStart 4096, .abortComplete 32, .provingRunEnd 32 [], .poLoad (.host 2),
     .ilkRequest 64 found0, .ilkRequest 0 { found0 with area := 5 }, .loadComplete found0 [{ line0 with symbols := [72] }], .ilkOwner (.proxy 2) 0, .patrol 4 [] false false,
     .patrol 0 [72] false false, .chMigrated 4 [], .dramRefresh 0 33 0, .dramRefresh 0 0 32, .thermalSample 6 [] [], .compareMismatch (.pair 32), .verdict (.lane 16) [],
     .selftestSegment (.tile 68) true, .routerFault 0 4, .hostRead 0 0 0 0 0 .good, .hostRead 0 32 33 0 0 .good, .hostRead 0 0 0 0 0 .good, .hostWrite 0 0 [none] 4 0 .good, .hostWrite 0 0 [] 0 0 .good,
     .activate 0 0 16 0 .good, .precharge 2 0 0 .good, .portReset 2, .modeRegisterWrite 0 0 256 0 .good, .training 0 4 .readDq true, .peerTraining 2 true,
     .hostRefresh 0 0 (some 16) .good, .selfRefreshEntry 0 4 .good, .proxyRequest 0 16 0 0 0, .proxyResponse 0 16, .platIrqStat 2 0].all (fun c => !wellFormed c) = true := by
  decide +kernel

/-- A packet from the first seat, with an operation. -/
def packet1 (o : CaravanOp) : CaravanPacket :=
  { port := 0, udp := 0, version := 1, src := 0, dst := 0, convoy := 0, keyEpoch := 0, memEpoch := 0, psn := 1, ack := 0, sack := 0, len := 0, rsv := [], tenant := 0, op := o,
    tag := List.replicate 16 0 }

/-- A join request, and a Sync. -/
def joining (port : Nat) (addrs : List (BitVec 128)) : JoinRequest :=
  { port := port, udp := 0, version := 1, convoy := 0, manifest := [], attestKey := [], chainOk := false, addrs := addrs, standby := false }

/-- The same of the convoy. -/
theorem test_ill_formed_convoy_commands_are_refused :
    [Instr.linkDown 4, .linkUp 4 none, .ethernetFrame 4 (frameOf .other), .ptpSync { sync0 0 with port := 4 }, .join (.host 2), .joinRequest (joining 4 []), .joinRequest (joining 0 [1, 2, 3, 4, 5]),
     .seatDead 256, .retransmit 256 0, .acknowledgementOnly 256, .bankLate 0 256, .bankLate 16 0, .arm (.stationmaster .a) 16 0, .freeSlot (.stationmaster .a) 16 0,
     .caravanPacket { packet1 .leave with port := 4 }, .caravanPacket { packet1 .leave with src := 256 }, .caravanPacket { packet1 .leave with dst := 256 },
     .caravanPacket { packet1 .leave with tag := [] }, .caravanPacket (packet1 (.dockWrite 0 68 0 0 [])), .caravanPacket (packet1 (.dockWrite 0 0 16 0 [])),
     .caravanPacket (packet1 (.dockWrite 0 0 0 0 [[1]])), .heartbeat (packet1 (.heartbeat [(65536, 0)] [] [])), .heartbeat (packet1 (.heartbeat [] [256] [])),
     .heartbeat (packet1 (.heartbeat [] [] [(65536, 0)])), .acknowledgement (packet1 (.ack [seatInfo 256] false)),
     .rosterUpdate (packet1 (.roster [{ seatInfo 0 with addrs := [1, 2, 3, 4, 5] }])), .convoyFence (packet1 (.fence 256 0)), .leaveMessage { packet1 .leave with port := 4 },
     .bank (packet1 (.bank 0 65536 0)), .bankLost (packet1 (.bankLost 65536 0))].all (fun c => !wellFormed c) = true := by decide +kernel

/-- The same of the Viaducts, the registers and the monitor. -/
theorem test_ill_formed_outer_commands_are_refused :
    [Instr.thermalTrip [(6, 0, 0)], .thermalTrip [(0, 16, 0)], .porstNRelease false false 0 [(6, 0, 0)], .flowSample 1 2 0 0 0, .flowSample 2 1 2 0 0, .viaductFrame 14 0 (frame0 0), .viaductFrame 0 0 { frame0 0 with src := 73 },
     .viaductFrame 0 0 { frame0 0 with flit := [] }, .viaStorm 0 4, .retry 0 4 0, .errNext .monitor 1, .errSticky .monitor 4 0, .cntGo .monitor 1 0, .cntLoRead .monitor 0 16,
     .cntLoWrite .monitor 0 16 0, .counterWrap 0 16 0, .monCnt 1, .monErr (some 1), .monErrclr 1, .monTest (.lane 16), .registerWrite (.host 2) 0 0, .sessionCloseZeroed 4096,
     .dramUe 0x2000000000 [] false false, .dramUe 0 [72] false false].all (fun c => !wellFormed c) = true := by decide +kernel

/-- Such commands at the end of their ranges are well formed. -/
theorem test_well_formed_commands_are_accepted :
    [Instr.serviceReqDrive (.host 1) true 0, .endloop { slot0 with tile := 67, ecc := [(1279, true)] }, .segmentReady 67 7, .berthStore (.stationmaster .b) 0 7 0,
     .dockOpen (.stationmaster .a) 0 15 0, .moveComplete 67 9 [{ line := 0x1FFFFFFFFF, symbols := [71], mac := true }] [] [], .eventArrival 67 15 4095, .doorbell 1 255 0 0 0 0 0,
     .latestStart 4095, .abortComplete 31, .ilkRequest 63 { found0 with area := 4 }, .patrol 3 [71] true true, .dramRefresh 3 32 31, .thermalSample 5 [] [], .verdict (.lane 15) [],
     .routerFault 3 3, .hostRead 1 0 64 3 15 .good, .hostWrite 1 63 [none] 0 0 .good, .proxyRequest 1 15 0 0 0, .linkDown 3, .seatDead 255, .bank (packet1 (.bank 0 65535 0)), .convoyFence (packet1 (.fence 255 0)), .joinRequest (joining 3 [1, 2, 3, 4]), .ptpSync { sync0 0 with port := 3 },
     .arm (.stationmaster .a) 15 0, .thermalTrip [(5, 15, 920)], .viaductFrame 13 3 { frame0 0 with src := 72 }, .viaStorm 13 3, .errNext .monitor 0x5000001000, .cntLoRead .monitor 0 15,
     .monRd 4 256, .monTest (.lane 15), .sessionCloseZeroed 4095, .dramUe 0x1FFFFFFFFF [71] false false, .monErr none, .startUpStepEnd report0].all wellFormed = true := by
  decide +kernel

end Sys2Proof.Tests
end

section
/-! SUPPORT. What a recorded error leaves alone, and where a register write ends (R13, R26, R27, R459, R463). -/

namespace Sys2Proof.Proofs

open Sys2Proof Sys2Proof.Machine Sys2Proof.Claims

/-! ### An error record -/

/-- Registers outside the list of a frame keep each of their fields. -/
theorem fld_of_regsBut {s t : State} {l : List Nat} (h : RegsBut s t l) {a : Nat} (ha : a ∉ l) (hi lo : Nat) :
    t.fld a hi lo = s.fld a hi lo := by
  rw [State.fld, State.fld, h a ha]

/-- An error is recorded in its page's sticky, first and count registers alone (R463). -/
theorem regsBut_recordErr (s : State) (page code unit : Nat) : RegsBut s (s.recordErr page code unit) (errRegs page) := by
  have hcount : RegsBut s (s.countErr page code) (errRegs page) :=
    ((RegsBut.refl s _).bump 1 (by simp [errRegs])).setFld _ _ 1 (by simp [errRegs])
  intro a ha
  unfold State.recordErr
  rw [reg_congr (State.queueErr_regs ..) (State.queueErr_fuses ..)]
  split
  · exact hcount.setReg _ (by simp [errRegs]) a ha
  · exact hcount a ha

/-- A recorded error sets the sticky bit of its class (R463). -/
theorem stuck_recordErr (s : State) (page code unit : Nat) : stuck (s.recordErr page code unit) page code := by
  have hclass : code / 256 % 16 < 32 := by omega
  have hcount : stuck (s.countErr page code) page code := by
    rw [stuck, State.countErr, fld_setFld_same _ _ _ (Nat.le_refl _) hclass, Nat.add_sub_cancel_left, Nat.pow_one]
  unfold stuck State.recordErr
  rw [fld_congr (State.queueErr_regs ..) (State.queueErr_fuses ..)]
  split
  · rw [fld_setReg_ne _ _ _ _ (by omega)]
    exact hcount
  · exact hcount

/-- An error record as a whole: the class bit, the registers of the record, and nothing of the memory. -/
theorem recordErr_recorded (s : State) (page code : Nat) :
    stuck (s.recordErr page code) page code ∧ RegsBut s (s.recordErr page code) (errRegs page) ∧ (s.recordErr page code).mem = s.mem :=
  ⟨stuck_recordErr .., regsBut_recordErr s page code noUnit, State.recordErr_mem ..⟩

/-! ### Where a register write ends -/

/-- No register lies at the address: the write is recorded on its writer's page (R26). -/
theorem regWrite_unmapped {s : State} {a : Nat} (h : s.regAt a = none) (who : Writer) (f : State → State) :
    s.regWrite who a f = s.recordErr (writerPage who) 0x5101 := by
  unfold State.regAt at h
  unfold State.regWrite
  cases hb : s.block (a / 0x1000 * 0x1000) with
  | none => rfl
  | some p =>
    simp only [hb] at h
    simp only [h]

/-- The register's block does not accept this writer: the block records REG_ACCESS (R459). -/
theorem regWrite_refused {s : State} {who : Writer} {a : Nat} (hr : (s.regAt a).isSome = true) (hw : mayWrite s who a = false)
    (f : State → State) : s.regWrite who a f = s.regAccess (a / 0x1000 * 0x1000) := by
  unfold State.regAt at hr
  unfold mayWrite at hw
  unfold State.regWrite
  cases hb : s.block (a / 0x1000 * 0x1000) with
  | none => simp [hb] at hr
  | some p =>
    simp only [hb] at hr hw
    obtain ⟨r, hreg⟩ := Option.isSome_iff_exists.mp hr
    simp only [hreg, Option.isSome_some, Bool.true_and] at hw
    simp [hreg, hw]

theorem writeReg_misaligned {a : Nat} (h : a % 4 ≠ 0) (s : State) (who : Writer) (w : Word) :
    s.writeReg who a w = s.recordErr (writerPage who)
      (if (s.regAt (a / 4 * 4)).isSome && (s.regAt (a / 4 * 4 + 4)).isSome then 0x5102 else 0x5101) := if_pos h

theorem writeReg_unmapped {s : State} {a : Nat} (h4 : a % 4 = 0) (h : s.regAt a = none) (who : Writer) (w : Word) :
    s.writeReg who a w = s.recordErr (writerPage who) 0x5101 := by
  rw [State.writeReg, if_neg (not_not_intro h4), regWrite_unmapped h]

theorem writeReg_refused {s : State} {who : Writer} {a : Nat} (h4 : a % 4 = 0) (hr : (s.regAt a).isSome = true)
    (hw : mayWrite s who a = false) (w : Word) : s.writeReg who a w = s.regAccess (a / 0x1000 * 0x1000) := by
  rw [State.writeReg, if_neg (not_not_intro h4), regWrite_refused hr hw]

/-- The register's block accepts this writer: the write has the effect that the register's own rule gives it. -/
theorem writeReg_accepted {s : State} {who : Writer} {a : Nat} (h4 : a % 4 = 0) (hw : mayWrite s who a = true) {b : Blk} {i : Nat}
    (hb : s.block (a / 0x1000 * 0x1000) = some (b, i)) (w : Word) : s.writeReg who a w = s.writeAt b i a w := by
  rw [State.writeReg, if_neg (not_not_intro h4), regWrite_of_mayWrite hw, hb]

/-- REGISTER_WRITE completes with the write of the register. -/
theorem answers_registerWrite {s : State} (hl : s.live = true) {who : Writer} {a : Nat} {w : Word} {P : State → Prop}
    (h : P (s.writeReg who a w)) : Answers (.registerWrite who a w) s P :=
  answers_whenLive (f := fun s => s.writeReg who a w) rfl hl h

/-! ### TICK_CTL (R257) -/

/-- The word that TICK_CTL holds after an accepted write: DEPOT_MS only where its encoding is listed, and bit 9. -/
def tickCtlWord (old w : Word) : Word :=
  setBits (if 10 ≤ bitsOf w 8 0 ∧ bitsOf w 8 0 ≤ 500 then setBits old 8 0 (bitsOf w 8 0) else old) 9 9 (bitsOf w 9 9)

theorem bitsOf_tickCtlWord_bit9 (old w : Word) : bitsOf (tickCtlWord old w) 9 9 = bitsOf w 9 9 := by
  rw [tickCtlWord, bitsOf_setBits_same _ _ (by omega) (by omega)]
  exact Nat.mod_mod _ _

theorem bitsOf_tickCtlWord_depot (old w : Word) : bitsOf (tickCtlWord old w) 8 0 =
    if 10 ≤ bitsOf w 8 0 ∧ bitsOf w 8 0 ≤ 500 then bitsOf w 8 0 else bitsOf old 8 0 := by
  rw [tickCtlWord, bitsOf_setBits_ne _ _ (by omega) (by omega) (by omega)]
  split
  · rw [bitsOf_setBits_same _ _ (by omega) (by omega)]
    exact Nat.mod_mod _ _
  · rfl

theorem regAt_tickCtl (s : State) : s.regAt (pgTick + 0x100) = some (mk [rw 8 0 100 (.range 10 500), rw 9 9]) := rfl

theorem legal_any_ok (v : Nat) : Legal.any.ok v = true := rfl

theorem legal_range_ok (lo hi v : Nat) : (Legal.range lo hi).ok v = decide (lo ≤ v ∧ v ≤ hi) := (Bool.decide_and ..).symm

/-- An accepted write of TICK_CTL stores the word, and an unlisted DEPOT_MS is recorded (R13). -/
theorem writeFields_tickCtl (s : State) (w : Word) : s.writeFields (pgTick + 0x100) w =
    let t := s.setReg (pgTick + 0x100) (tickCtlWord (s.reg (pgTick + 0x100)) w)
    if 10 ≤ bitsOf w 8 0 ∧ bitsOf w 8 0 ≤ 500 then t else t.regAccess pgTick := by
  have hpage : (pgTick + 0x100) / 0x1000 * 0x1000 = pgTick := rfl
  rw [State.writeFields, regAt_tickCtl]
  by_cases hv : 10 ≤ bitsOf w 8 0 ∧ bitsOf w 8 0 ≤ 500
  · simp [mk, rw, Fld.apply, Fld.refuses, Fld.of, legal_any_ok, legal_range_ok, tickCtlWord, hv]
  · simp [mk, rw, Fld.apply, Fld.refuses, Fld.of, legal_any_ok, legal_range_ok, tickCtlWord, hv, hpage]

theorem writeReg_tickCtl {s : State} {who : Writer} (hw : mayWrite s who (pgTick + 0x100) = true) (w : Word) :
    s.writeReg who (pgTick + 0x100) w = s.writeFields (pgTick + 0x100) w :=
  (writeReg_accepted rfl hw (b := .tick) (i := 0) rfl w).trans rfl

/-- TICK_CTL after an accepted write of a listed DEPOT_MS. -/
theorem writeReg_tickCtl_listed {s : State} {who : Writer} {w : Word} (hw : mayWrite s who (pgTick + 0x100) = true)
    (hlo : 10 ≤ bitsOf w 8 0) (hhi : bitsOf w 8 0 ≤ 500) : let t := s.writeReg who (pgTick + 0x100) w
    t.fld (pgTick + 0x100) 8 0 = bitsOf w 8 0 ∧ t.fld (pgTick + 0x100) 9 9 = bitsOf w 9 9 ∧ RegsBut s t [pgTick + 0x100] := by
  rw [writeReg_tickCtl hw, writeFields_tickCtl, if_pos ⟨hlo, hhi⟩]
  refine ⟨?_, ?_, (RegsBut.refl s _).setReg _ (List.mem_singleton_self _)⟩
  · rw [fld_setReg_same, bitsOf_tickCtlWord_depot, if_pos ⟨hlo, hhi⟩]
  · rw [fld_setReg_same, bitsOf_tickCtlWord_bit9]

/-- TICK_CTL after an accepted write of an unlisted DEPOT_MS: the field is kept and the page records REG_ACCESS. -/
theorem writeReg_tickCtl_unlisted {s : State} {who : Writer} {w : Word} (hw : mayWrite s who (pgTick + 0x100) = true)
    (hv : ¬ (10 ≤ bitsOf w 8 0 ∧ bitsOf w 8 0 ≤ 500)) : let t := s.writeReg who (pgTick + 0x100) w
    t.fld (pgTick + 0x100) 8 0 = s.fld (pgTick + 0x100) 8 0 ∧ t.fld (pgTick + 0x100) 9 9 = bitsOf w 9 9 ∧ stuck t pgTick 0x5103 := by
  have hctl : pgTick + 0x100 ∉ errRegs pgTick := by simp [errRegs]
  have hkeep := fld_of_regsBut (regsBut_recordErr (s.setReg (pgTick + 0x100) (tickCtlWord (s.reg (pgTick + 0x100)) w)) pgTick 0x5103 noUnit) hctl
  rw [writeReg_tickCtl hw, writeFields_tickCtl, if_neg hv]
  refine ⟨?_, ?_, stuck_recordErr ..⟩
  · exact (hkeep 8 0).trans (by rw [fld_setReg_same, bitsOf_tickCtlWord_depot, if_neg hv, State.fld])
  · exact (hkeep 9 9).trans (by rw [fld_setReg_same, bitsOf_tickCtlWord_bit9])

/-- Settles O41: each refusal is one error record, on the block's page or the writer's, and TICK_CTL takes its listed values alone. -/
theorem refusedWritesAreRecorded : Obligations.RefusedWritesAreRecorded := by
  intro s who a w hl page
  refine ⟨fun h4 hr hw => ?_, fun h4 hr => ?_, fun h4 => ?_, fun hw => ⟨fun hlo hhi => ?_, fun hlo => ?_⟩⟩ <;>
    refine answers_registerWrite hl ?_
  · rw [writeReg_refused h4 hr hw]
    exact recordErr_recorded s page 0x5103
  · rw [writeReg_unmapped h4 hr]
    exact recordErr_recorded s (writerPage who) 0x5101
  · rw [writeReg_misaligned h4]
    exact recordErr_recorded s (writerPage who) _
  · exact writeReg_tickCtl_listed hw hlo hhi
  · exact writeReg_tickCtl_unlisted hw (fun hv => by omega)

end Sys2Proof.Proofs
end

section
/-! SUPPORT. What a step keeps, whatever its command: the dispatch over the laws of each command, and station time (R35, R434). -/

namespace Sys2Proof.Proofs

open Sys2Proof Sys2Proof.Machine

/-! ### Every command but PORST_N goes on from the state it is given -/

theorem exec_evolves {c : Instr} (hc : c ≠ .porstNAssert) (s : State) : EvolvesRes s (exec c s) := by
  cases c with
  | serviceReqDrive => exact evolves_execServiceReqDrive ..
  | serviceReqDepot => exact evolves_execServiceReqDepot ..
  | parked => exact evolves_execParked ..
  | parkOkSample => exact evolves_execParkOkSample ..
  | handoverStepEnd => exact evolves_execHandoverStepEnd ..
  | handoverCheckpoint => exact evolves_execHandoverCheckpoint ..
  | stepLate => exact evolves_execStepLate ..
  | handoverFailed => exact evolves_execHandoverFailed ..
  | loop => exact evolves_execLoop ..
  | endloop => exact evolves_execEndloop ..
  | br => exact evolves_execBr ..
  | brc => exact evolves_execBrc ..
  | waitEvent => exact evolves_execWaitEvent ..
  | waitDock => exact evolves_execWaitDock ..
  | waitTime => exact evolves_execWaitTime ..
  | waitTags => exact evolves_execWaitTags ..
  | signalEvent => exact evolves_execSignalEvent ..
  | signalDockOpen => exact evolves_execSignalDockOpen ..
  | signalDockClose => exact evolves_execSignalDockClose ..
  | sets => exact evolves_execSets ..
  | adds => exact evolves_execAdds ..
  | roster => exact evolves_execRoster ..
  | budget => exact evolves_execBudget ..
  | fence => exact evolves_execFence ..
  | mark => exact evolves_execMark ..
  | endWaybill => exact evolves_execEndWaybill ..
  | ldrow => exact evolves_execLdrow ..
  | strow => exact evolves_execStrow ..
  | ldledger => exact evolves_execLdledger ..
  | dockwr => exact evolves_execDockwr ..
  | platcpy => exact evolves_execPlatcpy ..
  | gather => exact evolves_execGather ..
  | ldw => exact evolves_execLdw ..
  | commit => exact evolves_execCommit ..
  | moveComplete => exact evolves_execMoveComplete ..
  | mma => exact evolves_execMma ..
  | mmaz => exact evolves_execMmaz ..
  | conv => exact evolves_execConv ..
  | dconv => exact evolves_execDconv ..
  | swapw => exact evolves_execSwapw ..
  | accrd => exact evolves_execAccrd ..
  | vopMov => exact evolves_execVopMov ..
  | vopAdd => exact evolves_execVopAdd ..
  | vopSub => exact evolves_execVopSub ..
  | vopMul => exact evolves_execVopMul ..
  | vopMax => exact evolves_execVopMax ..
  | vopMin => exact evolves_execVopMin ..
  | vopAbs => exact evolves_execVopAbs ..
  | vopNeg => exact evolves_execVopNeg ..
  | vopRelu => exact evolves_execVopRelu ..
  | vopRcp => exact evolves_execVopRcp ..
  | vopRsqrt => exact evolves_execVopRsqrt ..
  | vopAnd => exact evolves_execVopAnd ..
  | vopOr => exact evolves_execVopOr ..
  | vopXor => exact evolves_execVopXor ..
  | vopShl => exact evolves_execVopShl ..
  | vopShr => exact evolves_execVopShr ..
  | vopZero => exact evolves_execVopZero ..
  | vfma => exact evolves_execVfma ..
  | vredSum => exact evolves_execVredSum ..
  | vredMax => exact evolves_execVredMax ..
  | vredMin => exact evolves_execVredMin ..
  | vcvt => exact evolves_execVcvt ..
  | vtabLoad => exact evolves_execVtabLoad ..
  | vtabEval => exact evolves_execVtabEval ..
  | vexp2 => exact evolves_execVexp2 ..
  | vmerge => exact evolves_execVmerge ..
  | vpoolMax => exact evolves_execVpoolMax ..
  | vpoolAvg => exact evolves_execVpoolAvg ..
  | vxpose => exact evolves_execVxpose ..
  | vsel => exact evolves_execVsel ..
  | vcmpEq => exact evolves_execVcmpEq ..
  | vcmpNe => exact evolves_execVcmpNe ..
  | vcmpLt => exact evolves_execVcmpLt ..
  | vcmpLe => exact evolves_execVcmpLe ..
  | vcmpGt => exact evolves_execVcmpGt ..
  | vcmpGe => exact evolves_execVcmpGe ..
  | budgetExhausted => exact evolves_execBudgetExhausted ..
  | tileSegPwr => exact evolves_execTileSegPwr ..
  | segmentPowerDown => exact evolves_execSegmentPowerDown ..
  | segmentReady => exact evolves_execSegmentReady ..
  | rowScrub => exact evolves_execRowScrub ..
  | berthStore => exact evolves_execBerthStore ..
  | berthIbuf => exact evolves_execBerthIbuf ..
  | berthOwner => exact evolves_execBerthOwner ..
  | berthHandle => exact evolves_execBerthHandle ..
  | berthZeroed => exact evolves_execBerthZeroed ..
  | berthImageLoaded => exact evolves_execBerthImageLoaded ..
  | dockOpen => exact evolves_execDockOpen ..
  | dockClose => exact evolves_execDockClose ..
  | dockRange => exact evolves_execDockRange ..
  | remoteWrite => exact evolves_execRemoteWrite ..
  | dockWriteLanded => exact evolves_execDockWriteLanded ..
  | eventArrival => exact evolves_execEventArrival ..
  | doorbell => exact evolves_execDoorbell ..
  | doorbellReread => exact evolves_execDoorbellReread ..
  | completionRingDoorbell => exact evolves_execCompletionRingDoorbell ..
  | placement => exact evolves_execPlacement ..
  | waybillStart => exact evolves_execWaybillStart ..
  | completionRecord => exact evolves_execCompletionRecord ..
  | dropSpan => exact evolves_execDropSpan ..
  | pageRelease => exact evolves_execPageRelease ..
  | tick => exact evolves_execTick ..
  | slotStart => exact evolves_execSlotStart ..
  | latestStart => exact evolves_execLatestStart ..
  | safetyRankEvaluation => exact evolves_execSafetyRankEvaluation ..
  | abortComplete => exact evolves_execAbortComplete ..
  | provingRun => exact evolves_execProvingRun ..
  | provingRunEnd => exact evolves_execProvingRunEnd ..
  | frameSyncEdge => exact evolves_execFrameSyncEdge ..
  | frameSyncStuck => exact evolves_execFrameSyncStuck ..
  | missingTick => exact evolves_execMissingTick ..
  | internalTick => exact evolves_execInternalTick ..
  | depotTick => exact evolves_execDepotTick ..
  | poLoad => exact evolves_execPoLoad ..
  | ppLoad => exact evolves_execPpLoad ..
  | openSeq => exact evolves_execOpenSeq ..
  | appendTokens => exact evolves_execAppendTokens ..
  | setEvictable => exact evolves_execSetEvictable ..
  | closeSeq => exact evolves_execCloseSeq ..
  | sessionOpen => exact evolves_execSessionOpen ..
  | sessionClose => exact evolves_execSessionClose ..
  | register => exact evolves_execRegister ..
  | rotate => exact evolves_execRotate ..
  | manifest => exact evolves_execManifest ..
  | rekeyPage => exact evolves_execRekeyPage ..
  | ilkRequest => exact evolves_execIlkRequest ..
  | plan => exact evolves_execPlan ..
  | check => exact evolves_execCheck ..
  | ilkLoad => exact evolves_execIlkLoad ..
  | loadComplete => exact evolves_execLoadComplete ..
  | checkComplete => exact evolves_execCheckComplete ..
  | checkStop => exact evolves_execCheckStop ..
  | timetablingAttempt => exact evolves_execTimetablingAttempt ..
  | planWatch => exact evolves_execPlanWatch ..
  | bufferStopComputed => exact evolves_execBufferStopComputed ..
  | ilkOwner => exact evolves_execIlkOwner ..
  | patrol => exact evolves_execPatrol ..
  | lineRewrite => exact evolves_execLineRewrite ..
  | chMigrated => exact evolves_execChMigrated ..
  | dramRefresh die channel bank => exact evolves_execDramRefresh die channel bank s
  | thermalSample => exact evolves_execThermalSample ..
  | driveReserveCopy => exact evolves_execDriveReserveCopy ..
  | compareMismatch => exact evolves_execCompareMismatch ..
  | recoveryPhaseEnd => exact evolves_execRecoveryPhaseEnd ..
  | phaseLate => exact evolves_execPhaseLate ..
  | verdict => exact evolves_execVerdict ..
  | spareFill => exact evolves_execSpareFill ..
  | injectionTest => exact evolves_execInjectionTest ..
  | selftestSegment => exact evolves_execSelftestSegment ..
  | diagnosticInterval => exact evolves_execDiagnosticInterval ..
  | islandStateWord => exact evolves_execIslandStateWord ..
  | heartbeatCheck => exact evolves_execHeartbeatCheck ..
  | clockCheck => exact evolves_execClockCheck ..
  | voltageSample => exact evolves_execVoltageSample ..
  | frameLost => exact evolves_execFrameLost ..
  | hostRead => exact evolves_execHostRead ..
  | hostWrite => exact evolves_execHostWrite ..
  | forwardedWrite => exact evolves_execForwardedWrite ..
  | modeRegisterWrite => exact evolves_execModeRegisterWrite ..
  | training => exact evolves_execTraining ..
  | hostRefresh => exact evolves_execHostRefresh ..
  | selfRefreshEntry => exact evolves_execSelfRefreshEntry ..
  | selfRefreshExit => exact evolves_execSelfRefreshExit ..
  | powerDownEntry => exact evolves_execPowerDownEntry ..
  | powerDownExit => exact evolves_execPowerDownExit ..
  | deepSleepEntry => exact evolves_execDeepSleepEntry ..
  | deepSleepExit => exact evolves_execDeepSleepExit ..
  | portReset => exact evolves_execPortReset ..
  | proxyRequest => exact evolves_execProxyRequest ..
  | proxyResponse => exact evolves_execProxyResponse ..
  | platIrqStat => exact evolves_execPlatIrqStat ..
  | completionHoldoff => exact evolves_execCompletionHoldoff ..
  | peerTraining => exact evolves_execPeerTraining ..
  | peerLost => exact evolves_execPeerLost ..
  | peerIrq => exact evolves_execPeerIrq ..
  | linkDown => exact evolves_execLinkDown ..
  | ptpSync => exact evolves_execPtpSync ..
  | join => exact evolves_execJoin ..
  | leave => exact evolves_execLeave ..
  | joinRequest => exact evolves_execJoinRequest ..
  | rosterUpdate => exact evolves_execRosterUpdate ..
  | heartbeatTimer => exact evolves_execHeartbeatTimer ..
  | heartbeat => exact evolves_execHeartbeat ..
  | acknowledgement => exact evolves_execAcknowledgement ..
  | seatDead => exact evolves_execSeatDead ..
  | convoyFence => exact evolves_execConvoyFence ..
  | leaseExpiry => exact evolves_execLeaseExpiry ..
  | leaveMessage => exact evolves_execLeaveMessage ..
  | standbyClaim => exact evolves_execStandbyClaim ..
  | leaderSelfFence => exact evolves_execLeaderSelfFence ..
  | caravanPacket => exact evolves_execCaravanPacket ..
  | retransmit => exact evolves_execRetransmit ..
  | acknowledgementOnly => exact evolves_execAcknowledgementOnly ..
  | bank => exact evolves_execBank ..
  | bankLost => exact evolves_execBankLost ..
  | bankLate => exact evolves_execBankLate ..
  | arm => exact evolves_execArm ..
  | freeSlot => exact evolves_execFreeSlot ..
  | setOwnerSlot => exact evolves_execSetOwnerSlot ..
  | revokeSlot => exact evolves_execRevokeSlot ..
  | advanceRollback => exact evolves_execAdvanceRollback ..
  | toField => exact evolves_execToField ..
  | toReturned => exact evolves_execToReturned ..
  | toScrapped => exact evolves_execToScrapped ..
  | drbgReseed => exact evolves_execDrbgReseed ..
  | trngFail => exact evolves_execTrngFail ..
  | porstNAssert => exact absurd rfl hc
  | porstNRelease => exact evolves_execPorstNRelease ..
  | startUpStepEnd => exact evolves_execStartUpStepEnd ..
  | startLate => exact evolves_execStartLate ..
  | warmReset => exact evolves_execWarmReset ..
  | warmResetRelease => exact evolves_execWarmResetRelease ..
  | viaductFrame => exact evolves_execViaductFrame ..
  | retry => exact evolves_execRetry ..
  | viaStorm => exact evolves_execViaStorm ..
  | brownout rail => exact evolves_execBrownout rail s
  | avsUpdate => exact evolves_execAvsUpdate ..
  | powerSample => exact evolves_execPowerSample ..
  | thermalTrip => exact evolves_execThermalTrip ..
  | flowSample => exact evolves_execFlowSample ..
  | coolingLost => exact evolves_execCoolingLost ..
  | agingMonitor => exact evolves_execAgingMonitor ..
  | errNext => exact evolves_execErrNext ..
  | errSticky => exact evolves_execErrSticky ..
  | errFirst => exact evolves_execErrFirst ..
  | errInject => exact evolves_execErrInject ..
  | hubTimeLo => exact evolves_execHubTimeLo ..
  | cntGo => exact evolves_execCntGo ..
  | cntLoRead => exact evolves_execCntLoRead ..
  | cntLoWrite => exact evolves_execCntLoWrite ..
  | counterWrap => exact evolves_execCounterWrap ..
  | monId => exact evolves_execMonId ..
  | monBaud => exact evolves_execMonBaud ..
  | monToken => exact evolves_execMonToken ..
  | monEnd => exact evolves_execMonEnd ..
  | monStat => exact evolves_execMonStat ..
  | monRd => exact evolves_execMonRd ..
  | monCnt => exact evolves_execMonCnt ..
  | monErr => exact evolves_execMonErr ..
  | monWr => exact evolves_execMonWr ..
  | monErrclr => exact evolves_execMonErrclr ..
  | monTest => exact evolves_execMonTest ..
  | monLoad => exact evolves_execMonLoad ..
  | monLoadTimeout => exact evolves_execMonLoadTimeout ..
  | monBoot => exact evolves_execMonBoot ..
  | monUnlock => exact evolves_execMonUnlock ..
  | registerWrite => exact evolves_execRegisterWrite ..
  | islandFault => exact evolves_execIslandFault ..
  | routerFault => exact evolves_execRouterFault ..
  | fabricFault die => exact evolves_execFabricFault die s
  | dramUe => exact evolves_execDramUe ..
  | slackFault => exact evolves_execSlackFault ..
  | linkUp => exact evolves_execLinkUp ..
  | ethernetFrame => exact evolves_execEthernetFrame ..
  | activate => exact evolves_execActivate ..
  | precharge => exact evolves_execPrecharge ..
  | tokenExpiry => exact evolves_execTokenExpiry ..
  | contextLoad => exact evolves_execContextLoad ..
  | testReport => exact evolves_execTestReport ..
  | sessionCloseZeroed => exact evolves_execSessionCloseZeroed ..
  | internalResetRelease => exact evolves_execInternalResetRelease ..

/-- The same of whatever state the command answers. -/
theorem evolves_of_exec {c : Instr} (hc : c ≠ .porstNAssert) {s t : State} (h : exec c s = .next t) : Evolves s t := by
  obtain ⟨u, hu, hev⟩ := exec_evolves hc s
  cases hu.symm.trans h
  exact hev

/-! ### Steps -/

theorem step_of_nil {s : State} (hp : s.pending = []) : step s = .next (idleTick s) := by
  rw [step, hp]

theorem step_of_cons {s : State} {c : Instr} {cs : List Instr} (hp : s.pending = c :: cs) :
    step s = exec c { s with pending := cs } := by
  rw [step, hp]

/-- PORST_N leaves the reset state with the waiting commands, the fuses and the boot flash as they were (R434). -/
theorem eq_of_step_porstNAssert {s t : State} {cs : List Instr} (hp : s.pending = .porstNAssert :: cs) (h : step s = .next t) :
    t = { State.reset with pending := cs, fuses := s.fuses, flash := s.flash, free := s.free } := by
  rw [step_of_cons hp] at h
  cases h
  rfl

/-- Without PORST_N at the front, a step does not take station time back (R35). -/
theorem now_le_of_step {s t : State} (hp : ∀ cs, s.pending ≠ .porstNAssert :: cs) (h : step s = .next t) : s.now ≤ t.now := by
  cases hq : s.pending with
  | nil =>
    rw [step_of_nil hq] at h
    cases h
    exact (evolves_idleTick s (Evolves.refl s)).now
  | cons c cs =>
    rw [step_of_cons hq] at h
    exact (evolves_of_exec (fun hc => hp cs (hc ▸ hq)) h).now

/-- Settles O55: every command but PORST_N continues `Evolves`, and PORST_N leaves the reset state but for the fuses and the flash. -/
theorem stationTimeNeverDecreases : Obligations.StationTimeNeverDecreases := by
  intro s t h
  refine ⟨?_, fun cs hp => ?_⟩
  · by_cases hp : ∃ cs, s.pending = .porstNAssert :: cs
    · exact .inr hp
    · exact .inl (now_le_of_step (not_exists.mp hp) h)
  · rw [eq_of_step_porstNAssert hp h]
    exact ⟨rfl, rfl, rfl, rfl, rfl, rfl, rfl⟩

end Sys2Proof.Proofs
end

section
/-! SUPPORT. What the islands' actions keep, and where the fault of an island or of the device ends (R333–R335). -/

namespace Sys2Proof.Proofs

open Sys2Proof Sys2Proof.Machine Sys2Proof.Claims

/-! ### What an action of the islands keeps -/

/-- Setting one bit clears no bit of any register. -/
theorem fld_setFld_one {s : State} {b j : Nat} (h : s.fld b j j = 1) (a : Nat) {i : Nat} (hi : i < 32) :
    (s.setFld a i i 1).fld b j j = 1 := by
  by_cases hb : b = a
  · subst hb
    by_cases hj : j = i
    · subst hj
      rw [fld_setFld_same _ _ _ (Nat.le_refl _) hi, Nat.add_sub_cancel_left, Nat.pow_one]
    · rw [fld_setFld_other _ _ _ (Nat.le_refl _) hi (by omega), h]
  · rw [fld_setFld_ne _ _ _ _ _ _ hb, h]

/-- Registers whose set bits the islands' actions leave set: the state of each island, and the sticky errors of the tick. -/
def keptRegs : List Nat := [pgIsl 0 + 0x100, pgIsl 1 + 0x100, pgTick + 0x20]

/-- What the actions of the islands keep: the islands' records, an asserted pin, and every set bit of `keptRegs`. -/
structure KeepsIslands (s t : State) : Prop where
  islA : t.safety.islA = s.safety.islA
  islB : t.safety.islB = s.safety.islB
  pinA : s.pins.safeA = true → t.pins.safeA = true
  pinB : s.pins.safeB = true → t.pins.safeB = true
  bits : ∀ a ∈ keptRegs, ∀ j, s.fld a j j = 1 → t.fld a j j = 1

theorem KeepsIslands.refl (s : State) : KeepsIslands s s := ⟨rfl, rfl, id, id, fun _ _ _ h => h⟩

theorem KeepsIslands.trans {s t u : State} (a : KeepsIslands s t) (b : KeepsIslands t u) : KeepsIslands s u :=
  ⟨b.islA.trans a.islA, b.islB.trans a.islB, fun h => b.pinA (a.pinA h), fun h => b.pinB (a.pinB h),
   fun r hr j h => b.bits r hr j (a.bits r hr j h)⟩

theorem KeepsIslands.forEach {α : Type} {f : State → α → State} (hf : ∀ v x, KeepsIslands v (f v x)) (l : List α) (s : State) :
    KeepsIslands s (forEach l s f) := by
  induction l generalizing s with
  | nil => exact KeepsIslands.refl s
  | cons x l ih => exact (hf s x).trans (ih (f s x))

theorem KeepsIslands.islandOk {s t : State} (h : KeepsIslands s t) (x : Side) : t.islandOk x = s.islandOk x := by
  cases x with
  | a => exact congrArg (fun i : Island => !i.faulty) h.islA
  | b => exact congrArg (fun i : Island => !i.faulty) h.islB

theorem keepsIslands_of_eq {s t : State} (hsafety : t.safety = s.safety) (hpins : t.pins = s.pins) (hregs : t.regs = s.regs)
    (hfuses : t.fuses = s.fuses) : KeepsIslands s t :=
  ⟨by rw [hsafety], by rw [hsafety], by rw [hpins]; exact id, by rw [hpins]; exact id,
   fun a _ j h => (fld_congr hregs hfuses a j j).trans h⟩

theorem keepsIslands_ite {s t u : State} {c : Prop} [Decidable c] (ht : KeepsIslands s t) (hu : KeepsIslands s u) :
    KeepsIslands s (if c then t else u) := by
  split <;> assumption

theorem keepsIslands_setReg (s : State) {a : Nat} (ha : a ∉ keptRegs) (w : Word) : KeepsIslands s (s.setReg a w) :=
  ⟨rfl, rfl, id, id, fun r hr j h => by rw [fld_setReg_ne _ _ _ _ (fun e : r = a => ha (e ▸ hr)), h]⟩

theorem keepsIslands_setBit (s : State) (a : Nat) {i : Nat} (hi : i < 32) : KeepsIslands s (s.setFld a i i 1) :=
  ⟨rfl, rfl, id, id, fun _ _ _ h => fld_setFld_one h a hi⟩

theorem keepsIslands_updPort (s : State) (p : Nat) (f : Port → Port) : KeepsIslands s (s.updPort p f) := keepsIslands_of_eq rfl rfl rfl rfl

theorem keepsIslands_write (s : State) (a : Nat) (bs : List Byte) : KeepsIslands s (s.write a bs) := keepsIslands_of_eq rfl rfl rfl rfl

theorem keepsIslands_recordErr_safety (s : State) (code : Nat) : KeepsIslands s (s.recordErr pgSafety code) := by
  have hqueue (u : State) : KeepsIslands u (u.queueErr pgSafety code noUnit) :=
    keepsIslands_of_eq (State.queueErr_safety ..) (State.queueErr_pins ..) (State.queueErr_regs ..) (State.queueErr_fuses ..)
  unfold State.recordErr
  extract_lets s1 s2
  have hcount : KeepsIslands s s1 := (keepsIslands_setReg s (by decide) _).trans (keepsIslands_setBit _ _ (by omega))
  have hfirst : KeepsIslands s1 s2 := keepsIslands_ite (keepsIslands_setReg s1 (by decide) _) (.refl s1)
  exact (hcount.trans hfirst).trans (hqueue s2)

theorem keepsIslands_noticeTo (s : State) {p : Nat} (hp : pgPlat p + 0x114 ∉ keptRegs) (ty code tenant arg : Nat) :
    KeepsIslands s (s.noticeTo p ty code tenant arg) := by
  unfold State.noticeTo
  extract_lets k a phase rec0 s1
  have hring : KeepsIslands s s1 := (keepsIslands_write s a rec0).trans (keepsIslands_updPort _ p _)
  exact (hring.trans (keepsIslands_setReg s1 hp _)).trans (keepsIslands_setBit _ (pgPlat p + 0x108) (i := 0) (by omega))

theorem keepsIslands_notice (s : State) (ty code tenant arg : Nat) : KeepsIslands s (s.notice ty code tenant arg) :=
  (keepsIslands_noticeTo s (by decide) ..).trans (keepsIslands_noticeTo _ (by decide) ..)

theorem keepsIslands_assertPin (s : State) (x : Side) : KeepsIslands s (s.assertPin x) := by
  have hbit := keepsIslands_setBit s (pgIsl (State.sideNo x) + 0x100) (i := 3) (by omega)
  cases x with
  | a => exact ⟨rfl, rfl, fun _ => rfl, id, hbit.bits⟩
  | b => exact ⟨rfl, rfl, id, fun _ => rfl, hbit.bits⟩

theorem keepsIslands_assertBoth (s : State) : KeepsIslands s s.assertBoth :=
  (keepsIslands_assertPin s .a).trans (keepsIslands_assertPin _ .b)

theorem keepsIslands_logIsland (s : State) (x : Side) (code act : Nat) : KeepsIslands s (s.logIsland x code act) := by
  have h {k : Nat} (hk : pgIsl (State.sideNo x) + k ∉ keptRegs) (u : State) (w : Word) := keepsIslands_setReg u hk w
  unfold State.logIsland
  split
  · exact (h (by cases x <;> decide) ..).trans ((h (by cases x <;> decide) ..).trans (h (by cases x <;> decide) ..))
  · exact KeepsIslands.refl s

theorem keepsIslands_logIslands (s : State) (code act : Nat) : KeepsIslands s (s.logIslands code act) :=
  (keepsIslands_logIsland s .a code act).trans (keepsIslands_logIsland _ .b code act)

theorem keepsIslands_safeHold (s : State) (code : Nat) : KeepsIslands s (s.safeHold code) := by
  obtain ⟨hislA, hislB, hpinA, hpinB, hbits⟩ := (keepsIslands_logIslands s code 2).trans (keepsIslands_assertBoth _)
  exact ⟨hislA, hislB, hpinA, hpinB, hbits⟩

theorem keepsIslands_driveGpio (s : State) (ev : Nat) : KeepsIslands s (s.driveGpio ev) := ⟨rfl, rfl, id, id, fun _ _ _ h => h⟩

theorem keepsIslands_islandAct (s : State) (ev code : Nat) (own safetyRank : Bool) :
    KeepsIslands s (s.islandAct ev code own safetyRank) := by
  have hnotify := (keepsIslands_logIslands s code 1).trans (keepsIslands_driveGpio _ ev)
  unfold State.islandAct
  split
  · exact keepsIslands_logIslands s code 0
  · split
    · exact keepsIslands_safeHold s code
    · dsimp only
      split
      · exact hnotify
      · exact hnotify.trans (keepsIslands_notice ..)

theorem keepsIslands_stopTile (s : State) (t : Nat) : KeepsIslands s (s.stopTile t) := keepsIslands_of_eq rfl rfl rfl rfl

theorem keepsIslands_quench (s : State) : KeepsIslands s s.quench := by
  unfold State.quench
  extract_lets s1
  have htiles : KeepsIslands s s1 := .forEach (fun v t => keepsIslands_ite (keepsIslands_stopTile v t) (.refl v)) _ _
  exact htiles.trans (keepsIslands_of_eq (s := s1) rfl rfl rfl rfl)

theorem keepsIslands_warmStop (s : State) : KeepsIslands s s.warmStop := by
  unfold State.warmStop
  extract_lets s1 s2 s3
  have htiles : KeepsIslands s s1 := .forEach (fun v t => keepsIslands_ite (keepsIslands_stopTile v t) (.refl v)) _ _
  have hstacks : KeepsIslands s1 s2 := .forEach (fun v _ => keepsIslands_setBit v _ (by omega)) _ _
  have hports : KeepsIslands s2 s3 := .forEach (fun v p => keepsIslands_updPort v p _) _ _
  clear_value s1 s2 s3
  exact ((htiles.trans hstacks).trans hports).trans (keepsIslands_of_eq (s := s3) rfl rfl rfl rfl)

theorem keepsIslands_safeReset (s : State) (code : Nat) : KeepsIslands s (s.safeReset code) := by
  unfold State.safeReset
  split
  · extract_lets s1
    have hstop : KeepsIslands s s1 :=
      ((keepsIslands_logIslands s code 3).trans (keepsIslands_assertBoth _)).trans (keepsIslands_warmStop _)
    clear_value s1
    exact hstop.trans (keepsIslands_of_eq (s := s1) rfl rfl rfl rfl)
  · exact keepsIslands_assertBoth s

theorem keepsIslands_handOver (s : State) : KeepsIslands s s.handOver := by
  unfold State.handOver
  extract_lets other s1 s2
  split
  · exact keepsIslands_safeReset s _
  · have hflags : KeepsIslands s s1 :=
      (keepsIslands_setReg s (a := pgSafety + 0x130) (by decide) _).trans (keepsIslands_setBit _ (pgSafety + 0x100) (i := 3) (by omega))
    have hquench : KeepsIslands s1 s2 := (keepsIslands_setReg s1 (a := pgSafety + 0x100) (by decide) _).trans (keepsIslands_quench _)
    obtain ⟨hislA, hislB, hpinA, hpinB, hbits⟩ := hflags.trans hquench
    exact ⟨hislA, hislB, hpinA, hpinB, hbits⟩

theorem keepsIslands_escalate (s : State) : KeepsIslands s s.escalate :=
  (keepsIslands_recordErr_safety s _).trans (keepsIslands_handOver _)

/-! ### SAFE_HOLD and SAFE_RESET -/

theorem pins_safeHold (s : State) (code : Nat) : (s.safeHold code).pins.safeA = true ∧ (s.safeHold code).pins.safeB = true := ⟨rfl, rfl⟩

theorem hold_warmStop (s : State) : s.warmStop.start.hold = .warm := by
  unfold State.warmStop
  extract_lets s1 s2 s3
  rfl

/-- SAFE_RESET of a device in service (R334). -/
theorem wasReset_safeReset {s : State} (hl : s.live = true) (code : Nat) : wasReset (s.safeReset code) := by
  rw [State.safeReset, if_pos hl]
  extract_lets s1
  have hstop : KeepsIslands (s.logIslands code 3).assertBoth s1 := keepsIslands_warmStop _
  have hhold : s1.start.hold = .warm := hold_warmStop _
  clear_value s1
  exact ⟨hstop.pinA rfl, hstop.pinB rfl, hhold, rfl⟩

theorem live_recordErr (s : State) (page code : Nat) : (s.recordErr page code).live = s.live := by
  rw [State.live, State.live, State.recordErr_start]

theorem islandOk_recordErr (s : State) (page code : Nat) (x : Side) : (s.recordErr page code).islandOk x = s.islandOk x := by
  cases x <;> simp [State.islandOk, State.island]

theorem wasReset_deviceFault {s : State} (hl : s.live = true) (page code : Nat) : wasReset (s.deviceFault page code) :=
  wasReset_safeReset ((live_recordErr ..).trans hl) code

/-! ### An island that becomes faulty -/

/-- The island stops and asserts its pin, and its link to the other island is down (R333, R334). -/
def islandStops (s : State) (x : Side) : State :=
  ((s.setIsland x { s.island x with faulty := true }).setFld (pgIsl (State.sideNo (otherSide x)) + 0x100) 2 2 0).assertPin x

theorem islandOk_islandStops_self (s : State) (x : Side) : (islandStops s x).islandOk x = false := by
  cases x <;> rfl

theorem islandOk_islandStops_other (s : State) (x : Side) : (islandStops s x).islandOk (otherSide x) = s.islandOk (otherSide x) := by
  cases x <;> rfl

theorem live_islandStops (s : State) (x : Side) : (islandStops s x).live = s.live := by
  cases x <;> rfl

theorem pin_islandStops (s : State) (x : Side) : (x = .a → (islandStops s x).pins.safeA = true) ∧ (x = .b → (islandStops s x).pins.safeB = true) := by
  cases x with
  | a => exact ⟨fun _ => rfl, nofun⟩
  | b => exact ⟨nofun, fun _ => rfl⟩

theorem pinBit_islandStops (s : State) (x : Side) : (islandStops s x).fld (pgIsl (State.sideNo x) + 0x100) 3 3 = 1 := by
  cases x <;> exact fld_setFld_same _ _ 1 (Nat.le_refl _) (by omega)

/-- The last island's fault resets the device (R333). -/
theorem islandGone_alone {s : State} {x : Side} (hx : s.islandOk x = true) (ho : s.islandOk (otherSide x) = false) :
    s.islandGone x = (islandStops s x).safeReset 0x5E03 := by
  have hstop : (islandStops s x).islandOk (otherSide x) = false := (islandOk_islandStops_other s x).trans ho
  unfold islandStops at hstop
  simp [State.islandGone, islandStops, hx, hstop]

/-- Whatever the survivor does about it, the fault itself stays (R333, R328). -/
theorem keepsIslands_islandGone {s : State} {x : Side} (hx : s.islandOk x = true) : KeepsIslands (islandStops s x) (s.islandGone x) := by
  have hact (u : State) := (keepsIslands_notice u 7 0 0 (State.sideNo x)).trans (keepsIslands_islandAct _ State.evIslandLost 0x5E03 false false)
  unfold State.islandGone
  rw [if_neg (by simp [hx])]
  extract_lets i s1 s2 s3
  have hs3 : KeepsIslands s2 s3 := hact s2
  change KeepsIslands s2 _
  clear_value s3
  split
  · exact keepsIslands_safeReset s2 _
  · split
    · exact hs3.trans (keepsIslands_escalate s3)
    · exact hs3

theorem islandOk_islandGone_self (s : State) (x : Side) : (s.islandGone x).islandOk x = false := by
  cases hx : s.islandOk x with
  | true => rw [(keepsIslands_islandGone hx).islandOk, islandOk_islandStops_self]
  | false => simp [State.islandGone, hx]

theorem islandFails_of_ok {s : State} {x : Side} (hx : s.islandOk x = true) :
    s.islandFails x = (s.recordErr pgSafety 0x5E03).islandGone x := if_pos hx

theorem islandOk_islandFails_self (s : State) (x : Side) : (s.islandFails x).islandOk x = false := by
  cases hx : s.islandOk x with
  | true => rw [islandFails_of_ok hx, islandOk_islandGone_self]
  | false => rw [State.islandFails, if_neg (by simp [hx]), hx]

theorem keepsIslands_islandFails {s : State} {x : Side} (hx : s.islandOk x = true) :
    KeepsIslands (islandStops (s.recordErr pgSafety 0x5E03) x) (s.islandFails x) := by
  rw [islandFails_of_ok hx]
  exact keepsIslands_islandGone ((islandOk_recordErr ..).trans hx)

theorem islandOk_islandFails_other {s : State} {x : Side} (hx : s.islandOk x = true) :
    (s.islandFails x).islandOk (otherSide x) = s.islandOk (otherSide x) := by
  rw [(keepsIslands_islandFails hx).islandOk, islandOk_islandStops_other, islandOk_recordErr]

theorem wasReset_islandFails {s : State} {x : Side} (hl : s.live = true) (hx : s.islandOk x = true) (ho : s.islandOk (otherSide x) = false) :
    wasReset (s.islandFails x) := by
  rw [islandFails_of_ok hx, islandGone_alone ((islandOk_recordErr ..).trans hx) ((islandOk_recordErr ..).trans ho)]
  exact wasReset_safeReset ((live_islandStops ..).trans ((live_recordErr ..).trans hl)) _

end Sys2Proof.Proofs
end

section
/-! SUPPORT. What each island command finds and does: faults, state words, heartbeats, clocks, rails and frames (R34, R333–R335). -/

namespace Sys2Proof.Proofs

open Sys2Proof Sys2Proof.Machine Sys2Proof.Claims

/-! ### The islands' counts -/

@[simp] theorem missRun_true (n : Nat) : missRun true n = 0 := rfl

theorem missRun_false_of_lt {n : Nat} (h : n < 3) : missRun false n = n + 1 := by
  simp [missRun]
  omega

theorem missRun_false_of_le {n : Nat} (h : 2 ≤ n) : missRun false n = 3 := by
  simp [missRun]
  omega

/-- A change of both islands' records reaches the healthy ones, and nothing else. -/
theorem updIslands_eq (s : State) (f g : Island → Island) : (s.updIsland .a f).updIsland .b g =
    { s with safety := { s.safety with
        islA := if s.islandOk .a then f s.safety.islA else s.safety.islA
        islB := if s.islandOk .b then g s.safety.islB else s.safety.islB } } := by
  have hB : (s.updIsland .a f).islandOk .b = s.islandOk .b := by
    unfold State.updIsland
    split <;> rfl
  rw [State.updIsland, hB]
  unfold State.updIsland
  cases s.islandOk .a <;> cases s.islandOk .b <;> rfl

/-- A command that works on a live device: what it does there. -/
theorem answers_of_live {c : Instr} {s u : State} {P : State → Prop} (hl : s.live = true) (h : P u)
    (hc : exec c s = .next (if s.live = true then u else s)) : Answers c s P :=
  ⟨u, by rw [hc, if_pos hl], h⟩

theorem island_updIslands (s : State) (f : Island → Island) (x : Side) :
    ((s.updIsland .a f).updIsland .b f).island x = if s.islandOk x then f (s.island x) else s.island x := by
  rw [updIslands_eq]
  cases x <;> rfl

/-! ### Faults of an island (R333, R334) -/

theorem answers_islandFault {s : State} (hl : s.live = true) {x : Side} {P : State → Prop} (h : P (s.islandFails x)) :
    Answers (.islandFault x) s P :=
  answers_whenLive (f := fun s => s.islandFails x) rfl hl h

theorem pgIsl_mem_keptRegs (x : Side) : pgIsl (State.sideNo x) + 0x100 ∈ keptRegs := by
  cases x <;> decide

/-- A faulty island has asserted its pin and supervises no more; the other one does. -/
theorem islandFault_leaves_survivor {s : State} (hl : s.live = true) {x : Side} (hx : s.islandOk x = true) (ho : s.islandOk (otherSide x) = true) :
    Answers (.islandFault x) s (fun t => t.islandOk x = false ∧ t.islandOk (otherSide x) = true ∧
      t.fld (pgIsl (State.sideNo x) + 0x100) 3 3 = 1 ∧ (x = .a → t.pins.safeA = true) ∧ (x = .b → t.pins.safeB = true)) := by
  have hkeep := keepsIslands_islandFails hx
  have hpin := pin_islandStops (s.recordErr pgSafety 0x5E03) x
  refine answers_islandFault hl ⟨islandOk_islandFails_self s x, (islandOk_islandFails_other hx).trans ho, ?_, ?_, ?_⟩
  · exact hkeep.bits _ (pgIsl_mem_keptRegs x) 3 (pinBit_islandStops _ x)
  · exact fun ha => hkeep.pinA (hpin.1 ha)
  · exact fun hb => hkeep.pinB (hpin.2 hb)

/-! ### State words (R333) -/

/-- ISLAND_STATE_WORD's counts of missed words, and the links that the islands see. -/
def wordsCounted (s : State) (fromA fromB : Bool) : State :=
  [Side.a, Side.b].foldl (fun s x => if s.islandOk x && s.fld (pgIsl (State.sideNo x) + 0x100) 1 0 ≠ 0 then
      s.setFld (pgIsl (State.sideNo x) + 0x100) 2 2 (b2n (if x = .a then fromB else fromA)) else s)
    ((s.updIsland .a (fun i => { i with peerMissed := missRun fromB i.peerMissed })).updIsland .b
      (fun i => { i with peerMissed := missRun fromA i.peerMissed }))

/-- The verdicts on the counts: three missed words make their sender faulty. -/
def wordsJudged (s : State) : State :=
  let s2 := if s.islandOk .a && s.safety.islA.peerMissed = 3 then s.islandFails .b else s
  if s.islandOk .b && s.safety.islB.peerMissed = 3 then s2.islandFails .a else s2

theorem answers_islandStateWord {s : State} (hl : s.live = true) {fromA fromB : Bool} {P : State → Prop}
    (h : P (wordsJudged (wordsCounted s fromA fromB))) : Answers (.islandStateWord fromA fromB) s P :=
  answers_whenLive (f := fun s => wordsJudged (wordsCounted s fromA fromB)) rfl hl h

theorem safety_wordsCounted {s : State} (hA : s.islandOk .a = true) (hB : s.islandOk .b = true) (fromA fromB : Bool) :
    (wordsCounted s fromA fromB).safety = { s.safety with
      islA := { s.safety.islA with peerMissed := missRun fromB s.safety.islA.peerMissed }
      islB := { s.safety.islB with peerMissed := missRun fromA s.safety.islB.peerMissed } } := by
  refine (State.foldl_keeps (fun v => v.safety) _ _ fun v x => ?_).trans ?_
  · split <;> rfl
  · rw [updIslands_eq, hA, hB]
    rfl

theorem islandOk_wordsCounted {s : State} (hA : s.islandOk .a = true) (hB : s.islandOk .b = true) (fromA fromB : Bool) (x : Side) :
    (wordsCounted s fromA fromB).islandOk x = true := by
  cases x with
  | a => simpa [State.islandOk, State.island, safety_wordsCounted hA hB] using hA
  | b => simpa [State.islandOk, State.island, safety_wordsCounted hA hB] using hB

theorem wordsJudged_of_few {s : State} (hA : s.safety.islA.peerMissed ≠ 3) (hB : s.safety.islB.peerMissed ≠ 3) : wordsJudged s = s := by
  simp [wordsJudged, hA, hB]

theorem wordsJudged_of_missing_b {s : State} (hok : s.islandOk .a = true) (hA : s.safety.islA.peerMissed = 3) (hB : s.safety.islB.peerMissed ≠ 3) :
    wordsJudged s = s.islandFails .b := by
  simp [wordsJudged, hok, hA, hB]

/-- Neither word came, and neither is the third in a row. -/
theorem islandStateWord_counts {s : State} (hl : s.live = true) (hokA : s.islandOk .a = true) (hokB : s.islandOk .b = true)
    (hA : s.safety.islA.peerMissed < 2) (hB : s.safety.islB.peerMissed < 2) :
    Answers (.islandStateWord false false) s (fun t => t.islandOk .a = true ∧ t.islandOk .b = true ∧
      t.safety.islA.peerMissed = s.safety.islA.peerMissed + 1 ∧ t.safety.islB.peerMissed = s.safety.islB.peerMissed + 1) := by
  have hsafety := safety_wordsCounted hokA hokB false false
  have hmissA : (wordsCounted s false false).safety.islA.peerMissed = s.safety.islA.peerMissed + 1 := by
    rw [hsafety, ← missRun_false_of_lt (by omega)]
  have hmissB : (wordsCounted s false false).safety.islB.peerMissed = s.safety.islB.peerMissed + 1 := by
    rw [hsafety, ← missRun_false_of_lt (by omega)]
  refine answers_islandStateWord hl ?_
  rw [wordsJudged_of_few (by omega) (by omega)]
  exact ⟨islandOk_wordsCounted hokA hokB .., islandOk_wordsCounted hokA hokB .., hmissA, hmissB⟩

/-- The third word of B in a row that A misses. -/
theorem islandStateWord_third_miss {s : State} (hl : s.live = true) (hokA : s.islandOk .a = true) (hokB : s.islandOk .b = true)
    (hA : 2 ≤ s.safety.islA.peerMissed) :
    Answers (.islandStateWord true false) s (fun t => t.islandOk .a = true ∧ t.islandOk .b = false) := by
  have hok := islandOk_wordsCounted hokA hokB true false
  have hsafety := safety_wordsCounted hokA hokB true false
  have hmissA : (wordsCounted s true false).safety.islA.peerMissed = 3 := by rw [hsafety, ← missRun_false_of_le hA]
  have hmissB : (wordsCounted s true false).safety.islB.peerMissed ≠ 3 := by simp [hsafety]
  refine answers_islandStateWord hl ?_
  rw [wordsJudged_of_missing_b (hok .a) hmissA hmissB]
  exact ⟨(islandOk_islandFails_other (hok .b)).trans (hok .a), islandOk_islandFails_self _ .b⟩

/-! ### Heartbeats (R333) -/

/-- HEARTBEAT_CHECK's change of an island's record. -/
def beatCount (hubA hubB : Bool) (i : Island) : Island :=
  { i with beatMissedA := missRun hubA i.beatMissedA, beatMissedB := missRun hubB i.beatMissedB }

/-- A healthy island has missed three heartbeats of a hub in a row. -/
def beatsLost (s : State) : Bool :=
  [Side.a, Side.b].any (fun x => s.islandOk x && ((s.island x).beatMissedA = 3 || (s.island x).beatMissedB = 3))

/-- The verdict on the counts and on the dispatcher's progress. -/
def beatsJudged (s : State) : State := if beatsLost s || s.progressMissing then s.deviceFault pgSafety 0x5E01 else s

theorem answers_heartbeatCheck {s : State} (hl : s.live = true) {hubA hubB : Bool} {P : State → Prop}
    (h : P (beatsJudged ((s.updIsland .a (beatCount hubA hubB)).updIsland .b (beatCount hubA hubB)))) :
    Answers (.heartbeatCheck hubA hubB) s P :=
  answers_of_live hl h rfl

theorem live_updIslands (s : State) (f g : Island → Island) : ((s.updIsland .a f).updIsland .b g).live = s.live := by
  rw [updIslands_eq]
  rfl

theorem progressMissing_updIslands (s : State) (f g : Island → Island) :
    ((s.updIsland .a f).updIsland .b g).progressMissing = s.progressMissing := by
  rw [updIslands_eq]
  rfl

theorem islandOk_updIslands (s : State) {f : Island → Island} (hf : ∀ i, (f i).faulty = i.faulty) (x : Side) :
    ((s.updIsland .a f).updIsland .b f).islandOk x = s.islandOk x := by
  rw [State.islandOk, island_updIslands]
  split
  · rw [hf, State.islandOk]
  · rw [State.islandOk]

/-- What a healthy island has counted. -/
theorem island_beats {s : State} {x : Side} (hx : s.islandOk x = true) (hubA hubB : Bool) :
    ((s.updIsland .a (beatCount hubA hubB)).updIsland .b (beatCount hubA hubB)).island x = beatCount hubA hubB (s.island x) := by
  rw [island_updIslands, if_pos hx]

theorem islandOk_beats (s : State) (hubA hubB : Bool) (x : Side) :
    ((s.updIsland .a (beatCount hubA hubB)).updIsland .b (beatCount hubA hubB)).islandOk x = s.islandOk x :=
  islandOk_updIslands s (f := beatCount hubA hubB) (fun _ => rfl) x

/-- Both hubs' heartbeats came: no healthy island counts a miss. -/
theorem beatsLost_of_beats (s : State) : beatsLost ((s.updIsland .a (beatCount true true)).updIsland .b (beatCount true true)) = false := by
  refine List.any_eq_false.mpr fun x _ => ?_
  rw [islandOk_beats]
  cases hx : s.islandOk x with
  | true => simp [island_beats hx, beatCount]
  | false => simp

theorem heartbeatCheck_third_miss {s : State} (hl : s.live = true) (hA : s.islandOk .a = true) (hmiss : s.safety.islA.beatMissedA = 2) :
    Answers (.heartbeatCheck false true) s wasReset := by
  have h3 : missRun false (s.island .a).beatMissedA = 3 := missRun_false_of_le (Nat.le_of_eq hmiss.symm)
  have hlost : beatsLost ((s.updIsland .a (beatCount false true)).updIsland .b (beatCount false true)) = true := by
    refine List.any_eq_true.mpr ⟨.a, List.mem_cons_self, ?_⟩
    simp [islandOk_beats, hA, island_beats hA, beatCount, h3]
  refine answers_heartbeatCheck hl ?_
  rw [beatsJudged, if_pos (by rw [hlost, Bool.true_or])]
  exact wasReset_deviceFault ((live_updIslands ..).trans hl) _ _

theorem heartbeatCheck_progress {s : State} (hl : s.live = true) (hA : s.islandOk .a = true) (hp : s.progressMissing = false) :
    Answers (.heartbeatCheck true true) s (fun t => t.safety.islA.beatMissedA = 0 ∧ t.safety.islA.beatMissedB = 0 ∧ t.start = s.start) := by
  refine answers_heartbeatCheck hl ?_
  rw [beatsJudged, if_neg (by rw [beatsLost_of_beats, progressMissing_updIslands, hp]; decide), updIslands_eq, hA]
  exact ⟨rfl, rfl, rfl⟩

/-- A missing progress report is a dispatcher fault of Hub A (log entry 50). -/
theorem heartbeatCheck_no_progress {s : State} (hl : s.live = true) (hp : s.progressMissing = true) :
    Answers (.heartbeatCheck true true) s wasReset := by
  refine answers_heartbeatCheck hl ?_
  rw [beatsJudged, if_pos (by rw [progressMissing_updIslands, hp, Bool.or_true])]
  exact wasReset_deviceFault ((live_updIslands ..).trans hl) _ _

/-! ### Clocks (R34) -/

theorem answers_clockCheck {s : State} (hl : s.live = true) {c a b : Int} {P : State → Prop}
    (h : P (if clocksAgree a b && !clocksAgree c a && !clocksAgree c b then s.deviceFault pgTick 0x5901
      else if clocksAgree c b && !clocksAgree c a && !clocksAgree a b then (s.recordErr pgTick 0x5902).islandFails .a
      else if clocksAgree c a && !clocksAgree c b && !clocksAgree a b then (s.recordErr pgTick 0x5902).islandFails .b
      else s)) : Answers (.clockCheck c a b) s P :=
  answers_of_live hl h rfl

theorem clockCheck_refclk {s : State} (hl : s.live = true) {c a b : Int} (hab : clocksAgree a b = true) (hca : clocksAgree c a = false)
    (hcb : clocksAgree c b = false) : Answers (.clockCheck c a b) s wasReset := by
  refine answers_clockCheck hl ?_
  simp only [hab, hca, hcb]
  exact wasReset_deviceFault hl _ _

theorem clockCheck_oscA {s : State} (hl : s.live = true) {c a b : Int} (hcb : clocksAgree c b = true) (hca : clocksAgree c a = false)
    (hab : clocksAgree a b = false) : Answers (.clockCheck c a b) s (fun t => t.islandOk .a = false) := by
  refine answers_clockCheck hl ?_
  simp only [hab, hca, hcb]
  exact islandOk_islandFails_self _ .a

theorem clockCheck_oscB {s : State} (hl : s.live = true) {c a b : Int} (hca : clocksAgree c a = true) (hcb : clocksAgree c b = false)
    (hab : clocksAgree a b = false) : Answers (.clockCheck c a b) s (fun t => t.islandOk .b = false) := by
  refine answers_clockCheck hl ?_
  simp only [hab, hca, hcb]
  exact islandOk_islandFails_self _ .b

theorem clockCheck_agreed {s : State} (hl : s.live = true) {c a b : Int} (hca : clocksAgree c a = true) (hcb : clocksAgree c b = true) :
    Answers (.clockCheck c a b) s (fun t => t = s) := by
  refine answers_clockCheck hl ?_
  simp [hca, hcb]

/-! ### Rails (R333, R440) -/

/-- VOLTAGE_SAMPLE's count of a rail's readings outside its window. -/
def railCount (s : State) (rail mv : Nat) (i : Island) : Island :=
  { i with railsOut := if s.railOut rail mv then smPut i.railsOut rail (min 3 (smGet i.railsOut 0 rail + 1)) else smErase i.railsOut rail }

/-- Calmi A's record counts a reading. -/
def railCounted (s : State) (rail mv : Nat) : State := s.setIsland .a (railCount s rail mv s.safety.islA)

/-- A sample of rail 1 alone, which is on Calmi A's bus: its third reading out of the window resets the device. -/
theorem answers_voltageSample_rail1 {s : State} (hl : s.live = true) (hA : s.islandOk .a = true) {mv : Nat} {P : State → Prop}
    (h : P (if smGet (railCounted s 1 mv).safety.islA.railsOut 0 1 = 3 then (railCounted s 1 mv).deviceFault pgSafety 0x5807
      else railCounted s 1 mv)) : Answers (.voltageSample .a [(1, mv)]) s P := by
  refine answers_of_live hl h ?_
  have hcount : s.updIsland .a (railCount s 1 mv) = railCounted s 1 mv := if_pos hA
  show execVoltageSample .a [(1, mv)] s = _
  rw [execVoltageSample, whenLive]
  congr 2
  rw [if_neg (by simp [hA])]
  extract_lets mine s1 bad s2
  rw [← show s1 = railCounted s 1 mv from hcount]
  have hbad : bad = (([(1, mv)] : List (Nat × Nat)).filter (fun r => smGet s1.safety.islA.railsOut 0 r.1 = 3)).map (·.1) := rfl
  clear_value s1
  by_cases h3 : smGet s1.safety.islA.railsOut 0 1 = 3
  · have hone : bad = [1] := by simp [hbad, h3]
    rw [if_pos h3, hone]
    rfl
  · have hnone : bad = [] := by simp [hbad, h3]
    simp [s2, h3, hnone]

theorem voltageSample_inside {s : State} (hl : s.live = true) (hA : s.islandOk .a = true) {mv : Nat} (hin : s.railOut 1 mv = false)
    (hsorted : smSorted s.safety.islA.railsOut = true) :
    Answers (.voltageSample .a [(1, mv)]) s (fun t => smFind t.safety.islA.railsOut 1 = none ∧ t.start = s.start) := by
  have hnone : smFind (railCount s 1 mv s.safety.islA).railsOut 1 = none := by simp [railCount, hin, smFind_smErase_same 1 hsorted]
  refine answers_voltageSample_rail1 hl hA ?_
  rw [if_neg (by simp [smGet, railCounted, State.setIsland, hnone])]
  exact ⟨hnone, rfl⟩

theorem voltageSample_third_out {s : State} (hl : s.live = true) (hA : s.islandOk .a = true) {mv : Nat} (hout : s.railOut 1 mv = true)
    (hn : 2 ≤ smGet s.safety.islA.railsOut 0 1) : Answers (.voltageSample .a [(1, mv)]) s wasReset := by
  have h3 : smGet (railCounted s 1 mv).safety.islA.railsOut 0 1 = 3 := by
    simp [railCounted, State.setIsland, railCount, hout]
    omega
  refine answers_voltageSample_rail1 hl hA ?_
  rw [if_pos h3]
  exact wasReset_deviceFault (s := railCounted s 1 mv) hl _ _

/-! ### Lost frames (R333, R335) -/

theorem islandAct_safeHold {s : State} {ev : Nat} (code : Nat) {own safetyRank : Bool} (hs : s.service ≠ 2)
    (ha : s.tableAction ev safetyRank = .safeHold) : s.islandAct ev code own safetyRank = s.safeHold code := by
  rw [State.islandAct, if_neg hs, ha]

theorem service_recordErr_tick (s : State) (code : Nat) : (s.recordErr pgTick code).service = s.service :=
  fld_of_regsBut (regsBut_recordErr s pgTick code noUnit) (by decide) 1 0

theorem answers_frameLost {s : State} (hl : s.live = true) {P : State → Prop}
    (h : P (if s.service ≠ 1 || s.disp.tt.isNone || decide (s.now ≤ s.disp.frameStart + 2 * s.framePeriod) then s
      else (s.recordErr pgTick 0x5904).islandAct State.evFrameLost 0x5904)) : Answers .frameLost s P :=
  answers_of_live hl h rfl

theorem frameLost_acts {s : State} (hl : s.live = true) (hservice : s.service = 1) (htt : s.disp.tt.isSome = true)
    (hlate : s.disp.frameStart + 2 * s.framePeriod < s.now) :
    Answers .frameLost s (fun t => stuck t pgTick 0x5904 ∧
      (smFind s.safety.actions State.evFrameLost = none → t.pins.safeA = true ∧ t.pins.safeB = true)) := by
  have hlost : (s.service ≠ 1 || s.disp.tt.isNone || decide (s.now ≤ s.disp.frameStart + 2 * s.framePeriod)) = false := by
    simp [hservice, htt, hlate]
  refine answers_frameLost hl ?_
  rw [hlost]
  refine ⟨?_, fun hdefault => ?_⟩
  · exact (keepsIslands_islandAct ..).bits _ (by decide) _ (stuck_recordErr s pgTick 0x5904 noUnit)
  · have haction : (s.recordErr pgTick 0x5904).tableAction State.evFrameLost false = .safeHold := by
      rw [State.tableAction, State.recordErr_safety, hdefault]
      rfl
    rw [islandAct_safeHold _ (by rw [service_recordErr_tick, hservice]; decide) haction]
    exact pins_safeHold _ _

/-- Settles O36: every fault ends in an island that has stopped beside its survivor, or in SAFE_RESET, and the survivor's actions keep both. -/
theorem islandsSuperviseAndAct : Obligations.IslandsSuperviseAndAct := by
  intro s hl
  refine ⟨fun x hx => ⟨?_, ?_⟩, fun hA hB hmissB => ⟨?_, ?_⟩, fun hA => ⟨?_, ?_, ?_⟩, fun c a b => ⟨?_, ?_, ?_, ?_⟩,
    fun mv hA => ⟨?_, ?_⟩, ?_⟩
  · exact islandFault_leaves_survivor hl hx
  · exact fun ho => answers_islandFault hl (wasReset_islandFails hl hx ho)
  · exact fun hmissA => islandStateWord_counts hl hA hB hmissA hmissB
  · exact islandStateWord_third_miss hl hA hB
  · exact heartbeatCheck_third_miss hl hA
  · exact heartbeatCheck_progress hl hA
  · exact heartbeatCheck_no_progress hl
  · exact clockCheck_refclk hl
  · exact clockCheck_oscA hl
  · exact clockCheck_oscB hl
  · exact clockCheck_agreed hl
  · exact voltageSample_inside hl hA
  · exact voltageSample_third_out hl hA
  · exact frameLost_acts hl

end Sys2Proof.Proofs
end

section
/-! SUPPORT. What a convoy seat that fences itself leaves alone: the registers below the LEDGER page, among them the SERVICE block's (R45, R375). -/

namespace Sys2Proof.Proofs

open Sys2Proof Sys2Proof.Machine Sys2Proof.Claims

/-! ### Registers below the LEDGER page -/

/-- Every register below the LEDGER page, the SERVICE page among them, has the value that it had. -/
def KeepsService (s t : State) : Prop := ∀ a, a < pgLedger → t.reg a = s.reg a

theorem KeepsService.refl (s : State) : KeepsService s s := fun _ _ => rfl

theorem KeepsService.trans {s t u : State} (h : KeepsService s t) (h' : KeepsService t u) : KeepsService s u :=
  fun a ha => (h' a ha).trans (h a ha)

theorem KeepsService.fld {s t : State} (h : KeepsService s t) {a : Nat} (ha : a < pgLedger) (hi lo : Nat) : t.fld a hi lo = s.fld a hi lo :=
  congrArg (bitsOf · hi lo) (h a ha)

theorem keepsService_of_regs {s t : State} (hregs : t.regs = s.regs) (hfuses : t.fuses = s.fuses) : KeepsService s t :=
  fun a _ => reg_congr hregs hfuses a

/-! What follows takes a frame one operation further: `KeepsService s t` gives `KeepsService s (t.op …)`. An operation that stores no register needs no
lemma: the frame itself is the proof. -/

section
variable {s t : State}

theorem KeepsService.setReg (h : KeepsService s t) {b : Nat} (hb : pgLedger ≤ b) (w : Word) : KeepsService s (t.setReg b w) :=
  fun a ha => (reg_setReg_ne t w (by omega)).trans (h a ha)

theorem KeepsService.setFld (h : KeepsService s t) {b : Nat} (hb : pgLedger ≤ b) (hi lo v : Nat) : KeepsService s (t.setFld b hi lo v) :=
  h.setReg hb _

theorem KeepsService.bump (h : KeepsService s t) {b : Nat} (hb : pgLedger ≤ b) (n : Nat) : KeepsService s (t.bump b n) := h.setReg hb _

theorem KeepsService.ite {c : Prop} [Decidable c] {u : State} (ht : KeepsService s t) (hu : KeepsService s u) : KeepsService s (if c then t else u) := by
  split <;> assumption

theorem KeepsService.forEach {α : Type} {f : State → α → State} (h : KeepsService s t) (l : List α)
    (hf : ∀ u x, KeepsService s u → KeepsService s (f u x)) : KeepsService s (forEach l t f) := by
  induction l generalizing t with
  | nil => exact h
  | cons x l ih => exact ih (hf t x h)

/-! ### Pages from LEDGER on -/

theorem pgLedger_le_hubPage {k : Nat} (hk : 4 ≤ k) (hub : Nat) : pgLedger ≤ hubPage hub k := by
  simp only [pgLedger, hubPage]; omega

theorem pgLedger_le_tilePage (u k : Nat) : pgLedger ≤ tilePage u k := by
  simp only [pgLedger, hubPage, tilePage]; omega

theorem pgLedger_le_diePage (d k : Nat) : pgLedger ≤ diePage d k := by
  simp only [pgLedger, hubPage, diePage]; omega

theorem pgLedger_le_pgIsl (i : Nat) : pgLedger ≤ pgIsl i := by
  simp only [pgLedger, hubPage, pgIsl]; omega

theorem pgLedger_le_dockReg (u k o : Nat) : pgLedger ≤ State.dockReg u k o := by
  have := pgLedger_le_tilePage u 2
  simp only [State.dockReg, pgDock]; omega

theorem pgLedger_le_berthReg (u n o : Nat) : pgLedger ≤ State.berthReg u n o := by
  have := pgLedger_le_tilePage u 1
  simp only [State.berthReg, pgBerth]; omega

theorem pgLedger_le_consistReg (n o : Nat) : pgLedger ≤ State.consistReg n o := by
  have : pgLedger ≤ pgCvy := by decide
  simp only [State.consistReg]; omega

/-! ### Errors and notices -/

theorem KeepsService.countErr (h : KeepsService s t) {page : Nat} (hp : pgLedger ≤ page) (code : Nat) : KeepsService s (t.countErr page code) :=
  (h.bump (by omega) 1).setFld (by omega) _ _ 1

theorem KeepsService.recordErr (h : KeepsService s t) {page : Nat} (hp : pgLedger ≤ page) (code unit : Nat) :
    KeepsService s (t.recordErr page code unit) :=
  h.trans fun a ha => regsBut_recordErr t page code unit a fun hmem => by
    simp only [errRegs, List.mem_cons, List.not_mem_nil, or_false] at hmem
    omega

theorem KeepsService.noticeTo (h : KeepsService s t) (p ty code tenant arg : Nat) : KeepsService s (t.noticeTo p ty code tenant arg) := by
  have hp : pgLedger ≤ pgPlat p := pgLedger_le_hubPage (by omega) p
  unfold State.noticeTo
  extract_lets k a phase rec0 s1
  have hring : KeepsService s s1 := h
  exact (hring.setReg (by omega) _).setFld (b := pgPlat p + 0x108) (by omega) 0 0 1

theorem KeepsService.notice (h : KeepsService s t) (ty code tenant arg : Nat) : KeepsService s (t.notice ty code tenant arg) :=
  (h.noticeTo 0 ty code tenant arg).noticeTo 1 ty code tenant arg

/-! ### The islands' actions and the start of a recovery -/

theorem KeepsService.assertPin (h : KeepsService s t) (x : Side) : KeepsService s (t.assertPin x) := by
  cases x <;> exact h.setFld (b := pgIsl _ + 0x100) (Nat.le_add_right_of_le (pgLedger_le_pgIsl _)) 3 3 1

theorem KeepsService.assertBoth (h : KeepsService s t) : KeepsService s t.assertBoth := (h.assertPin .a).assertPin .b

theorem KeepsService.logIsland (h : KeepsService s t) (x : Side) (code act : Nat) : KeepsService s (t.logIsland x code act) := by
  have hp := pgLedger_le_pgIsl (State.sideNo x)
  unfold State.logIsland
  split
  · exact ((h.setReg (by omega) _).setReg (by omega) _).setReg (by omega) _
  · exact h

theorem KeepsService.logIslands (h : KeepsService s t) (code act : Nat) : KeepsService s (t.logIslands code act) :=
  (h.logIsland .a code act).logIsland .b code act

theorem KeepsService.safeHold (h : KeepsService s t) (code : Nat) : KeepsService s (t.safeHold code) := (h.logIslands code 2).assertBoth

theorem KeepsService.islandAct (h : KeepsService s t) (ev code : Nat) (own safetyRank : Bool) :
    KeepsService s (t.islandAct ev code own safetyRank) := by
  have hgpio : KeepsService s ((t.logIslands code 1).driveGpio ev) := h.logIslands code 1
  unfold State.islandAct
  split
  · exact h.logIslands code 0
  · split
    · exact h.safeHold code
    · exact .ite hgpio (hgpio.notice 6 code 0 _)

theorem KeepsService.stopTile (h : KeepsService s t) (u : Nat) : KeepsService s (t.stopTile u) := h

theorem KeepsService.quench (h : KeepsService s t) : KeepsService s t.quench := by
  unfold State.quench
  extract_lets s1
  have htiles : KeepsService s s1 := h.forEach _ fun _ u hu => .ite (hu.stopTile u) hu
  clear_value s1
  exact htiles

theorem KeepsService.warmStop (h : KeepsService s t) : KeepsService s t.warmStop := by
  unfold State.warmStop
  extract_lets s1 s2 s3
  have htiles : KeepsService s s1 := h.forEach _ fun _ u hu => .ite (hu.stopTile u) hu
  have hstacks : KeepsService s s2 := htiles.forEach _ fun _ d hu => hu.setFld (Nat.le_add_right_of_le (pgLedger_le_diePage d 1)) 3 3 1
  have hports : KeepsService s s3 := hstacks.forEach _ fun _ _ hu => hu
  clear_value s3
  exact hports

theorem KeepsService.safeReset (h : KeepsService s t) (code : Nat) : KeepsService s (t.safeReset code) := by
  unfold State.safeReset
  split
  · extract_lets s1
    have hstop : KeepsService s s1 := ((h.logIslands code 3).assertBoth).warmStop
    clear_value s1
    exact hstop
  · exact h.assertBoth

theorem KeepsService.startRecovery (h : KeepsService s t) (x : Suspect) : KeepsService s (t.startRecovery x) := by
  have hp : pgLedger ≤ pgSafety + 0x100 := by decide
  unfold State.startRecovery
  split
  · exact h
  · split
    · refine KeepsService.setFld (KeepsService.setFld ?_ hp 3 3 0) hp 4 4 _
      exact h.quench
    · split
      · exact .ite h h
      · exact h

/-! ### Marked lines that a hub unit reads (R294, R307) -/

theorem KeepsService.channelMigrates (h : KeepsService s t) (d ch : Nat) : KeepsService s (t.channelMigrates d ch) := by
  have hfailing : KeepsService s (t.updStack d (fun k => { k with failing := some (ch, t.now) })) := h
  exact .ite h (hfailing.setFld (Nat.le_add_right_of_le (pgLedger_le_diePage d 1)) 2 2 1)

theorem KeepsService.channelFailing (h : KeepsService s t) (d ch : Nat) : KeepsService s (t.channelFailing d ch) := by
  have hp := pgLedger_le_diePage d 1
  have hnoSpare : KeepsService s ((t.updStack d (fun k => { k with noSpare := ch :: k.noSpare })).recordErr (pgDramc d) 0x4409 ch) :=
    KeepsService.recordErr (t := t.updStack d _) h hp _ _
  unfold State.channelFailing
  dsimp only
  split
  · exact .ite h hnoSpare
  · exact .ite (.ite h hnoSpare) ((h.channelMigrates d ch).recordErr hp _ _)

theorem KeepsService.markLine (h : KeepsService s t) (l : Nat) (mac patrol : Bool) : KeepsService s (t.markLine l mac patrol) := by
  have hp := pgLedger_le_diePage (lineDie l) 1
  unfold State.markLine
  extract_lets d p o n s1 s2 dram s3 s4
  have hcounted : KeepsService s s1 := h.bump (t := t) (b := if mac then p + 0x11C else p + 0x118) (by split <;> exact Nat.le_add_right_of_le hp) 1
  have hwhere : KeepsService s s3 := (hcounted.setReg (Nat.le_add_right_of_le hp) _).setReg (Nat.le_add_right_of_le hp) _
  have hrecorded : KeepsService s s4 := hwhere.recordErr hp _ _
  exact .ite (hrecorded.channelFailing _ _) hrecorded

theorem KeepsService.reserveLine (h : KeepsService s t) (l : Nat) (copyBad : Bool) : KeepsService s (t.reserveLine l copyBad) := by
  unfold State.reserveLine
  extract_lets s1
  have hread : KeepsService s s1 := by
    dsimp only [s1]
    split
    · exact .ite h (h.markLine _ false false)
    · exact h
  clear_value s1
  exact .ite hread (((hread.recordErr (pgLedger_le_diePage _ 1) _ _).assertBoth).safeReset _)

theorem KeepsService.countPoison (h : KeepsService s t) (ks : List Nat) : KeepsService s (t.countPoison ks) :=
  h.forEach _ fun _ _ hu => (hu.bump (Nat.le_add_right_of_le (pgLedger_le_diePage _ 1)) 1).countErr (pgLedger_le_diePage _ 1) _

theorem KeepsService.devPoison (h : KeepsService s t) (a n : Nat) : KeepsService s (t.devPoison a n) := by
  unfold State.devPoison
  extract_lets ks hit s1
  have hlines : KeepsService s s1 := (h.countPoison ks).forEach _ fun _ l hu => hu.reserveLine l false
  clear_value s1
  exact .ite hlines (hlines.startRecovery .none)

theorem KeepsService.stepPoison (h : KeepsService s t) (wb : Waybill) : KeepsService s (t.stepPoison wb) := by
  unfold State.stepPoison
  extract_lets s1
  have hcommit : KeepsService s s1 := .ite (h.devPoison wb.commit 8) h
  exact .ite (hcommit.devPoison wb.arg0 State.recordBytes) hcommit

theorem KeepsService.writeHere (h : KeepsService s t) (ks : List Nat) (bs : List Byte) : KeepsService s (t.writeHere ks bs) := by
  unfold State.writeHere
  extract_lets hit part s1 marked
  have hcounted : KeepsService s s1 := h.forEach _ fun _ _ hu =>
    (hu.bump (Nat.le_add_right_of_le (pgLedger_le_diePage _ 1)) 1).countErr (pgLedger_le_diePage _ 1) _
  clear_value s1
  exact hcounted

theorem KeepsService.devWrite (h : KeepsService s t) (a : Nat) (bs : List Byte) : KeepsService s (t.devWrite a bs) :=
  .ite (h.writeHere _ _) ((h.writeHere _ _).writeHere _ _)

end

end Sys2Proof.Proofs
end

section
/-! SUPPORT. The end of work, of a consist and of a membership keeps the SERVICE registers (R240, R374, R386). -/

namespace Sys2Proof.Proofs

open Sys2Proof Sys2Proof.Machine Sys2Proof.Claims

section
variable {s t : State}

/-! ### Berths, docks and units -/

theorem KeepsService.closeDock (h : KeepsService s t) (u k : Nat) : KeepsService s (t.closeDock u k) :=
  .ite h (h.setFld (pgLedger_le_dockReg u k 0) 1 0 _)

theorem KeepsService.closeDocks (h : KeepsService s t) (u n : Nat) : KeepsService s (t.closeDocks u n) :=
  h.forEach _ fun _ k hv => .ite (hv.closeDock u k) hv

theorem KeepsService.updBerth (h : KeepsService s t) (u n : Nat) (f : BerthInfo → BerthInfo) : KeepsService s (t.updBerth u n f) :=
  h.trans (keepsService_of_regs rfl rfl)

theorem KeepsService.finishEmpty (h : KeepsService s t) (u n : Nat) : KeepsService s (t.finishEmpty u n) := by
  have hb := pgLedger_le_berthReg u n
  unfold State.finishEmpty
  refine KeepsService.updBerth ?_ u n _
  exact ((((h.setFld (hb 8) 17 16 0).setFld (hb 0) 6 0 0).setFld (hb 0) 22 16 0).setFld (hb 4) 4 0 0).setFld (hb 4) 21 16 0

theorem KeepsService.emptyBerth (h : KeepsService s t) (u n : Nat) : KeepsService s (t.emptyBerth u n) := by
  have hdocks := h.closeDocks u n
  exact .ite hdocks (hdocks.finishEmpty u n)

theorem KeepsService.setTileState (h : KeepsService s t) (u v : Nat) : KeepsService s (t.setTileState u v) :=
  h.setFld (Nat.le_add_right_of_le (pgLedger_le_tilePage u 0)) 2 0 v

theorem KeepsService.freeTile (h : KeepsService s t) (u : Nat) : KeepsService s (t.freeTile u) := by
  unfold State.freeTile
  extract_lets n s1 s2
  have hleft : KeepsService s s1 := h
  have hberth : KeepsService s s2 := .ite (hleft.setFld (pgLedger_le_berthReg u n 8) 17 16 2) (.ite (hleft.emptyBerth u n) hleft)
  exact .ite (hberth.setTileState u 1) hberth

theorem KeepsService.freeUnits (h : KeepsService s t) (p : Placement) : KeepsService s (t.freeUnits p) :=
  h.forEach _ fun _ u hv => hv.freeTile u

/-! ### Sequences and step records -/

theorem KeepsService.givePage (h : KeepsService s t) (ap ppn : Nat) (drop : Bool) : KeepsService s (t.givePage ap ppn drop) := h

theorem KeepsService.unpin (h : KeepsService s t) (n : Nat) : KeepsService s (t.unpin n) := by
  unfold State.unpin
  extract_lets q s1 ps s2
  have hgiven : KeepsService s s2 := KeepsService.forEach (t := s1) h _ fun _ _ hv => hv.givePage _ _ _
  clear_value s2
  exact .ite hgiven h

theorem KeepsService.unpinAll (h : KeepsService s t) (l : List Nat) : KeepsService s (Machine.forEach l t (fun v n => v.unpin n)) :=
  h.forEach _ fun _ n hv => hv.unpin n

theorem KeepsService.applyRecord (h : KeepsService s t) (a : Nat) : KeepsService s (t.applyRecord a) :=
  h.forEach _ fun _ _ hv => .ite hv (.ite hv (hv.devWrite _ _))

theorem KeepsService.noteStep (h : KeepsService s t) (p : Placement) (st lo : Nat) : KeepsService s (t.noteStep p st lo) := by
  unfold State.noteStep
  split
  · exact h
  · have hstep := h.setReg (pgLedger_le_consistReg ‹Nat› 0x30) (BitVec.ofNat 32 (t.srStep p.wb.arg0))
    have hcvy : pgLedger ≤ pgCvy + 0x130 := by decide
    exact .ite h (.ite ((hstep.setReg hcvy _).setReg (Nat.le_add_right_of_le hcvy) _) hstep)

/-! ### The end of work -/

theorem KeepsService.taskFailed (h : KeepsService s t) (e : Nat) : KeepsService s (t.taskFailed e) := by
  have hnamed := h.setReg (b := pgTick + 0x130) (by decide) (BitVec.ofNat 32 (e % 4096 + 2 ^ 31))
  exact ((hnamed.recordErr (page := pgDispatch) (by decide) 0x5A04 noUnit).notice 6 0x5A04 0 _).islandAct _ _ _ _

theorem KeepsService.countOverrun (h : KeepsService s t) (e status : Nat) : KeepsService s (t.countOverrun e status) := by
  have hrun (r : EntryRun) : KeepsService s (t.setEntryRun e r) := h
  exact .ite (hrun _) (.ite (.ite ((hrun _).taskFailed e) (hrun _)) h)

theorem KeepsService.finishTask (h : KeepsService s t) (p : Placement) (e : Nat) : KeepsService s (t.finishTask p e) := by
  unfold State.finishTask
  extract_lets s1 run s2
  have hfree : KeepsService s s1 := h.freeUnits p
  have hended : KeepsService s s2 := .ite hfree hfree
  exact hended.countOverrun e p.status

theorem KeepsService.endWaybill (h : KeepsService s t) (p : Placement) : KeepsService s (t.endWaybill p) := by
  unfold State.endWaybill
  extract_lets com st lo s1 s2 s3 s4
  have hrecord : KeepsService s s1 := .ite (h.applyRecord _) h
  have hunpinned : KeepsService s s3 := hrecord.unpinAll p.pinned
  have hcounted : KeepsService s s4 := KeepsService.noteStep (.ite (hunpinned.bump (by decide) 1) hunpinned) p st lo
  exact hcounted

theorem KeepsService.finishWaybill (h : KeepsService s t) (p : Placement) : KeepsService s (t.finishWaybill p) := by
  have hread := h.stepPoison p.wb
  exact .ite (h.endWaybill p) (.ite h (.ite hread (hread.endWaybill p)))

theorem KeepsService.endShed (h : KeepsService s t) (p : Placement) : KeepsService s (t.endShed p) := by
  unfold State.endShed
  extract_lets s1
  have hunpinned : KeepsService s s1 := h.unpinAll p.pinned
  clear_value s1
  split <;> exact hunpinned

theorem KeepsService.finishWork (h : KeepsService s t) (wid : Nat) : KeepsService s (t.finishWork wid) := by
  unfold State.finishWork
  split
  · exact h
  · refine .ite h (.ite ((h.freeUnits _).endShed _) ?_)
    split
    · exact h.finishTask _ _
    · exact h.finishWaybill _

theorem KeepsService.abortWork (h : KeepsService s t) (wid status code : Nat) : KeepsService s (t.abortWork wid status code) := by
  unfold State.abortWork
  split
  · exact h
  · refine .ite h ?_
    extract_lets rep s1 s2
    have hstopped : KeepsService s s1 := h.forEach _ fun v u hv => KeepsService.closeDocks (t := v.updTile u _) hv _ _
    exact KeepsService.finishWork (t := s2) hstopped wid

theorem KeepsService.endUnstarted (h : KeepsService s t) (wid status : Nat) : KeepsService s (t.endUnstarted wid status) := by
  unfold State.endUnstarted
  split
  · exact h
  · refine .ite h ?_
    extract_lets s1 s2 s3
    have hberths : KeepsService s s2 := (h.unpinAll _).forEach _ fun _ u hv => .ite (hv.emptyBerth u _) hv
    clear_value s2
    split
    · have hfree : KeepsService s s3 := hberths.freeUnits _
      exact .ite hfree hfree
    · exact hberths

theorem KeepsService.endAhead (h : KeepsService s t) (p : Placement) (status : Nat) : KeepsService s (t.endAhead p status) := h.unpinAll p.pinned

/-! ### Consists and membership -/

theorem KeepsService.abortRings (h : KeepsService s t) (rs : List Nat) (status : Nat) : KeepsService s (t.abortRings rs status) := by
  unfold State.abortRings
  extract_lets ps s1 lost s2
  have haborted : KeepsService s s1 := h.forEach _ fun _ p hv => .ite (hv.abortWork p.wid status 0) (hv.endUnstarted p.wid status)
  exact KeepsService.forEach (t := s2) haborted _ fun _ p hv => hv.endAhead p status

theorem KeepsService.bitPut (h : KeepsService s t) (base i : Nat) (b : Bool) : KeepsService s (t.bitPut base i b) :=
  h.trans (keepsService_of_regs rfl rfl)

theorem KeepsService.clearBell (h : KeepsService s t) (r : Nat) : KeepsService s (t.clearBell r) := by
  unfold State.clearBell
  extract_lets s1 s2
  have hleaf : KeepsService s s1 := h.bitPut State.bitLeaf r false
  have hl2 : KeepsService s s2 := hleaf.bitPut State.bitL2 (r / 64) false
  clear_value s1 s2
  exact .ite hleaf (.ite hl2 (hl2.bitPut State.bitL1 (r / 4096) false))

theorem KeepsService.flushRing (h : KeepsService s t) (r status fuel : Nat) : KeepsService s (State.flushRing r status fuel t) := by
  induction fuel generalizing t with
  | zero => exact h.clearBell r
  | succ fuel ih => exact ih (t := (t.takeHead r).completeUnrun (t.headWaybill r) (t.ring r).head.toNat status) h

theorem KeepsService.closeRing (h : KeepsService s t) (r status : Nat) : KeepsService s (t.closeRing r status) :=
  .ite h (KeepsService.flushRing (t := t.setRing r { t.ring r with enable := false }) h r status _)

theorem KeepsService.abortConsist (h : KeepsService s t) (n : Nat) : KeepsService s (t.abortConsist n) := by
  unfold State.abortConsist
  refine .ite h ?_
  extract_lets rs s1 s2 s3
  have hrings : KeepsService s s2 := (h.abortRings rs csConvoyAbort).forEach _ fun _ r hv => hv.closeRing r csConvoyAbort
  have hslot := hrings.setFld (pgLedger_le_consistReg n 0) 29 28 2
  have hlogged : KeepsService s s3 := (hslot.bump (b := pgCvy + 0x150) (by decide) 1).recordErr (by decide) 0x6D03 noUnit
  exact hlogged.notice 0x0B 0 0 _

theorem KeepsService.abortConsists (h : KeepsService s t) : KeepsService s t.abortConsists := h.forEach _ fun _ n hv => hv.abortConsist n

theorem KeepsService.cutMoves (h : KeepsService s t) (f : Nat → Bool) : KeepsService s (t.cutMoves f) :=
  h.forEach _ fun _ _ hv => .ite hv hv

theorem KeepsService.transmit (h : KeepsService s t) (p : CaravanPacket) (wire : List Byte) : KeepsService s (t.transmit p wire) := by
  unfold State.transmit
  split
  · exact h
  · next e _ =>
    have hresolved (dest : BitVec 128) : KeepsService s (t.resolve e dest) := .ite h h
    exact .ite h (hresolved _)

theorem KeepsService.post (h : KeepsService s t) (seat tenant : Nat) (o : CaravanOp) : KeepsService s (t.post seat tenant o) := by
  unfold State.post State.sendNow
  extract_lets p x
  exact .ite (KeepsService.transmit (t := t.setPeer seat _) h _ _) h

theorem KeepsService.fenceNow (h : KeepsService s t) (left : Nat) : KeepsService s (t.fenceNow left) := by
  unfold State.fenceNow
  refine .ite h ?_
  extract_lets s1 s2 s3
  have hcut : KeepsService s s1 := h.abortConsists.cutMoves _
  have hposted : KeepsService s s2 := hcut.forEach _ fun _ n hv => hv.post n 0 .leave
  have hstate : KeepsService s s3 := (hposted.setFld (b := pgCvy + 0x104) (by decide) 1 0 left).setFld (b := pgCvy + 0x104) (by decide) 2 2 0
  exact KeepsService.notice (t := s3.updConvoy _) hstate 0x0B 0 0 _

theorem KeepsService.fenceSelf (h : KeepsService s t) (left : Nat) : KeepsService s (t.fenceSelf left) :=
  .ite (.ite (h.setFld (b := pgCvy + 0x104) (by decide) 1 0 left) h) ((h.fenceNow left).recordErr (by decide) 0x6D02 noUnit)

end

end Sys2Proof.Proofs
end

section
/-! SUPPORT. Service requests, the parked condition, and the handovers that a request starts or cancels (R45–R49, R51, R53). -/

namespace Sys2Proof.Proofs

open Sys2Proof Sys2Proof.Machine Sys2Proof.Claims

/-! ### Fields of the SERVICE registers (R45) -/

/-- A field inside the written one holds its part of the value. -/
theorem bitsOf_setBits_within (w : Word) {hi lo hi' lo' : Nat} (v : Nat) (hlo : lo ≤ lo') (hle : lo' ≤ hi') (hhi : hi' ≤ hi) (h32 : hi < 32) :
    bitsOf (setBits w hi lo v) hi' lo' = v / 2 ^ (lo' - lo) % 2 ^ (hi' + 1 - lo') := by
  refine Nat.eq_of_testBit_eq fun i => ?_
  rw [testBit_bitsOf, testBit_setBits w v _ (by omega) h32, Nat.testBit_mod_two_pow, Nat.testBit_div_two_pow]
  by_cases hi1 : i < hi' + 1 - lo'
  · rw [if_pos (by omega), show lo' + i - lo = i + (lo' - lo) by omega]
  · simp [hi1]

theorem fld_setFld_within (s : State) (a : Nat) {hi lo hi' lo' : Nat} (v : Nat) (hlo : lo ≤ lo') (hle : lo' ≤ hi') (hhi : hi' ≤ hi) (h32 : hi < 32) :
    (s.setFld a hi lo v).fld a hi' lo' = v / 2 ^ (lo' - lo) % 2 ^ (hi' + 1 - lo') := by
  rw [State.fld, State.setFld, reg_setReg_same, bitsOf_setBits_within _ _ hlo hle hhi h32]

theorem serviceStat_lt : pgService + 0x104 < pgLedger := by decide

theorem KeepsService.service {s t : State} (h : KeepsService s t) : t.service = s.service := h.fld serviceStat_lt 1 0

theorem KeepsService.serviceResult {s t : State} (h : KeepsService s t) : t.serviceResult = s.serviceResult := h.fld serviceStat_lt 23 16

theorem KeepsService.svcStep {s t : State} (h : KeepsService s t) : svcStep t = svcStep s := h.fld serviceStat_lt 7 4

theorem KeepsService.svcDir {s t : State} (h : KeepsService s t) : svcDir t = svcDir s := h.fld serviceStat_lt 8 8

theorem KeepsService.driveReady {s t : State} (h : KeepsService s t) : t.driveReady = s.driveReady := by
  rw [State.driveReady, State.driveReady, h.fld serviceStat_lt]

theorem KeepsService.depotReady {s t : State} (h : KeepsService s t) : t.depotReady = s.depotReady := by
  rw [State.depotReady, State.depotReady, h.fld serviceStat_lt]

/-! ### The parked condition (R47, R48) -/

/-- Without a handover to depot, a check of the parked condition freezes or unfreezes dispatch, with a notice where it freezes, and does nothing else. -/
theorem parkCheck_cases {s : State} (hdir : ∀ h, s.svc = some h → h.toDepot = false) :
    s.parkCheck = s ∨ s.parkCheck = s.updDisp (fun d => { d with frozen := d.frozen && s.service ≠ 2 }) ∨
      s.parkCheck = (s.updDisp (fun d => { d with frozen := true })).notice 2 := by
  unfold State.parkCheck
  split
  · exact .inr (.inl rfl)
  · split
    · split
      · exact .inl rfl
      · exact .inr (.inr rfl)
    · split
      · next h hs => simp [hdir h hs]
      · exact .inl rfl

theorem keepsService_parkCheck {s : State} (hdir : ∀ h, s.svc = some h → h.toDepot = false) : KeepsService s s.parkCheck := by
  obtain h | h | h := parkCheck_cases hdir <;> rw [h]
  · exact .refl s
  · exact .refl s
  · exact KeepsService.notice (t := s.updDisp _) (.refl s) 2 0 0 0

/-- Neither the handover nor the last frame's mark changes. -/
theorem parkCheck_handover {s : State} (hdir : ∀ h, s.svc = some h → h.toDepot = false) :
    s.parkCheck.svc = s.svc ∧ s.parkCheck.disp.lastFrame = s.disp.lastFrame := by
  obtain h | h | h := parkCheck_cases hdir <;> simp [h, State.updDisp]

theorem parkCheck_of_parked {s : State} (hp : s.parkedNow = true) :
    s.parkCheck = s.updDisp (fun d => { d with frozen := d.frozen && s.service ≠ 2 }) := if_pos hp

/-- Depot service freezes dispatch while the parked condition does not hold (R48). -/
theorem frozen_parkCheck_depot {s : State} (hp : s.parkedNow = false) (hs : s.service = 2) : s.parkCheck.disp.frozen = true := by
  rw [State.parkCheck, if_neg (by simp [hp]), if_pos hs]
  split
  · assumption
  · simp [State.updDisp]

/-- The islands' records keep what PARK_OK_SAMPLE has put there. -/
theorem safety_parkCheck (s : State) : s.parkCheck.safety = s.safety := by
  have hduring (h : Handover) : (s.driveDuring h).safety = s.safety := by
    unfold State.driveDuring
    split
    · rfl
    · split
      · rfl
      · split <;> rfl
  unfold State.parkCheck
  split
  · rfl
  · split
    · split
      · rfl
      · exact State.notice_safety ..
    · split
      · split
        · exact hduring _
        · rfl
      · rfl

theorem sides_all {f : Side → Bool} : [Side.a, Side.b].all f = true ↔ ∀ x, f x = true := by
  refine List.all_eq_true.trans ⟨fun h x => h x (by cases x <;> decide), fun h x _ => h x⟩

/-! ### A write of SERVICE_REQ (R45) -/

/-- The state in which a write of SERVICE_REQ has stored PARKED. -/
def parkedSet (s : State) (p : Bool) : State := s.setFld (pgService + 0x100) 8 8 (b2n p)

theorem fld_parkedSet (s : State) (p : Bool) : (parkedSet s p).fld (pgService + 0x100) 8 8 = b2n p := by
  rw [parkedSet, fld_setFld_same _ _ _ (by omega) (by omega)]
  cases p <;> rfl

theorem stat_parkedSet (s : State) (p : Bool) (hi lo : Nat) : (parkedSet s p).fld (pgService + 0x104) hi lo = s.fld (pgService + 0x104) hi lo :=
  fld_setFld_ne s _ _ _ _ _ (by decide)

theorem service_parkedSet (s : State) (p : Bool) : (parkedSet s p).service = s.service := stat_parkedSet s p 1 0

theorem driveReady_parkedSet (s : State) (p : Bool) : (parkedSet s p).driveReady = s.driveReady := by
  rw [State.driveReady, State.driveReady, stat_parkedSet]

theorem island_congr {s t : State} (h : t.safety = s.safety) (x : Side) : t.island x = s.island x := by
  cases x <;> simp [State.island, h]

theorem islandOk_congr {s t : State} (h : t.safety = s.safety) (x : Side) : t.islandOk x = s.islandOk x := by
  rw [State.islandOk, island_congr h, State.islandOk]

theorem parkedNow_congr {s t : State} (hparked : t.fld (pgService + 0x100) 8 8 = s.fld (pgService + 0x100) 8 8) (h : t.safety = s.safety) :
    t.parkedNow = s.parkedNow := by
  simp only [State.parkedNow, hparked, islandOk_congr h, island_congr h]

theorem safety_parkedSet (s : State) (p : Bool) : (parkedSet s p).safety = s.safety := rfl

theorem svc_parkedSet (s : State) (p : Bool) : (parkedSet s p).svc = s.svc := rfl

theorem parkedNow_parkedSet_false (s : State) : (parkedSet s false).parkedNow = false := by
  simp [State.parkedNow, fld_parkedSet, b2n]

theorem parkedNow_parkedSet_true {s : State} (h : ∀ x, s.islandOk x = true → (s.island x).park.level = true) :
    (parkedSet s true).parkedNow = true := by
  have hsides : [Side.a, Side.b].all (fun x => !s.islandOk x || (s.island x).park.level) = true := sides_all.mpr fun x => by
    cases hx : s.islandOk x with
    | true => exact h x hx
    | false => rfl
  simp only [State.parkedNow, fld_parkedSet, islandOk_congr (safety_parkedSet s true), island_congr (safety_parkedSet s true), hsides]
  rfl

theorem writeServiceReq_unkeyed {target g : Nat} (ht : target = 1 ∨ target = 2) (hg : g ≠ 0x5E7C) (s : State) (p : Bool) :
    s.writeServiceReq target p g = ((parkedSet s p).refuseService 0x14).parkCheck := by
  obtain rfl | rfl := ht <;> simp [State.writeServiceReq, parkedSet, hg]

theorem writeServiceReq_drive (s : State) (p : Bool) : s.writeServiceReq 1 p 0x5E7C = (parkedSet s p).driveRequest.parkCheck := rfl

theorem writeServiceReq_depot (s : State) (p : Bool) : s.writeServiceReq 2 p 0x5E7C = (parkedSet s p).depotRequest.parkCheck := rfl

theorem answers_serviceReqDrive {s : State} {who : Writer} {p : Bool} {g : BitVec 16} {P : State → Prop} (hl : s.live = true)
    (hw : mayWrite s who (pgService + 0x100) = true) (h : P (s.writeServiceReq 1 p g.toNat)) : Answers (.serviceReqDrive who p g) s P :=
  answers_whenLive (f := fun s => s.regWrite who (pgService + 0x100) (fun s => s.writeServiceReq 1 p g.toNat)) rfl hl
    (by rwa [regWrite_of_mayWrite hw])

theorem answers_serviceReqDepot {s : State} {who : Writer} {p : Bool} {g : BitVec 16} {P : State → Prop} (hl : s.live = true)
    (hw : mayWrite s who (pgService + 0x100) = true) (h : P (s.writeServiceReq 2 p g.toNat)) : Answers (.serviceReqDepot who p g) s P :=
  answers_whenLive (f := fun s => s.regWrite who (pgService + 0x100) (fun s => s.writeServiceReq 2 p g.toNat)) rfl hl
    (by rwa [regWrite_of_mayWrite hw])

theorem answers_parked {s : State} {who : Writer} {p : Bool} {P : State → Prop} (hl : s.live = true)
    (hw : mayWrite s who (pgService + 0x100) = true) (h : P (parkedSet s p).parkCheck) : Answers (.parked who p) s P :=
  answers_whenLive (f := fun s => s.regWrite who (pgService + 0x100) (fun s => s.writeServiceReq 0 p 0)) rfl hl
    (by rwa [regWrite_of_mayWrite hw])

/-! ### Refusals (R46) -/

/-- A refusal changes nothing of the service but RESULT. -/
theorem refuseService_parkCheck {s : State} (hsvc : s.svc = none) {v : Nat} (hv : v < 256) :
    let t := (s.refuseService v).parkCheck
    t.serviceResult = v ∧ t.service = s.service ∧ t.svc = none := by
  have hnone : (s.refuseService v).svc = none := (State.notice_svc ..).trans hsvc
  have hdir : ∀ h, (s.refuseService v).svc = some h → h.toDepot = false := fun h hs => by simp [hnone] at hs
  have hkeep : KeepsService (s.setResult v) (s.refuseService v).parkCheck :=
    KeepsService.trans ((KeepsService.refl _).notice _ _ _ _) (keepsService_parkCheck hdir)
  refine ⟨?_, ?_, ?_⟩
  · rw [hkeep.serviceResult, State.serviceResult, State.setResult, fld_setFld_same _ _ _ (by omega) (by omega)]
    exact Nat.mod_eq_of_lt hv
  · rw [hkeep.service, State.service, State.setResult, fld_setFld_other _ _ _ (by omega) (by omega) (by omega), State.service]
  · rw [(parkCheck_handover hdir).1, hnone]

/-! ### Handovers that a request starts (R49, R51) -/

/-- The handover to drive as it starts. -/
def toDriveFrom (s : State) (request abandoned : Nat) : Handover :=
  { toDepot := false, step := 1, trigger := s.now, request := request, driveWanted := false, abandoned := abandoned, lateLogged := false,
    before := s.fld (pgService + 0x104) 8 8, failed := false }

/-- The handover to depot as it starts. -/
def toDepotFrom (s : State) : Handover :=
  { toDepot := true, step := 1, trigger := s.now, request := s.now, driveWanted := false, abandoned := 0, lateLogged := false,
    before := s.fld (pgService + 0x104) 8 8, failed := false }

theorem svc_beginToDrive (s : State) (request result abandoned : Nat) :
    (s.beginToDrive request result abandoned).svc = some (toDriveFrom s request abandoned) := rfl

theorem svc_beginToDepot (s : State) : s.beginToDepot.svc = some (toDepotFrom s) := rfl

/-- SERVICE_STAT as a handover to drive starts: the convoy seat that fences itself leaves it alone. -/
theorem stat_beginToDrive (s : State) (request abandoned : Nat) {result : Nat} (hr : result < 256) :
    let t := s.beginToDrive request result abandoned
    t.service = 3 ∧ svcStep t = 1 ∧ svcDir t = 0 ∧ t.serviceResult = result ∧ t.depotReady = false ∧ t.driveReady = false := by
  extract_lets t
  have hfence : KeepsService (((((s.setService 3).setStep 1).setFld (pgService + 0x104) 8 8 0).setFld (pgService + 0x104) 3 2 0).setResult result) t :=
    (KeepsService.refl _).fenceSelf 0
  rw [hfence.service, hfence.svcStep, hfence.svcDir, hfence.serviceResult, hfence.depotReady, hfence.driveReady]
  simp (disch := omega) [State.service, svcStep, svcDir, State.serviceResult, State.depotReady, State.driveReady, State.setService, State.setStep,
    State.setResult, fld_setFld_same, fld_setFld_other, fld_setFld_within, Nat.mod_eq_of_lt hr]

theorem regs_beginToDepot (s : State) :
    s.beginToDepot.regs = ((((s.setService 3).setStep 1).setFld (pgService + 0x104) 8 8 1).setResult 1).regs := by
  simp [State.beginToDepot, State.updDisp]

theorem fuses_beginToDepot (s : State) :
    s.beginToDepot.fuses = ((((s.setService 3).setStep 1).setFld (pgService + 0x104) 8 8 1).setResult 1).fuses := by
  simp [State.beginToDepot, State.updDisp]

theorem safety_beginToDepot (s : State) : s.beginToDepot.safety = s.safety := rfl

theorem stat_beginToDepot (s : State) : let t := s.beginToDepot
    t.service = 3 ∧ svcStep t = 1 ∧ svcDir t = 1 ∧ t.serviceResult = 1 := by
  extract_lets t
  have hstat : KeepsService ((((s.setService 3).setStep 1).setFld (pgService + 0x104) 8 8 1).setResult 1) t :=
    keepsService_of_regs (regs_beginToDepot s) (fuses_beginToDepot s)
  rw [hstat.service, hstat.svcStep, hstat.svcDir, hstat.serviceResult]
  simp (disch := omega) [State.service, svcStep, svcDir, State.serviceResult, State.setService, State.setStep, State.setResult, fld_setFld_same,
    fld_setFld_other]

theorem parkedNow_beginToDepot {s : State} (h : s.parkedNow = true) : s.beginToDepot.parkedNow = true := by
  have hparked : s.beginToDepot.fld (pgService + 0x100) 8 8 = s.fld (pgService + 0x100) 8 8 := by
    rw [fld_congr (regs_beginToDepot s) (fuses_beginToDepot s)]
    simp [State.setService, State.setStep, State.setResult, fld_setFld_ne]
  rw [parkedNow_congr hparked (safety_beginToDepot s), h]

theorem stat_cancelToDepot {s : State} {h : Handover} (hsvc : s.svc = some h) (hb : h.before < 2) : let t := s.cancelToDepot
    t.service = 1 ∧ svcStep t = 0 ∧ svcDir t = h.before ∧ t.serviceResult = 3 := by
  extract_lets t
  have hstat : KeepsService ((((s.setService 1).setStep 0).setResult 3).setFld (pgService + 0x104) 8 8 h.before) t :=
    keepsService_of_regs (by simp [t, State.cancelToDepot, State.updDisp, hsvc]) (by simp [t, State.cancelToDepot, State.updDisp])
  rw [hstat.service, hstat.svcStep, hstat.svcDir, hstat.serviceResult]
  simp (disch := omega) [State.service, svcStep, svcDir, State.serviceResult, State.setService, State.setStep, State.setResult, fld_setFld_same,
    fld_setFld_other, Nat.mod_eq_of_lt hb]

/-! ### Requests by the running service (R47, R53) -/

section
variable {s : State} (hs : s.service = 1) (hr : s.driveReady = true) (hh : s.safety.holdAsked = false)
include hs hr hh

theorem depotRequest_not_parked : (parkedSet s false).depotRequest = (parkedSet s false).refuseService 0x10 := by
  simp [State.depotRequest, service_parkedSet, driveReady_parkedSet, safety_parkedSet, fld_parkedSet, b2n, hs, hr, hh]

theorem depotRequest_park_low (hlevels : ¬ ∀ x, s.islandOk x = true ∧ (s.island x).park.level = true) :
    (parkedSet s true).depotRequest = (parkedSet s true).refuseService 0x11 := by
  have hlow : [Side.a, Side.b].all (fun x => s.islandOk x && (s.island x).park.level) = false := by
    simpa only [← Bool.not_eq_true, sides_all, Bool.and_eq_true] using hlevels
  simp only [State.depotRequest, service_parkedSet, driveReady_parkedSet, safety_parkedSet, fld_parkedSet, islandOk_congr (safety_parkedSet s true),
    island_congr (safety_parkedSet s true), hs, hr, hh, hlow]
  rfl

theorem depotRequest_starts (hlevels : ∀ x, s.islandOk x = true ∧ (s.island x).park.level = true) :
    (parkedSet s true).depotRequest = (parkedSet s true).beginToDepot := by
  have hhigh : [Side.a, Side.b].all (fun x => s.islandOk x && (s.island x).park.level) = true := by
    simpa only [sides_all, Bool.and_eq_true] using hlevels
  simp only [State.depotRequest, service_parkedSet, driveReady_parkedSet, safety_parkedSet, fld_parkedSet, islandOk_congr (safety_parkedSet s true),
    island_congr (safety_parkedSet s true), hs, hr, hh, hhigh]
  rfl

end

theorem driveRequest_of_drive {s : State} (hsvc : s.svc = none) (hs : s.service = 1) (hr : s.driveReady = true) :
    s.driveRequest = s.refuseService 0x13 := by
  simp [State.driveRequest, hsvc, hs, hr]

theorem driveRequest_of_depot {s : State} (hsvc : s.svc = none) (hs : s.service = 2) : s.driveRequest = s.beginToDrive s.now 1 0 := by
  simp [State.driveRequest, hsvc, hs]

theorem driveRequest_of_toDepot {s : State} {h : Handover} (hsvc : s.svc = some h) (hf : h.failed = false) (hd : h.toDepot = true) (hstep : h.step ≤ 2) :
    s.driveRequest = s.cancelToDepot := by
  simp [State.driveRequest, State.driveDuring, hsvc, hf, hd, hstep]

/-! ### Each request as a whole -/

section
variable {s : State} {who : Writer} (hl : s.live = true) (hw : mayWrite s who (pgService + 0x100) = true)
include hl hw

/-- RESULT 0x14: the write carries no GUARD key. -/
theorem serviceReq_unkeyed {g : BitVec 16} (hsvc : s.svc = none) (hg : g.toNat ≠ 0x5E7C) (p : Bool) :
    let refused := fun t : State => t.serviceResult = 0x14 ∧ t.service = s.service ∧ t.svc = none
    Answers (.serviceReqDrive who p g) s refused ∧ Answers (.serviceReqDepot who p g) s refused := by
  have hrefused := refuseService_parkCheck (s := parkedSet s p) hsvc (v := 0x14) (by omega)
  rw [service_parkedSet] at hrefused
  refine ⟨answers_serviceReqDrive hl hw ?_, answers_serviceReqDepot hl hw ?_⟩
  · rwa [writeServiceReq_unkeyed (.inl rfl) hg]
  · rwa [writeServiceReq_unkeyed (.inr rfl) hg]

section
variable {g : BitVec 16} (hg : g.toNat = 0x5E7C)
include hg

section
variable (hsvc : s.svc = none) (hs : s.service = 1) (hr : s.driveReady = true) (hh : s.safety.holdAsked = false)
include hsvc hs hr

/-- RESULT 0x13: drive service runs already. -/
theorem serviceReqDrive_in_drive (p : Bool) :
    Answers (.serviceReqDrive who p g) s (fun t => t.serviceResult = 0x13 ∧ t.service = s.service ∧ t.svc = none) := by
  refine answers_serviceReqDrive hl hw ?_
  have hrequest := driveRequest_of_drive (s := parkedSet s p) hsvc ((service_parkedSet ..).trans hs) ((driveReady_parkedSet ..).trans hr)
  rw [hg, writeServiceReq_drive, hrequest, ← service_parkedSet s p]
  exact refuseService_parkCheck (s := parkedSet s p) hsvc (by omega)

include hh

/-- RESULT 0x10: PARKED is 0. -/
theorem serviceReqDepot_not_parked :
    Answers (.serviceReqDepot who false g) s (fun t => t.serviceResult = 0x10 ∧ t.service = s.service ∧ t.svc = none) := by
  refine answers_serviceReqDepot hl hw ?_
  rw [hg, writeServiceReq_depot, depotRequest_not_parked hs hr hh, ← service_parkedSet s false]
  exact refuseService_parkCheck (s := parkedSet s false) hsvc (by omega)

/-- RESULT 0x11: an island does not see PARK_OK high. -/
theorem serviceReqDepot_park_low (hlevels : ¬ ∀ x, s.islandOk x = true ∧ (s.island x).park.level = true) :
    Answers (.serviceReqDepot who true g) s (fun t => t.serviceResult = 0x11 ∧ t.service = s.service ∧ t.svc = none) := by
  refine answers_serviceReqDepot hl hw ?_
  rw [hg, writeServiceReq_depot, depotRequest_park_low hs hr hh hlevels, ← service_parkedSet s true]
  exact refuseService_parkCheck (s := parkedSet s true) hsvc (by omega)

omit hsvc in
/-- The handover to depot starts at step 1, and the frame in progress is the last (R51). -/
theorem serviceReqDepot_starts (hlevels : ∀ x, s.islandOk x = true ∧ (s.island x).park.level = true) :
    Answers (.serviceReqDepot who true g) s (fun t => (t.service = 3 ∧ svcStep t = 1 ∧ svcDir t = 1 ∧ t.serviceResult = 1 ∧
      ∃ h, t.svc = some h ∧ h.toDepot = true ∧ h.step = 1 ∧ h.trigger = s.now ∧ h.request = s.now) ∧
      t.disp.lastFrame = true ∧ t.disp.tickOwed = false) := by
  have hparked : (parkedSet s true).beginToDepot.parkedNow = true := parkedNow_beginToDepot (parkedNow_parkedSet_true fun x _ => (hlevels x).2)
  refine answers_serviceReqDepot hl hw ?_
  rw [hg, writeServiceReq_depot, depotRequest_starts hs hr hh hlevels, parkCheck_of_parked hparked]
  obtain ⟨hservice, hstep, hdir, hresult⟩ := stat_beginToDepot (parkedSet s true)
  have hkeep (f : Dispatcher → Dispatcher) : KeepsService (parkedSet s true).beginToDepot ((parkedSet s true).beginToDepot.updDisp f) :=
    keepsService_of_regs rfl rfl
  exact ⟨⟨(hkeep _).service.trans hservice, (hkeep _).svcStep.trans hstep, (hkeep _).svcDir.trans hdir, (hkeep _).serviceResult.trans hresult,
    _, svc_beginToDepot _, rfl, rfl, rfl, rfl⟩, rfl, rfl⟩

end

/-- The handover to drive starts at step 1, and neither service is ready (R49). -/
theorem serviceReqDrive_starts (hsvc : s.svc = none) (hs : s.service = 2) (p : Bool) :
    Answers (.serviceReqDrive who p g) s (fun t => (t.service = 3 ∧ svcStep t = 1 ∧ svcDir t = 0 ∧ t.serviceResult = 1 ∧
      ∃ h, t.svc = some h ∧ h.toDepot = false ∧ h.step = 1 ∧ h.trigger = s.now ∧ h.request = s.now) ∧
      t.depotReady = false ∧ t.driveReady = false) := by
  refine answers_serviceReqDrive hl hw ?_
  rw [hg, writeServiceReq_drive, driveRequest_of_depot (s := parkedSet s p) hsvc (by rw [service_parkedSet, hs])]
  have hdir : ∀ h, ((parkedSet s p).beginToDrive s.now 1 0).svc = some h → h.toDepot = false := fun h hh => by
    rw [← Option.some.inj ((svc_beginToDrive ..).symm.trans hh)]
    rfl
  have hkeep := keepsService_parkCheck hdir
  obtain ⟨hservice, hstep, hdirection, hresult, hdepot, hdrive⟩ := stat_beginToDrive (parkedSet s p) s.now 0 (result := 1) (by omega)
  exact ⟨⟨hkeep.service.trans hservice, hkeep.svcStep.trans hstep, hkeep.svcDir.trans hdirection, hkeep.serviceResult.trans hresult,
    _, (parkCheck_handover hdir).1.trans (svc_beginToDrive ..), rfl, rfl, rfl, rfl⟩, hkeep.depotReady.trans hdepot, hkeep.driveReady.trans hdrive⟩

/-- A handover to depot is cancelled before its pairs decouple (R53). -/
theorem serviceReqDrive_cancels {h : Handover} (hsvc : s.svc = some h) (hf : h.failed = false) (hd : h.toDepot = true) (hstep : h.step ≤ 2)
    (hb : h.before < 2) (p : Bool) :
    Answers (.serviceReqDrive who p g) s (fun t => t.service = 1 ∧ svcStep t = 0 ∧ svcDir t = h.before ∧ t.serviceResult = 3 ∧ t.svc = none ∧
      t.disp.lastFrame = false) := by
  refine answers_serviceReqDrive hl hw ?_
  rw [hg, writeServiceReq_drive, driveRequest_of_toDepot (s := parkedSet s p) hsvc hf hd hstep]
  have hdir : ∀ x, (parkedSet s p).cancelToDepot.svc = some x → x.toDepot = false := nofun
  have hkeep := keepsService_parkCheck hdir
  obtain ⟨hservice, hstep0, hdirection, hresult⟩ := stat_cancelToDepot (s := parkedSet s p) hsvc hb
  obtain ⟨hnone, hlast⟩ := parkCheck_handover hdir
  exact ⟨hkeep.service.trans hservice, hkeep.svcStep.trans hstep0, hkeep.svcDir.trans hdirection, hkeep.serviceResult.trans hresult, hnone, hlast⟩

end
end

theorem serviceRequestsStartOrAreRefused : ServiceRequestsStartOrAreRefused := by
  intro s who p g hl hw
  refine ⟨fun hsvc hg => serviceReq_unkeyed hl hw hsvc hg p, fun hg => ⟨fun hsvc hs hr hh => ⟨?_, ?_, ?_, ?_⟩, ?_, ?_⟩⟩
  · exact serviceReqDepot_not_parked hl hw hg hsvc hs hr hh
  · exact serviceReqDepot_park_low hl hw hg hsvc hs hr hh
  · exact serviceReqDepot_starts hl hw hg hs hr hh
  · exact serviceReqDrive_in_drive hl hw hg hsvc hs hr p
  · exact fun hsvc hs => serviceReqDrive_starts hl hw hg hsvc hs p
  · exact fun h hsvc hf hd hstep hb => serviceReqDrive_cancels hl hw hg hsvc hf hd hstep hb p

/-! ### The parked condition in depot service, and the samples of PARK_OK -/

theorem parked_false_freezes {s : State} {who : Writer} (hl : s.live = true) (hw : mayWrite s who (pgService + 0x100) = true) (hsvc : s.svc = none)
    (hs : s.service = 2) : Answers (.parked who false) s (fun t => t.fld (pgService + 0x100) 8 8 = 0 ∧ t.disp.frozen = true) := by
  have hkeep : KeepsService (parkedSet s false) (parkedSet s false).parkCheck :=
    keepsService_parkCheck fun h hh => by simp [svc_parkedSet, hsvc] at hh
  refine answers_parked hl hw ⟨?_, ?_⟩
  · rw [hkeep.fld (by decide), fld_parkedSet]
    rfl
  · exact frozen_parkCheck_depot (parkedNow_parkedSet_false s) (by rw [service_parkedSet, hs])

theorem parked_true_unfreezes {s : State} {who : Writer} (hl : s.live = true) (hw : mayWrite s who (pgService + 0x100) = true) (hs : s.service = 2)
    (hlevels : ∀ x, s.islandOk x = true → (s.island x).park.level = true) :
    Answers (.parked who true) s (fun t => t.fld (pgService + 0x100) 8 8 = 1 ∧ t.disp.frozen = false ∧ t.mem = s.mem) := by
  refine answers_parked hl hw ?_
  rw [parkCheck_of_parked (parkedNow_parkedSet_true hlevels), service_parkedSet, hs]
  exact ⟨fld_parkedSet s true, Bool.and_false _, rfl⟩

/-- PARK_OK_SAMPLE leaves each healthy island's filter with its sample. -/
theorem parkOkSample_filters {s : State} (hl : s.live = true) (a b : Bool) :
    Answers (.parkOkSample a b) s (fun t => ∀ x, s.islandOk x = true →
      (t.island x).park = State.parkSample (s.island x).park (match x with | .a => a | .b => b)) := by
  refine answers_whenLive (f := fun s => ((s.updIsland .a (fun i => { i with park := State.parkSample i.park a })).updIsland .b
    (fun i => { i with park := State.parkSample i.park b })).parkCheck) rfl hl fun x hx => ?_
  cases x with
  | a =>
    show (State.parkCheck _).safety.islA.park = _
    rw [safety_parkCheck, updIslands_eq, hx]
    rfl
  | b =>
    show (State.parkCheck _).safety.islB.park = _
    rw [safety_parkCheck, updIslands_eq, hx]
    rfl

/-- The filter's level changes with the third equal sample in a row that differs from it (R47). -/
theorem parkSample_filter (f : ParkFilter) (v : Bool) : let f' := State.parkSample f v
    (v = f.level → f'.level = f.level ∧ f'.run = 0) ∧ (v ≠ f.level → f.run = 2 → f'.level = v ∧ f'.run = 0) ∧
    (v ≠ f.level → f.run < 2 → f'.level = f.level ∧ f'.run = f.run + 1) := by
  refine ⟨fun hv => ?_, fun hv hrun => ?_, fun hv hrun => ?_⟩
  · rw [State.parkSample, if_pos hv]
    exact ⟨rfl, rfl⟩
  · rw [State.parkSample, if_neg hv, if_pos (by omega)]
    exact ⟨rfl, rfl⟩
  · rw [State.parkSample, if_neg hv, if_neg (by omega)]
    exact ⟨rfl, rfl⟩

theorem parkedConditionFollowsSamples : ParkedConditionFollowsSamples := by
  refine fun s hl => ⟨fun who hw hsvc hs => ⟨parked_false_freezes hl hw hsvc hs, parked_true_unfreezes hl hw hs⟩, fun a b => ?_⟩
  obtain ⟨t, hexec, hfilter⟩ := parkOkSample_filters hl a b
  refine ⟨t, hexec, fun x hx => ?_⟩
  rw [hfilter x hx]
  exact parkSample_filter ..

/-- Settles O17: a request is refused or starts or cancels its handover by the first condition that fails, and the parked condition is checked after each write and sample. -/
theorem serviceRequestsNeedTheParkedCondition : Obligations.ServiceRequestsNeedTheParkedCondition :=
  ⟨serviceRequestsStartOrAreRefused, parkedConditionFollowsSamples⟩

end Sys2Proof.Proofs
end

section
/-! SUPPORT. The outcome that the last step of a handover to drive puts into RESULT (R45, R46, R53). -/

namespace Sys2Proof.Proofs

open Sys2Proof Sys2Proof.Machine Sys2Proof.Claims

/-- RESULT is a field of eight bits (R45). -/
theorem serviceResult_lt (s : State) : s.serviceResult < 256 := Nat.mod_lt _ (by decide)

/-- A handover to drive in step 8 that keeps 256 as the outcome of the handover that it follows: a number that no RESULT holds. The model itself keeps
0, 3 or 4 there (log entry 49), but the statement speaks of every handover record. -/
def wideOutcome : Handover :=
  { toDepot := false, step := 8, trigger := 0, request := 0, driveWanted := false, abandoned := 256, lateLogged := false, before := 0, failed := false }

/-- A live device in that handover. -/
def wideHandover : State := { State.reset with start := { State.reset.start with hold := .none }, svc := some wideOutcome }

/-- The report of a step whose checks have all passed. -/
def passedStep : StepReport :=
  { ok := true, failTiles := [], badRows := [], injFailPairs := [], injFailLanes := [], injOncePairs := [], injOnceLanes := [], march := [],
    untrained := [], logBad := [], lanes := [], trngFails := 0, reserveAt := 0, image := [], slots := [], table := none,
    provision := { rings := [], pages := [], programs := [] } }

/-- Refutes O15: the last step of a handover to drive is said to leave RESULT at the kept outcome whatever number that is, and RESULT holds eight bits of it. -/
theorem not_handoversStepAndFail : ¬ Obligations.HandoversStepAndFail := by
  intro hall
  obtain ⟨hphase, -⟩ := hall wideHandover wideOutcome passedStep rfl rfl rfl rfl
  obtain ⟨-, hlast, -⟩ := hphase rfl
  have hpass := (hlast rfl rfl rfl).2 (by decide) rfl rfl rfl
  obtain ⟨t, -, -, -, -, -, hresult⟩ := hpass
  have hwide : t.serviceResult = 256 := hresult
  exact absurd (serviceResult_lt t) (by omega)

end Sys2Proof.Proofs
end

section
/-! SUPPORT. The head of a control ring that the Stationmaster serves: the command whose operation it asks for gets it, taken, and completes it (R228, R230). -/

namespace Sys2Proof.Proofs

open Sys2Proof Sys2Proof.Machine Sys2Proof.Claims

/-! ### The head that is taken -/

/-- Clearing a doorbell bit writes memory alone (R232). -/
theorem clearBell_eq (s : State) (r : Nat) : ∃ m, s.clearBell r = { s with mem := m } := by
  unfold State.clearBell
  extract_lets s1 s2
  split
  · exact ⟨s1.mem, rfl⟩
  · split
    · exact ⟨s2.mem, rfl⟩
    · exact ⟨(s2.bitPut State.bitL1 (r / 4096) false).mem, rfl⟩

/-- The dispatcher once the head of a control ring was taken (R230). -/
def headTaken (s : State) (r : Nat) : Dispatcher :=
  { s.disp with rings := smPut s.disp.rings r { s.ring r with head := (s.ring r).head + 1 }, ctlCursor := r }

/-- The Stationmaster that takes a head changes the dispatcher, and memory where the doorbell bit lies. -/
theorem takeControl_eq (s : State) (r : Nat) : ∃ m, s.takeControl r = { s with disp := headTaken s r, mem := m } := by
  unfold State.takeControl
  extract_lets s1
  split
  · obtain ⟨m, hm⟩ := clearBell_eq s1 r
    exact ⟨m, hm⟩
  · exact ⟨s.mem, rfl⟩

theorem takeControl_disp (s : State) (r : Nat) : (s.takeControl r).disp = headTaken s r := by
  obtain ⟨m, hm⟩ := takeControl_eq s r
  rw [hm]

@[simp] theorem takeControl_ledger (s : State) (r : Nat) : (s.takeControl r).ledger = s.ledger := by
  obtain ⟨m, hm⟩ := takeControl_eq s r
  rw [hm]

/-! ### The command that the head is for -/

theorem serveControl_of_controlHead {s : State} {r op : Nat} {e : CtlEntry} (h : controlHead s r op e) (f : State → CtlEntry → Nat → State) :
    s.serveControl r op f = f (s.takeControl r) e (s.ring r).head.toNat := by
  obtain ⟨-, hnext, rfl, hheld, hmarked, hop, hlisted⟩ := h
  simp [State.serveControl, hnext, hheld, hmarked, hop, hlisted]

theorem answers_of_controlHead {s : State} {r op : Nat} {e : CtlEntry} {c : Instr} {f : State → CtlEntry → Nat → State} {P : State → Prop}
    (hc : exec c s = whenLive s (fun s => s.serveControl r op f)) (h : controlHead s r op e)
    (hp : P (f (s.takeControl r) e (s.ring r).head.toNat)) : Answers c s P :=
  answers_whenLive hc h.1 (by rw [serveControl_of_controlHead h]; exact hp)

/-- The operation's own effect leaves rings and completions alone; the completion follows it. -/
theorem controlDone_completeControl {s u : State} {r : Nat} (hu : u.disp = (s.takeControl r).disp) (e : CtlEntry) (status value : Nat) :
    controlDone s (u.completeControl r (s.ring r).head.toNat e status value) r e status value := by
  rw [takeControl_disp] at hu
  constructor
  · simp [State.completeControl, State.pushCompletion, State.updDisp, State.ring, hu, headTaken]
  · simp [State.completeControl, State.pushCompletion, State.updDisp, hu, headTaken]

@[simp] theorem completeControl_ledger (s : State) (r i : Nat) (e : CtlEntry) (status value : Nat) :
    (s.completeControl r i e status value).ledger = s.ledger := rfl

/-- An operation that is refused is completed, and the Ledger is as it was. -/
theorem controlDone_refused (s : State) (r : Nat) (e : CtlEntry) (status : Nat) :
    controlDone s ((s.takeControl r).completeControl r (s.ring r).head.toNat e status 0) r e status 0 ∧
      ((s.takeControl r).completeControl r (s.ring r).head.toNat e status 0).ledger = s.ledger :=
  ⟨controlDone_completeControl rfl e status 0, by rw [completeControl_ledger, takeControl_ledger]⟩

end Sys2Proof.Proofs
end

section
/-! SUPPORT. Descriptors, entries and the free pool of the Ledger after a write, and what the operations on entries leave alone (R199, R202, R203, R206). -/

namespace Sys2Proof.Proofs

open Sys2Proof Sys2Proof.Machine

/-! ### Descriptors (R203) -/

theorem seq_congr {s t : State} (h : t.ledger.seqs = s.ledger.seqs) (n : Nat) : t.seq n = s.seq n := by
  rw [State.seq, State.seq, h]

@[simp] theorem seq_setSeq_same (s : State) (n : Nat) (q : Seq) : (s.setSeq n q).seq n = q := smGet_smPut_same ..

theorem seq_setSeq_ne (s : State) {n m : Nat} (q : Seq) (h : m ≠ n) : (s.setSeq n q).seq m = s.seq m := smGet_smPut_ne _ _ q h

@[simp] theorem takeControl_seq (s : State) (r n : Nat) : (s.takeControl r).seq n = s.seq n :=
  seq_congr (by rw [takeControl_ledger]) n

theorem takeControl_seqForeign (s : State) (r t n : Nat) : (s.takeControl r).seqForeign t n = s.seqForeign t n := by
  rw [State.seqForeign, State.seqForeign, takeControl_seq]

/-! ### Entries (R199) -/

theorem smFind_append {α : Type} (m m' : SMap α) (k : Nat) : smFind (m ++ m') k = (smFind m k).or (smFind m' k) := by
  induction m with
  | nil => simp
  | cons f m ih =>
    obtain ⟨i, w⟩ := f
    by_cases hk : k = i <;> simp [smFind, hk, ih]

/-- In a map with one value at all of its keys, every key that is listed reads as that value. -/
theorem smFind_of_const {α : Type} {m : SMap α} {k : Nat} {v : α} (hv : ∀ e ∈ m, e.2 = v) (hk : k ∈ m.map (·.1)) : smFind m k = some v := by
  induction m with
  | nil => simp at hk
  | cons f m ih =>
    obtain ⟨i, w⟩ := f
    obtain ⟨rfl, hv⟩ := List.forall_mem_cons.mp hv
    rw [smFind]
    split
    · rfl
    · exact ih hv ((List.mem_cons.mp hk).resolve_left ‹_›)

theorem smFind_run {α : Type} (v : α) {lo n k : Nat} (hlo : lo ≤ k) (hk : k < lo + n) :
    smFind ((List.range n).map (fun i => (lo + i, v))) k = some v := by
  refine smFind_of_const (by simp) ?_
  simp only [List.map_map, List.mem_map, List.mem_range, Function.comp]
  exact ⟨k - lo, by omega, by omega⟩

theorem smGet_smFill_inside {α : Type} (m : SMap α) (d v : α) {lo n k : Nat} (hlo : lo ≤ k) (hk : k < lo + n) :
    smGet (smFill m lo n v) d k = v := by
  have hbelow : smFind (m.filter (fun e => e.1 < lo)) k = none := by
    rw [smFind_filter (fun j => decide (j < lo)), if_neg (by simpa using hlo)]
  rw [smGet, smFill, smFind_append, smFind_append, hbelow, smFind_run v hlo hk]
  rfl

/-! ### The free pool (R206) -/

theorem poolHas_cons (lo n : Nat) (p : List (Nat × Nat)) (x : Nat) :
    poolHas ((lo, n) :: p) x = true ↔ (lo ≤ x ∧ x < lo + n) ∨ poolHas p x = true := by
  simp [poolHas]

theorem poolHas_poolAdd_same (p : List (Nat × Nat)) (x : Nat) : poolHas (poolAdd p x) x = true := by
  induction p with
  | nil => simp [poolAdd, poolHas]
  | cons r p ih =>
    obtain ⟨lo, n⟩ := r
    rw [poolAdd.eq_def]
    dsimp only
    split
    · exact (poolHas_cons ..).mpr (.inl (by omega))
    · split
      · exact (poolHas_cons ..).mpr (.inl (by omega))
      · split
        · exact (poolHas_cons ..).mpr (.inl (by omega))
        · split
          · split
            · split <;> exact (poolHas_cons ..).mpr (.inl (by omega))
            · exact (poolHas_cons ..).mpr (.inl (by omega))
          · exact (poolHas_cons ..).mpr (.inr ih)

/-! ### What a change of entries leaves alone -/

/-- Between the two states only Ledger entries and what follows them has changed: descriptors, free pool, drop target, dispatcher, memory and tiles are the same. -/
structure KeepsBesideEntries (s t : State) : Prop where
  seqs : t.ledger.seqs = s.ledger.seqs
  pool : t.ledger.pool = s.ledger.pool
  dropTarget : t.ledger.dropTarget = s.ledger.dropTarget
  disp : t.disp = s.disp
  mem : t.mem = s.mem
  tiles : t.tiles = s.tiles

namespace KeepsBesideEntries

theorem refl (s : State) : KeepsBesideEntries s s := ⟨rfl, rfl, rfl, rfl, rfl, rfl⟩

theorem trans {s t u : State} (h : KeepsBesideEntries s t) (h' : KeepsBesideEntries t u) : KeepsBesideEntries s u :=
  ⟨h'.seqs.trans h.seqs, h'.pool.trans h.pool, h'.dropTarget.trans h.dropTarget, h'.disp.trans h.disp, h'.mem.trans h.mem, h'.tiles.trans h.tiles⟩

theorem forEach {α : Type} {f : State → α → State} (hf : ∀ v x, KeepsBesideEntries v (f v x)) (l : List α) (s : State) :
    KeepsBesideEntries s (Machine.forEach l s f) := by
  induction l generalizing s with
  | nil => exact refl s
  | cons x l ih => exact (hf s x).trans (ih (f s x))

theorem setEntry (s : State) (p : Nat) (e : LedgerEntry) : KeepsBesideEntries s (s.setEntry p e) := ⟨rfl, rfl, rfl, rfl, rfl, rfl⟩

theorem setEntries (s : State) (m : SMap LedgerEntry) : KeepsBesideEntries s (s.setEntries m) := ⟨rfl, rfl, rfl, rfl, rfl, rfl⟩

theorem givePage (s : State) (ap ppn : Nat) (drop : Bool) : KeepsBesideEntries s (s.givePage ap ppn drop) := ⟨rfl, rfl, rfl, rfl, rfl, rfl⟩

theorem rekeyPage (s : State) (ppn : Nat) (gen : Bool) : KeepsBesideEntries s (s.rekeyPage ppn gen) := by
  unfold State.rekeyPage
  extract_lets owner s1
  have howner : KeepsBesideEntries s s1 := ⟨rfl, rfl, rfl, rfl, rfl, rfl⟩
  split
  · exact howner.trans (setEntry s1 _ _)
  · exact howner

theorem backOff (s : State) (w : Sweep) (a : Nat) : KeepsBesideEntries s (s.backOff w a) := ⟨rfl, rfl, rfl, rfl, rfl, rfl⟩

theorem rekeyLocked (s : State) (w : Sweep) : KeepsBesideEntries s (s.rekeyLocked w) := by
  unfold State.rekeyLocked
  extract_lets s1
  have hpage : KeepsBesideEntries s s1 := by
    dsimp only [s1]
    split
    · exact rekeyPage s _ _
    · exact refl s
  exact hpage.trans ⟨rfl, rfl, rfl, rfl, rfl, rfl⟩

theorem resolveLock (s : State) (a : Nat) : KeepsBesideEntries s (s.resolveLock a) := by
  unfold State.resolveLock
  split
  · exact refl s
  · split
    · exact backOff s _ a
    · exact rekeyLocked s _

end KeepsBesideEntries

/-! ### One descriptor that changes -/

/-- Between the two states the descriptor `n` has become `q`; every other one and the dispatcher are the same. -/
structure SetsSeq (s t : State) (n : Nat) (q : Seq) : Prop where
  disp : t.disp = s.disp
  same : t.seq n = q
  others : ∀ m, m ≠ n → t.seq m = s.seq m

theorem setsSeq_setSeq (s : State) (n : Nat) (q : Seq) : SetsSeq s (s.setSeq n q) n q := ⟨rfl, seq_setSeq_same s n q, fun _ => seq_setSeq_ne s q⟩

theorem SetsSeq.trans {s t u : State} {n : Nat} {q q' : Seq} (h : SetsSeq s t n q) (h' : SetsSeq t u n q') : SetsSeq s u n q' :=
  ⟨h'.disp.trans h.disp, h'.same, fun m hm => (h'.others m hm).trans (h.others m hm)⟩

theorem KeepsBesideEntries.setsSeq {s t u : State} {n : Nat} {q : Seq} (h : KeepsBesideEntries s t) (h' : SetsSeq t u n q) : SetsSeq s u n q :=
  ⟨h'.disp.trans h.disp, h'.same, fun m hm => (h'.others m hm).trans (seq_congr h.seqs m)⟩

/-- A closing sequence that no step pins any more gives up its pages and its descriptor becomes free (R204, R208). -/
theorem setsSeq_unpin_closing {s : State} {n : Nat} (h : (s.seq n).state = .closing) : SetsSeq s (s.unpin n) n Seq.none := by
  unfold State.unpin
  extract_lets q s1 ps s2
  have hgiven : KeepsBesideEntries s1 s2 := .forEach (fun v p => .givePage v p _ _) _ s1
  clear_value s2
  rw [if_pos h]
  exact (setsSeq_setSeq s n _).trans ((hgiven.trans (.setEntries s2 _)).setsSeq (setsSeq_setSeq _ n Seq.none))

/-- A sequence that closes waits for the step that pins it, and is free at once where none does (R204). -/
theorem setsSeq_closeSequence (s : State) (n : Nat) :
    SetsSeq s (s.closeSequence n) n (if (s.seq n).pinned then { s.seq n with state := .closing } else Seq.none) := by
  have hclosing := setsSeq_setSeq s n { s.seq n with state := .closing }
  unfold State.closeSequence
  split
  · exact hclosing
  · exact hclosing.trans (setsSeq_unpin_closing (by rw [hclosing.same]))

end Sys2Proof.Proofs
end

section
/-! SUPPORT. OPEN, APPEND_TOKENS, SET_EVICTABLE and CLOSE: the descriptor that each one sets, and its refusals (R203, R204, R208, R215). -/

namespace Sys2Proof.Proofs

open Sys2Proof Sys2Proof.Machine Sys2Proof.Claims

/-- Aperture pages of the region that an OPEN asks for (R198). -/
def regionPages (e : CtlEntry) : Nat := 2 * e.layers * e.lmax * e.tpKib / 32

/-- The descriptor that an OPEN makes in the region that begins at the aperture page `base` (R203, R204). -/
def openedSeq (r : Nat) (e : CtlEntry) (base : Nat) : Seq :=
  { state := .opened, evictable := e.evictable, pinned := false, tenant := ringTenant r, region := base, pages := regionPages e,
    layers := e.layers, tpKib := e.tpKib, lmax := e.lmax, tokens := 0, kvLen := 0, mappedSpans := 0, toklog := e.param,
    lastServed := 0, droppedSpans := 0 }

/-- The Ledger entries of an opened sequence's region, all unmapped (R204). -/
def openedEntry (r n : Nat) : LedgerEntry := { LedgerEntry.unmapped with tenant := ringTenant r, seqTag := n }

/-- The Ledger after an OPEN that gets the tag `n` and the region at `base`. -/
def openedState (s : State) (r : Nat) (e : CtlEntry) (n base : Nat) : State :=
  (s.setEntries (smFill s.ledger.entries base (regionPages e) (openedEntry r n))).setSeq n (openedSeq r e base)

/-! ### The effect of each request -/

section
variable {s : State} {r i : Nat} {e : CtlEntry}

/-- An OPEN is within the reserve where its sequence is evictable or its region fits (R215). -/
theorem firm_allowed (h : e.evictable = true ∨ s.overReserve (ringTenant r) (regionPages e) = false) :
    (!e.evictable && s.overReserve (ringTenant r) (regionPages e)) = false := by
  rcases h with h | h <;> simp [h]

theorem doOpen_of_free {n base : Nat} (hbad : s.openBad { e with tenant := ringTenant r } = false)
    (hreserve : e.evictable = true ∨ s.overReserve (ringTenant r) (regionPages e) = false)
    (htag : s.freeTag = some n) (hrun : s.freeRun (regionPages e) = some base) :
    s.doOpen r e i = (openedState s r e n base).completeControl r i e csOk (n + (ledgerBase + base * pageBytes) * 2 ^ 16) := by
  have hfirm := firm_allowed hreserve
  unfold regionPages at hfirm hrun
  simp only [State.doOpen, hbad, hfirm, htag, hrun, Bool.false_eq_true, if_false]
  rfl

theorem doOpen_of_full (hbad : s.openBad { e with tenant := ringTenant r } = false)
    (hreserve : e.evictable = true ∨ s.overReserve (ringTenant r) (regionPages e) = false) (htag : s.freeTag = none) :
    s.doOpen r e i = s.completeControl r i e csSeqFull 0 := by
  have hfirm := firm_allowed hreserve
  unfold regionPages at hfirm
  simp only [State.doOpen, hbad, hfirm, htag, Bool.false_eq_true, if_false]

theorem doAppend_of_foreign (h : s.seqForeign (ringTenant r) e.seqTag = true) : s.doAppend r e i = s.completeControl r i e csNotOwner 0 := by
  rw [State.doAppend, if_pos h]

section
variable (hown : s.seqForeign (ringTenant r) e.seqTag = false)
include hown

theorem doAppend_of_fits (hpin : (s.seq e.seqTag).pinned = false) (hfits : (s.seq e.seqTag).tokens + e.lmax ≤ (s.seq e.seqTag).lmax) :
    s.doAppend r e i =
      (s.setSeq e.seqTag { s.seq e.seqTag with tokens := (s.seq e.seqTag).tokens + e.lmax }).completeControl r i e csOk 0 := by
  simp [State.doAppend, hown, hpin, Nat.not_lt.mpr hfits]

theorem doAppend_of_over (hpin : (s.seq e.seqTag).pinned = false) (hover : (s.seq e.seqTag).lmax < (s.seq e.seqTag).tokens + e.lmax) :
    s.doAppend r e i = s.completeControl r i e csFull 0 := by
  simp [State.doAppend, hown, hpin, hover]

/-- Only a request that makes an evictable sequence firm is checked against the reserve (R215). -/
theorem doEvictable_of_allowed (h : (s.seq e.seqTag).evictable = false ∨ e.lmax % 2 = 1) :
    s.doEvictable r e i = (s.setSeq e.seqTag { s.seq e.seqTag with evictable := decide (e.lmax % 2 = 1) }).completeControl r i e csOk 0 := by
  rcases h with h | h <;> simp [State.doEvictable, hown, h]

theorem doClose_of_own : s.doClose r e i = (s.closeSequence e.seqTag).completeControl r i e csOk 0 := by
  simp [State.doClose, hown]

end

end

/-! ### The answer of each request -/

theorem openedState_sets (s : State) (r : Nat) (e : CtlEntry) (n base : Nat) : SetsSeq s (openedState s r e n base) n (openedSeq r e base) :=
  (KeepsBesideEntries.setEntries s _).setsSeq (setsSeq_setSeq _ n _)

theorem entry_openedState (s : State) (r : Nat) (e : CtlEntry) (n : Nat) {base p : Nat} (hlo : base ≤ p) (hp : p < base + regionPages e) :
    (openedState s r e n base).entry p = openedEntry r n := smGet_smFill_inside _ _ _ hlo hp

/-- A request whose effect sets one descriptor: its entry is completed, and that descriptor alone has changed. -/
theorem request_done {s u : State} {r n : Nat} {q : Seq} (h : SetsSeq (s.takeControl r) u n q) (e : CtlEntry) (status value : Nat) :
    let t := u.completeControl r (s.ring r).head.toNat e status value
    controlDone s t r e status value ∧ (∀ m, m ≠ n → t.seq m = s.seq m) ∧ t.seq n = q :=
  ⟨controlDone_completeControl h.disp e status value, fun m hm => (h.others m hm).trans (takeControl_seq s r m), h.same⟩

theorem sequenceRequestsChangeTheirDescriptor : SequenceRequestsChangeTheirDescriptor := by
  intro s r e s1 q only own
  have hq : s1.seq e.seqTag = q := takeControl_seq s r e.seqTag
  have hforeign : s1.seqForeign (ringTenant r) e.seqTag = s.seqForeign (ringTenant r) e.seqTag := takeControl_seqForeign s r _ _
  refine ⟨fun h hbad hreserve => ⟨fun n base htag hrun => ?_, fun htag => ?_⟩, fun h => ⟨fun hown hpin hfits => ?_, fun hown hpin hover => ?_, fun hown => ?_⟩,
    fun h hown hallowed => ?_, fun h hown => ?_⟩
  · refine answers_of_controlHead (f := fun s e i => s.doOpen r e i) rfl h ?_
    rw [doOpen_of_free hbad hreserve htag hrun]
    obtain ⟨hdone, honly, hn⟩ := request_done (openedState_sets s1 r e n base) e csOk (n + (ledgerBase + base * pageBytes) * 2 ^ 16)
    refine ⟨hdone, honly, ?_⟩
    rw [hn]
    exact ⟨rfl, rfl, rfl, rfl, rfl, rfl, rfl, rfl, fun p hlo hp => entry_openedState s1 r e n hlo hp⟩
  · refine answers_of_controlHead (f := fun s e i => s.doOpen r e i) rfl h ?_
    rw [doOpen_of_full hbad hreserve htag]
    exact controlDone_refused s r e csSeqFull
  · refine answers_of_controlHead (f := fun s e i => s.doAppend r e i) rfl h ?_
    rw [doAppend_of_fits (hforeign.trans hown) (by rw [hq]; exact hpin) (by rw [hq]; exact hfits), hq]
    exact request_done (setsSeq_setSeq s1 _ _) e csOk 0
  · refine answers_of_controlHead (f := fun s e i => s.doAppend r e i) rfl h ?_
    rw [doAppend_of_over (hforeign.trans hown) (by rw [hq]; exact hpin) (by rw [hq]; exact hover)]
    exact controlDone_refused s r e csFull
  · refine answers_of_controlHead (f := fun s e i => s.doAppend r e i) rfl h ?_
    rw [doAppend_of_foreign (hforeign.trans (by simpa [own] using hown))]
    exact controlDone_refused s r e csNotOwner
  · refine answers_of_controlHead (f := fun s e i => s.doEvictable r e i) rfl h ?_
    rw [doEvictable_of_allowed (hforeign.trans hown) (by rw [hq]; exact hallowed), hq]
    exact request_done (setsSeq_setSeq s1 _ _) e csOk 0
  · refine answers_of_controlHead (f := fun s e i => s.doClose r e i) rfl h ?_
    rw [doClose_of_own (hforeign.trans hown)]
    obtain ⟨hdone, honly, hn⟩ := request_done (setsSeq_closeSequence s1 e.seqTag) e csOk 0
    refine ⟨hdone, honly, ?_⟩
    rw [hn, hq]
    split <;> rfl

end Sys2Proof.Proofs
end

section
/-! SUPPORT. The drop engine and the release of the pages that were given up (R202, R206, R210). -/

namespace Sys2Proof.Proofs

open Sys2Proof Sys2Proof.Machine Sys2Proof.Claims

/-! ### Drops (R210) -/

/-- A descriptor whose tail span was dropped (R203, R210). -/
def tailDropped (q : Seq) : Seq :=
  { q with mappedSpans := q.mappedSpans - 1, kvLen := min q.kvLen (32 * (q.mappedSpans - 1)), droppedSpans := min 0xFFFFFFFF (q.droppedSpans + 1) }

/-- A drop changes entries, then the descriptor, and is counted. -/
theorem dropTail_eq (s : State) (n : Nat) : ∃ u, KeepsBesideEntries s u ∧
    s.dropTail n = ((u.setSeq n (tailDropped (s.seq n))).bump (pgLedger + 0x11C)).countEvent (pgHubCnt 0) 9 := by
  have hlocks (l : List Nat) : KeepsBesideEntries s (forEach l s (fun v p => v.resolveLock p)) := .forEach .resolveLock l s
  refine ⟨_, (hlocks _).trans (.forEach (fun v p => ?_) _ _), rfl⟩
  dsimp only
  split
  · exact (KeepsBesideEntries.setEntry v p _).trans (.givePage _ p _ true)
  · exact .refl v

/-- The state in which the drop engine drops down to HIGH. -/
def dropping (s : State) : State := { s with ledger := { s.ledger with dropTarget := s.highMark } }

theorem execDropSpan_of_low {s : State} {n : Nat} (hlive : s.live = true) (htarget : s.ledger.dropTarget = 0) (hlow : s.freePages < s.lowMark)
    (hhigh : s.freePages + s.ledger.pending.length < s.highMark) (hold : s.oldestCandidate = some n) :
    execDropSpan s = .next ((dropping s).dropTail n) := by
  simp [execDropSpan, whenLive, hlive, htarget, hlow, Nat.not_le.mpr hhigh, hold, dropping]

theorem execDropSpan_of_enough {s : State} (hlive : s.live = true) (htarget : s.ledger.dropTarget = 0) (hlow : s.lowMark ≤ s.freePages) :
    execDropSpan s = .next s := by
  have hstop : ({ s with ledger := { s.ledger with dropTarget := 0 } } : State) = s := by rw [← htarget]
  simp [execDropSpan, whenLive, hlive, htarget, Nat.not_lt.mpr hlow, hstop]

/-! ### Releases (R202) -/

theorem execPageRelease_of_held {s : State} {idx : Nat} {p : PendingPage} (hlive : s.live = true) (hp : s.ledger.pending[idx]? = some p)
    (hheld : s.translationHeld p = true) : execPageRelease idx s = .next s := by
  simp [execPageRelease, whenLive, hlive, hp, hheld]

/-- With no placement that waits for pages, a release ends with the page in the pool. -/
theorem execPageRelease_of_unheld {s : State} {idx : Nat} {p : PendingPage} (hlive : s.live = true) (hp : s.ledger.pending[idx]? = some p)
    (hheld : s.translationHeld p = false) (hwait : s.disp.placements.any (·.waiting) = false) :
    execPageRelease idx s = .next (State.freePage { s with ledger := { s.ledger with pending := s.ledger.pending.eraseIdx idx } } p.ppn) := by
  have hnone : s.disp.placements.find? (·.waiting) = none := by simpa using hwait
  simp [execPageRelease, whenLive, hlive, hp, hheld, State.freePage, hnone]

theorem dropsAndReleasesFreePages : DropsAndReleasesFreePages := by
  refine fun s hlive => ⟨fun n htarget hlow hhigh hold => ?_, fun htarget hlow => ⟨s, execDropSpan_of_enough hlive htarget hlow, rfl⟩,
    fun idx p hp hwait => ⟨fun hheld => ⟨s, execPageRelease_of_held hlive hp hheld, rfl⟩,
      fun hheld => ⟨_, execPageRelease_of_unheld hlive hp hheld hwait, rfl, poolHas_poolAdd_same _ _, rfl, rfl⟩⟩⟩
  obtain ⟨u, hu, hdrop⟩ := dropTail_eq (dropping s) n
  have hset := hu.setsSeq (setsSeq_setSeq u n (tailDropped (s.seq n)))
  refine ⟨_, execDropSpan_of_low hlive htarget hlow hhigh hold, ?_⟩
  rw [hdrop]
  exact ⟨congrArg Seq.mappedSpans hset.same, congrArg Seq.kvLen hset.same, hu.dropTarget, hset.others, hu.mem, hu.tiles, hu.pool⟩

/-- Settles O23: a request sets the one descriptor that it names and completes, or is refused and leaves the Ledger as it was; a drop takes the tail span of the
oldest candidate, and a released page is in the pool. -/
theorem sequencesChangeAndGiveUpPages : Obligations.SequencesChangeAndGiveUpPages :=
  ⟨sequenceRequestsChangeTheirDescriptor, dropsAndReleasesFreePages⟩

end Sys2Proof.Proofs
end
